-- ==== Sys2Proof/Word.lean ====
section
/-! DEFINITION. The word types of the Amlek (spec 00_scope R2: bit 0 least significant, little-endian) and their plainest arithmetic. -/

namespace Sys2Proof

/-- A 64-bit scalar register, address or state register value. -/
abbrev Word := BitVec 64

/-- One instruction word (R58). -/
abbrev Word32 := BitVec 32

/-- One byte of memory. -/
abbrev Byte := BitVec 8

/-- Number of an `x` or an `f` register (R60). -/
abbrev Reg := BitVec 5

/-- The `len` bits of `w` from bit `lo` up (R2). -/
abbrev bits {n : Nat} (w : BitVec n) (lo len : Nat) : BitVec len := w.extractLsb' lo len

/-- A bit as one binary digit. -/
abbrev bit1 (b : Bool) : BitVec 1 := BitVec.ofBool b

end Sys2Proof
end

