-- ==== Sys2Proof/Config.lean ====
section
/-! DEFINITION. What a part fixes (spec 00_scope R5 to R10, 24_host_and_power R412) and the free values: what the
specification leaves open, as opaque constants of which nothing can be computed or proved. -/

namespace Sys2Proof

/-- The three parts (R7). -/
inductive Part where
  /-- AMK-2048-H -/
  | h
  /-- AMK-2048-L -/
  | l
  /-- AMK-1024-V -/
  | v
  deriving DecidableEq, Repr

namespace Part

/-- Elements of one element group, EG (R5, R7, R10). -/
def eg : Part → Nat
  | .h => 96 | .l => 96 | .v => 64

/-- Lanes per core (R7). -/
def lanes : Part → Nat
  | .h => 96 | .l => 96 | .v => 64

/-- Cores per compute die (R163, R10). -/
def coresPerDie : Part → Nat
  | .h => 256 | .l => 256 | .v => 128

/-- Cores per cluster (R5). -/
def coresPerCluster : Part → Nat
  | .h => 16 | .l => 16 | .v => 16

/-- Logical cores of the part (R7). -/
def cores : Part → Nat
  | .h => 2048 | .l => 2048 | .v => 1024

/-- Compute dies of the part (R7). -/
def dies : Part → Nat
  | .h => 8 | .l => 8 | .v => 8

/-- Matrix engines present (R7, R10). -/
def hasMx : Part → Bool
  | .h => true | .l => true | .v => false

/-- FAB instructions and fabric windows present (R9). -/
def hasFab : Part → Bool
  | .h => true | .l => false | .v => true

/-- `cap` (R412, the table of the three parts). -/
def cap : Part → Word
  | .h => 0x0000012060607FFE
  | .l => 0x0000010060607FF8
  | .v => 0x0000012040403FF6

/-- The clock bound ε of a domain-span group in ns (R367, R382); package span has ε = 0. -/
def epsDomain : Nat := 25

end Part

namespace Config

/-! Free values. Each is opaque: a statement about the model holds for every value of it. -/

/-- ns by which `ftime` moves on at step number `n` (R367 says only that it never decreases) (DESIGN CHOICE, log entry 85). -/
opaque elapsed : Nat → Nat

/-- Contents of plane storage that `setshape` or a thread start has left unspecified (R45, R28), by counter (DESIGN CHOICE, log entry 5). -/
opaque freePlane : Nat → Nat

/-- The tree that a free reduction uses (R100), as the choice of which two partial sums join next: by variant, format code,
`vl`, mask bits, segment and number of joins made so far, never by the values. -/
opaque sumTree : Part → Nat → Nat → Nat → Nat → Nat → Nat

/-- The tree of a free matrix step (R103) likewise: by variant, type codes, active shape, depth, bundle width, element and slot,
and number of joins. -/
opaque stepTree : Part → Nat → Nat → Nat → Nat → Nat → Nat → Nat

/-- Whether a line of HBM leaves the memory-side cache of its stack's die (R236) when the package has made a number of recorded accesses, by
line and number (DESIGN CHOICE, log entry 23). -/
opaque hbmEvicts : Nat → Nat → Bool

/-- The compute die whose HBM stack holds a line (R237), by line (DESIGN CHOICE, log entry 23). -/
opaque hbmDie : Nat → Nat

/-- Whether an element of a waybill that reads a byte which the waybill has itself written reads the byte from before the waybill
(R220), by command and element. -/
opaque waybillOld : Nat → Nat → Bool

/-- The port that serves a second-tier origin (R319 leaves the decoders to the innkeeper). -/
opaque cxlPort : Nat → BitVec 3

/-- The port of the primary path to a target, by the route table that the innkeeper programs (R346) (DESIGN CHOICE, log entry 83). -/
opaque primaryPort : Nat → BitVec 5

/-- The port of the alternate path to a target (R346) (DESIGN CHOICE, log entry 83). -/
opaque alternatePort : Nat → BitVec 5

/-- The stage node of the primary path to a package (R346, R364). -/
opaque primaryNode : Nat → BitVec 8

/-- The stage node of the alternate path to a target (R346) (DESIGN CHOICE, log entry 83). -/
opaque alternateNode : Nat → BitVec 8

/-- The bytes of the member list of a multicast packet, whose layout R364 does not give (DESIGN CHOICE, log entry 97). -/
opaque memberList : List (BitVec 16 × Word) → List Byte

/-- Rank of a compute die among the sets of dies that a co-resident node may hold, by node (R304): the node holds the dies of lowest
rank (DESIGN CHOICE, log entry 58). -/
opaque holdRank : Nat → Nat → Nat

/-- Bytes of the matrix section of a context image, whose layout R312 does not give. -/
opaque matrixSection : Nat

/-- The bytes of the matrix section of a saved image (R312), by counter and place (DESIGN CHOICE, log entry 57). -/
opaque matrixByte : Nat → Nat → Byte

/-- The 32-byte package secret S (R411). -/
opaque packageSecret : List Byte

/-- Falcon-1024 signature by the device's identity key, whose private half never leaves the I/O die (R408, R410). -/
opaque falconSign : List Byte → List Byte

/-- The identity public key (R408). -/
opaque identityKey : List Byte

/-- Whether an innkeeper image's Falcon-1024 signature verifies against the vendor key in the ROM (R409). -/
opaque falconVerify : List Byte → List Byte → Bool

/-- Digests of the further firmware images that the innkeeper measures and starts after its own (R410) (DESIGN CHOICE, log entry 70). -/
opaque firmwareDigests : List (List Byte)

/-- What a host read of a write-only register of BAR0 returns (R400), by counter (DESIGN CHOICE, log entry 69). -/
opaque hostValue : Nat → Word

/-- The package number, which bring-up fixes (R345). -/
opaque packageNumber : BitVec 9

end Config

end Sys2Proof
end

