-- ==== Sys2Proof/Machine/Float.lean ====
section
/-! DEFINITION. The floating-point arithmetic of spec 05_numbers: formats (R87 to R89), rounding (R90), flags (R91), conversions
(R93) and the operations that instructions share. Values are computed exactly and rounded once. -/

namespace Sys2Proof.Machine

/-! ### Formats -/

/-- A format by its exponent and fraction widths (R87). -/
structure FFmt where
  e : Nat
  m : Nat
  deriving DecidableEq, Repr

/-- FP32. -/
def FFmt.f32 : FFmt := ⟨8, 23⟩
/-- FP16. -/
def FFmt.f16 : FFmt := ⟨5, 10⟩
/-- BF16. -/
def FFmt.bf16 : FFmt := ⟨8, 7⟩

/-- Element width in bits. -/
def FFmt.width (f : FFmt) : Nat := 1 + f.e + f.m
/-- Exponent bias (R87). -/
def FFmt.bias (f : FFmt) : Nat := 2 ^ (f.e - 1) - 1
/-- Bits of +∞. -/
def FFmt.inf (f : FFmt) : Nat := (2 ^ f.e - 1) * 2 ^ f.m
/-- The sign bit alone. -/
def FFmt.sign (f : FFmt) : Nat := 2 ^ (f.e + f.m)
/-- The canonical NaN (R87, R89). -/
def FFmt.nan (f : FFmt) : Nat := f.inf + 2 ^ (f.m - 1)
/-- Exponent of the unit of a subnormal fraction. -/
def FFmt.qmin (f : FFmt) : Int := 1 - (f.bias : Int) - f.m

/-- A value: a NaN, an infinity, or (−1)^neg × m × 2^e exactly. -/
inductive FVal where
  | nan (signalling : Bool)
  | inf (neg : Bool)
  | fin (neg : Bool) (m : Nat) (e : Int)
  deriving DecidableEq, Repr

/-- The value of an element's bits (R87). -/
def FFmt.val (f : FFmt) (b : Nat) : FVal :=
  let neg := b / f.sign % 2 == 1; let ex := b / 2 ^ f.m % 2 ^ f.e; let fr := b % 2 ^ f.m
  if ex = 2 ^ f.e - 1 then (if fr = 0 then .inf neg else .nan (fr / 2 ^ (f.m - 1) == 0))
  else if ex = 0 then .fin neg fr f.qmin
  else .fin neg (fr + 2 ^ f.m) (f.qmin + ex - 1)

/-- The value is a NaN. -/
def FVal.isNan : FVal → Bool
  | .nan _ => true | .inf _ => false | .fin _ _ _ => false

/-- The value is a signalling NaN. -/
def FVal.isSig : FVal → Bool
  | .nan s => s | .inf _ => false | .fin _ _ _ => false

/-- The value is a NaN or an infinity. -/
def FVal.special : FVal → Bool
  | .nan _ => true | .inf _ => true | .fin _ _ _ => false

/-- The value is a zero. -/
def FVal.isZero : FVal → Bool
  | .fin _ m _ => m == 0 | .nan _ => false | .inf _ => false

/-- The sign of a value; a NaN counts as positive. -/
def FVal.neg : FVal → Bool
  | .nan _ => false | .inf n => n | .fin n _ _ => n

/-- The value with its sign inverted. -/
def FVal.flip : FVal → FVal
  | .nan s => .nan s | .inf n => .inf (!n) | .fin n m e => .fin (!n) m e

/-! ### Flags (R91) -/

/-- NV [4], DZ [3], OF [2], UF [1], NX [0]. -/
abbrev Flags := BitVec 5
/-- Invalid operation. -/
def fNV : Flags := 16
/-- Division by zero. -/
def fDZ : Flags := 8
/-- Overflow. -/
def fOF : Flags := 4
/-- Underflow. -/
def fUF : Flags := 2
/-- Inexact. -/
def fNX : Flags := 1

/-- Rounding modes (R61). -/
inductive RMode where
  | rne | rtz | rdn | rup
  deriving DecidableEq, Repr

/-- The flag when the condition holds. -/
def flagIf (b : Bool) (f : Flags) : Flags := if b then f else 0

/-! ### Rounding (R90) -/

/-- Number of bits of a number. -/
def bitLen (n : Nat) : Nat := if n = 0 then 0 else n.log2 + 1

/-- Whether m / 2^sh, with a part below it when `sticky`, rounds up, and whether it is inexact. -/
def roundUp (rm : RMode) (neg : Bool) (m sh : Nat) (sticky : Bool) : Bool × Bool :=
  let r := m % 2 ^ sh; let half := 2 ^ sh / 2
  let inexact := r != 0 || sticky
  let up := match rm with
    | .rne => decide (half < r) || (r == half && sh != 0 && (sticky || m / 2 ^ sh % 2 == 1))
    | .rtz => false
    | .rdn => neg && inexact
    | .rup => !neg && inexact
  (up, inexact)

/-- The bits of an overflowed result (R90). -/
def overflowBits (f : FFmt) (rm : RMode) (neg : Bool) : Nat :=
  let toInf := match rm with
    | .rne => true | .rtz => false | .rdn => neg | .rup => !neg
  (if neg then f.sign else 0) + (if toInf then f.inf else f.inf - 1)

/-- (−1)^neg × (m + something below 1 when `sticky`) × 2^e rounded to the format, with its flags. `m` is not 0, and with
`sticky` it has more bits than the format. -/
def roundMag (f : FFmt) (rm : RMode) (neg : Bool) (m : Nat) (e : Int) (sticky : Bool) : Nat × Flags :=
  let top := e + bitLen m - 1
  if (f.bias : Int) < top then (overflowBits f rm neg, fOF ||| fNX)
  else
    let q := max (top - f.m) f.qmin
    let sh := (q - e).toNat
    let sgn := if neg then f.sign else 0
    if q ≤ e then
      (sgn + (q - f.qmin).toNat * 2 ^ f.m + m * 2 ^ (e - q).toNat, 0)
    else
      let (m', sh', sticky') := if bitLen m + 1 < sh then (0, 2, true) else (m, sh, sticky)
      let (up, inexact) := roundUp rm neg m' sh' sticky'
      let n := m' / 2 ^ sh' + (if up then 1 else 0)
      let b := (q - f.qmin).toNat * 2 ^ f.m + n
      if f.inf ≤ b then (overflowBits f rm neg, fOF ||| fNX)
      else
        -- tiny after rounding (R91): rounded to the format's precision with unbounded exponents, below the normal range
        let shU := (top - f.m - e).toNat
        let carries := if e < top - f.m then
            (roundUp rm neg m shU sticky).1 && m / 2 ^ shU + 1 == 2 ^ (f.m + 1)
          else false
        let tiny := decide (top + 1 < 1 - (f.bias : Int)) || (top + 1 == 1 - (f.bias : Int) && !carries)
        (sgn + b, flagIf (tiny && inexact) fUF ||| flagIf inexact fNX)

/-- An exact value rounded once. A NaN becomes the canonical NaN (R89). -/
def roundVal (f : FFmt) (rm : RMode) : FVal → Nat × Flags
  | .nan _ => (f.nan, 0)
  | .inf n => ((if n then f.sign else 0) + f.inf, 0)
  | .fin n m e => if m = 0 then (if n then f.sign else 0, 0) else roundMag f rm n m e false

/-! ### Exact sums and products -/

/-- The exact sum; an exact zero takes its sign by R90. -/
def exactAdd (rm : RMode) : FVal → FVal → FVal
  | .nan _, _ => .nan false
  | _, .nan _ => .nan false
  | .inf a, .inf b => if a = b then .inf a else .nan false
  | .inf a, .fin _ _ _ => .inf a
  | .fin _ _ _, .inf b => .inf b
  | .fin n1 m1 e1, .fin n2 m2 e2 =>
    if m1 = 0 ∧ m2 = 0 then .fin (if n1 = n2 then n1 else rm == .rdn) 0 0
    else
      let e := min e1 e2
      let a : Int := (if n1 then -1 else 1) * (m1 * 2 ^ (e1 - e).toNat : Nat)
      let b : Int := (if n2 then -1 else 1) * (m2 * 2 ^ (e2 - e).toNat : Nat)
      let s := a + b
      if s = 0 then .fin (rm == .rdn) 0 0 else .fin (decide (s < 0)) s.natAbs e

/-- The sum is ∞ − ∞. -/
def addInvalid : FVal → FVal → Bool
  | .inf a, .inf b => a != b
  | _, _ => false

/-- The exact product. -/
def exactMul : FVal → FVal → FVal
  | .nan _, _ => .nan false
  | _, .nan _ => .nan false
  | .inf a, .inf b => .inf (a != b)
  | .inf a, .fin n m _ => if m = 0 then .nan false else .inf (a != n)
  | .fin n m _, .inf b => if m = 0 then .nan false else .inf (n != b)
  | .fin n1 m1 e1, .fin n2 m2 e2 => .fin (n1 != n2) (m1 * m2) (e1 + e2)

/-- The product is 0 × ∞. -/
def mulInvalid : FVal → FVal → Bool
  | .inf _, .fin _ m _ => m == 0
  | .fin _ m _, .inf _ => m == 0
  | _, _ => false

/-- A rounded sum with its flags. -/
def addVal (f : FFmt) (rm : RMode) (x y : FVal) : Nat × Flags :=
  let r := roundVal f rm (exactAdd rm x y)
  (r.1, r.2 ||| flagIf (x.isSig || y.isSig || addInvalid x y) fNV)

/-- A rounded product with its flags. -/
def mulVal (f : FFmt) (rm : RMode) (x y : FVal) : Nat × Flags :=
  let r := roundVal f rm (exactMul x y)
  (r.1, r.2 ||| flagIf (x.isSig || y.isSig || mulInvalid x y) fNV)

/-- c + x·y rounded once, with its flags; 0 × ∞ sets NV whatever c holds (R122). -/
def fmaVal (f : FFmt) (rm : RMode) (c x y : FVal) : Nat × Flags :=
  let p := exactMul x y
  let r := roundVal f rm (exactAdd rm c p)
  (r.1, r.2 ||| flagIf (x.isSig || y.isSig || c.isSig || mulInvalid x y || addInvalid c p) fNV)

/-! ### Division and roots -/

/-- Working bits beyond those of any format. -/
def guardBits : Nat := 64

/-- A rounded quotient with its flags. -/
def divVal (f : FFmt) (rm : RMode) (x y : FVal) : Nat × Flags :=
  let sig := flagIf (x.isSig || y.isSig) fNV
  match x, y with
  | .nan _, _ => (f.nan, sig)
  | _, .nan _ => (f.nan, sig)
  | .inf _, .inf _ => (f.nan, fNV)
  | .inf a, .fin n _ _ => roundVal f rm (.inf (a != n))
  | .fin n _ _, .inf b => roundVal f rm (.fin (n != b) 0 0)
  | .fin n1 m1 e1, .fin n2 m2 e2 =>
    if m2 = 0 then (if m1 = 0 then (f.nan, fNV) else ((roundVal f rm (.inf (n1 != n2))).1, fDZ))
    else if m1 = 0 then roundVal f rm (.fin (n1 != n2) 0 0)
    else
      let k := guardBits + bitLen m2
      let n := m1 * 2 ^ k
      roundMag f rm (n1 != n2) (n / m2) (e1 - e2 - k) (n % m2 != 0)

/-- The integer square root, found bit by bit from bit `k − 1` down. -/
def isqrt (n : Nat) : Nat → Nat → Nat
  | 0, r => r
  | k + 1, r => let c := r + 2 ^ k; if c * c ≤ n then isqrt n k c else isqrt n k r

/-- The integer square root. -/
def sqrtNat (n : Nat) : Nat := isqrt n (bitLen n / 2 + 1) 0

/-- A rounded square root with its flags. -/
def sqrtVal (f : FFmt) (rm : RMode) (x : FVal) : Nat × Flags :=
  match x with
  | .nan s => (f.nan, flagIf s fNV)
  | .inf n => if n then (f.nan, fNV) else (f.inf, 0)
  | .fin n m e =>
    if m = 0 then roundVal f rm (.fin n 0 0)
    else if n then (f.nan, fNV)
    else
      let k := 2 * guardBits + (if e % 2 = 0 then 0 else 1)
      let v := m * 2 ^ k
      let r := sqrtNat v
      roundMag f rm false r ((e - k) / 2) (r * r != v)

/-- A rounded reciprocal square root with its flags. -/
def rsqrtVal (f : FFmt) (rm : RMode) (x : FVal) : Nat × Flags :=
  match x with
  | .nan s => (f.nan, flagIf s fNV)
  | .inf n => if n then (f.nan, fNV) else (0, 0)
  | .fin n m e =>
    if m = 0 then ((roundVal f rm (.inf n)).1, fDZ)
    else if n then (f.nan, fNV)
    else
      -- 1 / √(m 2^e) = √(2^(2k) / (m 2^e')) × 2^(−k − (e − e') / 2), with e' = e mod 2
      let odd : Nat := if e % 2 = 0 then 0 else 1
      let k := guardBits + bitLen m
      let d := m * 2 ^ odd
      let r := sqrtNat (2 ^ (2 * k) / d)
      roundMag f rm false r (-(k : Int) - (e - odd) / 2) (r * r * d != 2 ^ (2 * k))

/-- The value 1. -/
def FVal.one : FVal := .fin false 1 0

/-- A rounded reciprocal with its flags (R91: DZ for ±0). -/
def recipVal (f : FFmt) (rm : RMode) (x : FVal) : Nat × Flags := divVal f rm .one x

/-! ### Comparison and selection -/

/-- x < y for numbers and infinities; zeros are equal. -/
def ltVal : FVal → FVal → Bool
  | .nan _, _ => false
  | _, .nan _ => false
  | .inf a, .inf b => a && !b
  | .inf a, .fin _ _ _ => a
  | .fin _ _ _, .inf b => !b
  | .fin n1 m1 e1, .fin n2 m2 e2 =>
    let e := min e1 e2
    let a : Int := (if n1 then -1 else 1) * (m1 * 2 ^ (e1 - e).toNat : Nat)
    let b : Int := (if n2 then -1 else 1) * (m2 * 2 ^ (e2 - e).toNat : Nat)
    decide (a < b)

/-- x = y for numbers and infinities; zeros are equal. -/
def eqVal (x y : FVal) : Bool := !x.isNan && !y.isNan && !ltVal x y && !ltVal y x

/-- x orders below y as minimumNumber does, with −0 below +0 (R104). -/
def belowVal (x y : FVal) : Bool := ltVal x y || (x.isZero && y.isZero && x.neg && !y.neg)

/-- minimumNumber or maximumNumber: whether a is returned, whether neither is (both NaN), and the flags (R104). -/
def pickVal (max : Bool) (a b : FVal) : Option Bool × Flags :=
  let fl := flagIf (a.isSig || b.isSig) fNV
  if a.isNan && b.isNan then (none, fl)
  else if a.isNan then (some false, fl)
  else if b.isNan then (some true, fl)
  else (some (if max then !belowVal a b else !belowVal b a), fl)

/-! ### Conversions (R93) -/

/-- An element converted to another format, with its flags. -/
def cvtFF (src dst : FFmt) (rm : RMode) (b : Nat) : Nat × Flags :=
  let v := src.val b
  let r := roundVal dst rm v
  (r.1, r.2 ||| flagIf v.isSig fNV)

/-- (−1)^neg × m × 2^e rounded to an integer, and whether that is inexact. -/
def roundInt (rm : RMode) (neg : Bool) (m : Nat) (e : Int) : Int × Bool :=
  if 0 ≤ e then ((if neg then -1 else 1) * (m * 2 ^ e.toNat : Nat), false)
  else
    let sh := (-e).toNat
    let (m', sh', st) := if bitLen m + 1 < sh then (0, 2, m != 0) else (m, sh, false)
    let (up, inexact) := roundUp rm neg m' sh' st
    ((if neg then -1 else 1) * (m' / 2 ^ sh' + (if up then 1 else 0) : Nat), inexact)

/-- Least and greatest values of an integer type of `w` bits. -/
def intRange (signed : Bool) (w : Nat) : Int × Int :=
  if signed then (-(2 ^ (w - 1)), 2 ^ (w - 1) - 1) else (0, 2 ^ w - 1)

/-- A value converted to an integer type: its bits and flags (R93). -/
def cvtFI (v : FVal) (signed : Bool) (w : Nat) (rm : RMode) : Nat × Flags :=
  let (lo, hi) := intRange signed w
  let bitsOf (i : Int) : Nat := (i % 2 ^ w).toNat
  match v with
  | .nan _ => (0, fNV)
  | .inf n => (bitsOf (if n then lo else hi), fNV)
  | .fin n m e =>
    if (128 : Int) < e + bitLen m ∧ m ≠ 0 then (bitsOf (if n then lo else hi), fNV)
    else
      let (i, inexact) := roundInt rm n m e
      if i < lo then (bitsOf lo, fNV) else if hi < i then (bitsOf hi, fNV) else (bitsOf i, flagIf inexact fNX)

/-- The integer value of the low `w` bits. -/
def intOf (signed : Bool) (w : Nat) (b : Nat) : Int :=
  let v := b % 2 ^ w
  if signed ∧ 2 ^ (w - 1) ≤ v then (v : Int) - 2 ^ w else v

/-- An integer converted to a format: its bits and flags (R93). -/
def cvtIF (i : Int) (dst : FFmt) (rm : RMode) : Nat × Flags := roundVal dst rm (.fin (decide (i < 0)) i.natAbs 0)

/-- A value rounded to an integral value of the format (R124), with NX when it changes. -/
def roundIntegral (f : FFmt) (rm : RMode) (b : Nat) : Nat × Flags :=
  match f.val b with
  | .nan s => (f.nan, flagIf s fNV)
  | .inf _ => (b, 0)
  | .fin n m e =>
    let (i, inexact) := roundInt rm n m e
    ((roundVal f rm (.fin n i.natAbs 0)).1, flagIf inexact fNX)

/-! ### Bit movers (R89) -/

/-- The sign bit inverted. -/
def FFmt.negBits (f : FFmt) (b : Nat) : Nat := if b / f.sign % 2 = 1 then b - f.sign else b + f.sign
/-- The sign bit cleared. -/
def FFmt.absBits (f : FFmt) (b : Nat) : Nat := b % f.sign
/-- The sign bit. -/
def FFmt.signBit (f : FFmt) (b : Nat) : Bool := b / f.sign % 2 == 1

end Sys2Proof.Machine
end

