-- ==== Sys2Proof/Syntax.lean ====
section
/-! DEFINITION. The instructions and the other steps of the Amlek as syntax: one constructor of `Instr` for each row of the
opcode table. The encoded rows are the instruction words of spec 04_words_and_assembly R72; the rows without an encoding are
the steps that the part's other agents take (spec 95_what_each_step_holds), with the choices that the specification leaves
to those agents as `Choice`. -/

namespace Sys2Proof

/-- Vector specifiers (R63). -/
inductive VSpec where
  | v (n : BitVec 6)
  | o (n : BitVec 4)
  | l0
  | l1
  deriving DecidableEq, Repr

/-- Element type codes (R62). -/
inductive ETy where
  | f32 | f16 | bf16 | lns6 | i8 | i16 | i32 | i64 | n8 | n16 | n32 | n64
  deriving DecidableEq, Repr

/-- The `b` operand of FmtV by form (R64): a vector, the number of an `f` or `x` register, or the 7-bit immediate field. -/
inductive VB where
  | vv (s : VSpec)
  | vs (r : Reg)
  | vi (imm : BitVec 7)
  deriving DecidableEq, Repr

/-- The `b` operand of the FmtV funcs that accept VS and VI only (R72). -/
inductive XB where
  | vs (r : Reg)
  | vi (imm : BitVec 7)
  deriving DecidableEq, Repr

/-- A prefix word before an FmtV word (R66, R68): `ty` is the type code when T = 1, `imm` the high part of a VI immediate. -/
structure VPfx where
  mask : BitVec 3
  zero : Bool
  ta : Bool
  tb : Bool
  td : Bool
  ty : Option ETy
  imm : BitVec 15
  deriving DecidableEq, Repr

/-- A prefix word before an FmtM word, a vector atomic or a memory reduction (R66, R68): `disp` is the byte displacement. -/
structure MPfx where
  mask : BitVec 3
  zero : Bool
  ta : Bool
  td : Bool
  disp : BitVec 20
  deriving DecidableEq, Repr

/-- Rounding field (R61): codes 0 to 3 name a mode, code 4 takes the mode of `fcsr`. -/
inductive Rm where
  | rne | rtz | rdn | rup | dyn
  deriving DecidableEq, Repr

/-- Scopes (R74, R229). -/
inductive Scope where
  | core | die | pkg | sys
  deriving DecidableEq, Repr

/-- Orders of scalar loads and stores (R74). -/
inductive Order where
  | wk | rlx | acq | rel | sc
  deriving DecidableEq, Repr

/-- Orders of scalar atomics (R255). -/
inductive AmoOrd where
  | rlx | acq | rel | sc
  deriving DecidableEq, Repr

/-- Integer types of the scalar conversions (R141). -/
inductive CvtTy where
  | i32 | i64 | n32 | n64
  deriving DecidableEq, Repr

/-- Conditions of `fcmp` (R143). -/
inductive FCond where
  | eq | lt | le | unord
  deriving DecidableEq, Repr

/-- Conditions of `vfcmp` (R146). -/
inductive VFCond where
  | eq | ne | lt | le | gt | ge | unord | ord
  deriving DecidableEq, Repr

/-- Conditions of `vcmp` (R146). -/
inductive VCond where
  | eq | ne | lt | le | gt | ge
  deriving DecidableEq, Repr

/-- Types of vector atomics and memory reductions (R250). -/
inductive VAmoTy where
  | i32 | i64 | n32 | n64 | f32 | bf16
  deriving DecidableEq, Repr

/-- Types of scalar atomics (R255). -/
inductive AmoTy where
  | i64 | n64 | i32 | n32
  deriving DecidableEq, Repr

/-- Two-bit type field of the MX instructions (R209). -/
inductive MxTy where
  | f32 | f16 | bf16 | lns6
  deriving DecidableEq, Repr

/-- Fence kinds (R264). -/
inductive FenceKind where
  | full | acq | rel
  deriving DecidableEq, Repr

/-- Conditions of `waita` (R265). -/
inductive WCond where
  | eq | ne | ge
  deriving DecidableEq, Repr

/-- Operations of `mc.ldr` (R368). -/
inductive LdrOp where
  | add | min | max
  deriving DecidableEq, Repr

/-- Types of `mc.ldr` (R368). -/
inductive LdrTy where
  | f32 | f16 | bf16
  deriving DecidableEq, Repr

/-- Width field of `setvl` (R160). -/
inductive SetvlW where
  | w32 | w16 | w8 | w64
  deriving DecidableEq, Repr

/-- Kinds of `tlb.inv` (R299). -/
inductive TlbKind where
  | page | pkg | all
  deriving DecidableEq, Repr

/-- Status of one member or packet (R341). -/
inductive MStatus where
  | ok | absent | revoked | expired | bounds | data
  deriving DecidableEq, Repr

/-- A fabric packet (R355). `indexes` are the index flits of an indexed request, `data` the data flits. -/
structure Packet where
  kind : BitVec 8
  esize : Nat
  indexed : Bool
  alternate : Bool
  attempt : BitVec 2
  requester : BitVec 16
  target : BitVec 16
  count : Nat
  op : BitVec 4
  opTy : BitVec 4
  core : BitVec 16
  seq : BitVec 32
  token : Word
  offset : Word
  stride : Word
  indexes : List Word
  data : List Byte
  /-- codes of R341, of replies and acknowledgements -/
  status : BitVec 16
  /-- member numbers and tokens of a multicast packet (R364) -/
  members : List (BitVec 16 × Word)
  /-- order and scope that the requester's thread gave the access (R229); no field of the header holds them (DESIGN CHOICE, log entry 124) -/
  order : Order := .wk
  scope : Scope := .sys
  deriving DecidableEq, Repr

/-- A proposal or an objection on the courier plane (R385). -/
structure Courier where
  sender : BitVec 16
  tag : Word
  handle : Word
  key : BitVec 16
  w : BitVec 32
  payload : Word
  tsend : Nat
  deriving DecidableEq, Repr

/-- Why a breach notice is originated (R386). -/
inductive BreachCause where
  | pathFailed | spaceLost | timeFlag
  deriving DecidableEq, Repr

/-- Where a service request comes from (R406): the SVCREQ write whose turn it is, or `inncall 0x40` of the thread. -/
inductive SvcSrc where
  | host
  | program
  deriving DecidableEq, Repr

/-- What the boot ROM reads from the flash of the module (R409). -/
inductive FlashRead where
  | unreadable
  | malformed
  | image (code signature : List Byte)
  deriving DecidableEq, Repr

/-- Where a bit error arises (R290). -/
inductive ErrLoc where
  | hbm (addr : Nat)
  | cxl (addr : Nat)
  | spad (key : Nat)
  | vreg (r : VSpec)
  | tile (t : BitVec 3)
  | weightBuffer
  | copyBuffer
  /-- an Eweham link, or the bank of a stage node -/
  | eweham
  deriving DecidableEq, Repr

/-- What another agent or the environment decides for a step without an encoding: the arguments of that step, where the
specification leaves them open or they come from outside the package (DESIGN CHOICE, log entry 82). -/
inductive Choice where
  | none
  /-- SPECULATION_RESOLVE: the prediction was right -/
  | confirmed (yes : Bool)
  /-- SCALAR_VALUE_RETURN: the register -/
  | reg (r : Reg)
  /-- REGISTER_FILL_COMPLETE: the register -/
  | fill (r : VSpec)
  /-- a node handle -/
  | handle (h : Nat)
  /-- DISPATCH_THREAD: core, lowest byte of the vector stack, context image and page-table root -/
  | dispatch (core stack image root : Nat)
  /-- TIMING_ERROR: detected after the replay window -/
  | late (yes : Bool)
  /-- MX_STEP_PERFORM: the stop point at which the step stops, if any -/
  | stop (at? : Option Nat)
  /-- a compute die -/
  | die (d : BitVec 3)
  /-- an entry of a queue or table -/
  | index (i : Nat)
  /-- a port or link -/
  | port (p : BitVec 5)
  /-- a stage node -/
  | node (n : BitVec 8)
  /-- the link from a stage node to a target -/
  | link (n : BitVec 8) (target : BitVec 16)
  /-- MULTICAST_BRANCH_FORWARD: a bank entry and a member; FABRIC_ATTEMPT_TIMEOUT: a multicast store and a member -/
  | branch (entry member : Nat)
  /-- FABRIC_PACKET_ARRIVAL, ABORT_FLIT -/
  | packet (p : Packet)
  /-- FABRIC_REPLY_ARRIVAL: the target that answers, the number of the packet, and the answer -/
  | reply (target seq : Nat) (status : MStatus) (data : List Byte)
  /-- SEQUENCE_EXPIRY -/
  | record (requester core seq : Nat)
  /-- ACKNOWLEDGEMENT_ARRIVAL -/
  | statuses (l : List (Nat × MStatus))
  /-- FTIME_RECEIVED: the time and its bound -/
  | time (t bound : Nat)
  /-- PROPOSAL_RECEIVED, OBJECTION_RECEIVED: the message and the member it reaches -/
  | courier (m : Courier) (dest : BitVec 16)
  /-- CLAIM_CLOSE, CLAIM_FORGET, HELD_OBJECTION_DISCARD: group tag, member and handle -/
  | claim (tag : Word) (member : BitVec 16) (handle : Word)
  /-- BREACH_NOTICE_RECEIVED: the notice -/
  | breach (m : Courier)
  /-- BREACH_NOTICE_ORIGINATE -/
  | cause (c : BreachCause)
  /-- SUBMIT: the value written -/
  | value (w : Word)
  /-- HOST_REGISTER_WRITE, HOST_REGISTER_READ: offset, size and value -/
  | hostReg (off : BitVec 16) (size : Nat) (val : Word)
  /-- a service: where the request comes from, and the page-table root that the innkeeper gives a stream without one -/
  | service (src : SvcSrc) (root : Nat)
  /-- BOOT: what the flash holds -/
  | flash (f : FlashRead)
  /-- UNCORRECTABLE_ERROR: where, and whether the check corrects it -/
  | error (loc : ErrLoc) (corrected : Bool)
  /-- HOST_WRITE: address, bytes, relaxed ordering -/
  | hostWrite (addr : Nat) (data : List Byte) (relaxed : Bool)
  deriving DecidableEq, Repr

/-- The instructions and steps of the part, one constructor for each row of the opcode table, in its order. A step without an
encoding takes its arguments from the `Choice` in the state. -/
inductive Instr where
  /-- ADD (R139). Writes x[a] + x[b] to x[d], wrapping modulo 2^64. -/
  | add (d a b : Reg)
  /-- SUB (R139). Writes x[a] − x[b] to x[d]. -/
  | sub (d a b : Reg)
  /-- MUL (R139). Writes the low 64 bits of x[a] × x[b] to x[d]. -/
  | mul (d a b : Reg)
  /-- MULH_I (R139). Writes the high 64 bits of the signed 128-bit product. -/
  | mulhI (d a b : Reg)
  /-- MULH_N (R139). Writes the high 64 bits of the unsigned 128-bit product. -/
  | mulhN (d a b : Reg)
  /-- DIV_I (R139). Writes the signed quotient truncated towards zero, all ones for a divisor of 0. -/
  | divI (d a b : Reg)
  /-- DIV_N (R139). Writes the unsigned quotient, all ones for a divisor of 0. -/
  | divN (d a b : Reg)
  /-- REM_I (R139). Writes the signed remainder, a itself for a divisor of 0. -/
  | remI (d a b : Reg)
  /-- REM_N (R139). Writes the unsigned remainder, a itself for a divisor of 0. -/
  | remN (d a b : Reg)
  /-- AND (R139). Writes the bitwise and of x[a] and x[b]. -/
  | and (d a b : Reg)
  /-- OR (R139). Writes the bitwise or of x[a] and x[b]. -/
  | or (d a b : Reg)
  /-- XOR (R139). Writes the bitwise exclusive or of x[a] and x[b]. -/
  | xor (d a b : Reg)
  /-- SHL (R139). Shifts x[a] left by b[5:0]. -/
  | shl (d a b : Reg)
  /-- SHR (R139). Shifts x[a] right logically by b[5:0]. -/
  | shr (d a b : Reg)
  /-- SRA (R139). Shifts x[a] right arithmetically by b[5:0]. -/
  | sra (d a b : Reg)
  /-- SLT_I (R139). Writes 1 when x[a] < x[b] signed, else 0. -/
  | sltI (d a b : Reg)
  /-- SLT_N (R139). Writes 1 when x[a] < x[b] unsigned, else 0. -/
  | sltN (d a b : Reg)
  /-- MIN_I (R139). Writes the signed minimum of x[a] and x[b]. -/
  | minI (d a b : Reg)
  /-- MAX_I (R139). Writes the signed maximum of x[a] and x[b]. -/
  | maxI (d a b : Reg)
  /-- MIN_N (R139). Writes the unsigned minimum of x[a] and x[b]. -/
  | minN (d a b : Reg)
  /-- MAX_N (R139). Writes the unsigned maximum of x[a] and x[b]. -/
  | maxN (d a b : Reg)
  /-- CLZ (R139). Writes the count of leading zeros of x[a]. -/
  | clz (d a : Reg)
  /-- CTZ (R139). Writes the count of trailing zeros of x[a], 64 for zero. -/
  | ctz (d a : Reg)
  /-- POPC (R139). Writes the number of set bits of x[a]. -/
  | popc (d a : Reg)
  /-- SEXT (R139). Sign-extends the low w bits of x[a]. -/
  | sext (d a : Reg) (w : BitVec 7)
  /-- ZEXT (R139). Zero-extends the low w bits of x[a]. -/
  | zext (d a : Reg) (w : BitVec 7)
  /-- ADDI (R140). Adds the sign-extended 14-bit immediate to x[a]. -/
  | addi (d a : Reg) (imm : BitVec 14)
  /-- ANDI (R140). Ands x[a] with the sign-extended immediate. -/
  | andi (d a : Reg) (imm : BitVec 14)
  /-- ORI (R140). Ors x[a] with the sign-extended immediate. -/
  | ori (d a : Reg) (imm : BitVec 14)
  /-- XORI (R140). Exclusive-ors x[a] with the sign-extended immediate. -/
  | xori (d a : Reg) (imm : BitVec 14)
  /-- SHLI (R140). Shifts x[a] left by imm14[5:0]. -/
  | shli (d a : Reg) (sh : BitVec 6)
  /-- SHRI (R140). Shifts x[a] right logically by imm14[5:0]. -/
  | shri (d a : Reg) (sh : BitVec 6)
  /-- SRAI (R140). Shifts x[a] right arithmetically by imm14[5:0]. -/
  | srai (d a : Reg) (sh : BitVec 6)
  /-- LUI (R140). Writes SignExtend(imm19 << 13, 32) to x[d]. -/
  | lui (d : Reg) (imm : BitVec 19)
  /-- LD_I8 (R169). Loads a byte, sign-extended, with the given order and scope. -/
  | ldI8 (d a : Reg) (sc : Scope) (ord : Order) (off : BitVec 7)
  /-- LD_I16 (R169). Loads a halfword, sign-extended. -/
  | ldI16 (d a : Reg) (sc : Scope) (ord : Order) (off : BitVec 7)
  /-- LD_I32 (R169). Loads a word, sign-extended. -/
  | ldI32 (d a : Reg) (sc : Scope) (ord : Order) (off : BitVec 7)
  /-- LD_I64 (R169). Loads a doubleword. -/
  | ldI64 (d a : Reg) (sc : Scope) (ord : Order) (off : BitVec 7)
  /-- LD_N8 (R169). Loads a byte, zero-extended. -/
  | ldN8 (d a : Reg) (sc : Scope) (ord : Order) (off : BitVec 7)
  /-- LD_N16 (R169). Loads a halfword, zero-extended. -/
  | ldN16 (d a : Reg) (sc : Scope) (ord : Order) (off : BitVec 7)
  /-- LD_N32 (R169). Loads a word, zero-extended. -/
  | ldN32 (d a : Reg) (sc : Scope) (ord : Order) (off : BitVec 7)
  /-- ST_8 (R169). Stores the low byte of x[d]. -/
  | st8 (d a : Reg) (sc : Scope) (ord : Order) (off : BitVec 7)
  /-- ST_16 (R169). Stores the low halfword of x[d]. -/
  | st16 (d a : Reg) (sc : Scope) (ord : Order) (off : BitVec 7)
  /-- ST_32 (R169). Stores the low word of x[d]. -/
  | st32 (d a : Reg) (sc : Scope) (ord : Order) (off : BitVec 7)
  /-- ST_64 (R169). Stores x[d] as a doubleword. -/
  | st64 (d a : Reg) (sc : Scope) (ord : Order) (off : BitVec 7)
  /-- BR_EQ (R149). Branches when x[a] = x[b]. -/
  | brEq (a b : Reg) (off : BitVec 13)
  /-- BR_NE (R149). Branches when x[a] ≠ x[b]. -/
  | brNe (a b : Reg) (off : BitVec 13)
  /-- BR_LT (R149). Branches when x[a] < x[b] signed. -/
  | brLt (a b : Reg) (off : BitVec 13)
  /-- BR_GE (R149). Branches when x[a] ≥ x[b] signed. -/
  | brGe (a b : Reg) (off : BitVec 13)
  /-- BR_LTN (R149). Branches when x[a] < x[b] unsigned. -/
  | brLtn (a b : Reg) (off : BitVec 13)
  /-- BR_GEN (R149). Branches when x[a] ≥ x[b] unsigned. -/
  | brGen (a b : Reg) (off : BitVec 13)
  /-- BP_T (R149). Branches when predicate p[a] is 1. -/
  | bpT (p : BitVec 3) (off : BitVec 13)
  /-- BP_F (R149). Branches when predicate p[a] is 0. -/
  | bpF (p : BitVec 3) (off : BitVec 13)
  /-- JAL (R150). Writes PC + 4 to x[d] and jumps by a 20-bit word offset. -/
  | jal (d : Reg) (off : BitVec 20)
  /-- JALR (R150). Jumps to x[a] plus a word offset and writes PC + 4 to x[d]. -/
  | jalr (d a : Reg) (off : BitVec 15)
  /-- FADD (R141). Adds two bundled FP32 scalars with their tangents. -/
  | fadd (d a b : Reg) (rm : Rm)
  /-- FSUB (R141). Subtracts two bundled FP32 scalars. -/
  | fsub (d a b : Reg) (rm : Rm)
  /-- FMUL (R141). Multiplies two bundled FP32 scalars. -/
  | fmul (d a b : Reg) (rm : Rm)
  /-- FDIV (R141). Divides two bundled FP32 scalars. -/
  | fdiv (d a b : Reg) (rm : Rm)
  /-- FSQRT (R141). Takes the square root of a bundled FP32 scalar. -/
  | fsqrt (d a : Reg) (rm : Rm)
  /-- FMACC (R141). Computes RN(d + a·b) into f[d] with tangents. -/
  | fmacc (d a b : Reg) (rm : Rm)
  /-- FMIN (R141). Writes minimumNumber of two FP32 scalars. -/
  | fmin (d a b : Reg)
  /-- FMAX (R141). Writes maximumNumber of two FP32 scalars. -/
  | fmax (d a b : Reg)
  /-- FABS (R141). Clears the sign bit of an FP32 scalar. -/
  | fabs (d a : Reg)
  /-- FNEG (R141). Inverts the sign bit of an FP32 scalar. -/
  | fneg (d a : Reg)
  /-- FCVT_F_X (R141). Converts an integer x register to FP32. -/
  | fcvtFX (d a : Reg) (t : CvtTy) (rm : Rm)
  /-- FCVT_X_F (R141). Converts an FP32 scalar to an integer x register. -/
  | fcvtXF (d a : Reg) (t : CvtTy) (rm : Rm)
  /-- FMOV_X (R141). Moves the bits of an FP32 value to an x register. -/
  | fmovX (d a : Reg)
  /-- FMOV_F (R141). Moves bits [31:0] of an x register into an f register. -/
  | fmovF (d a : Reg)
  /-- FCMP (R143). Compares two FP32 scalars into a predicate. -/
  | fcmp (d : BitVec 3) (a b : Reg) (c : FCond)
  /-- FCLASS (R143). Writes the class mask of an FP32 scalar. -/
  | fclass (d a : Reg)
  /-- PAND (R144). Ands two predicates. -/
  | pand (d a b : BitVec 3)
  /-- POR (R144). Ors two predicates. -/
  | por (d a b : BitVec 3)
  /-- PXOR (R144). Exclusive-ors two predicates. -/
  | pxor (d a b : BitVec 3)
  /-- PNOT (R144). Inverts a predicate. -/
  | pnot (d a : BitVec 3)
  /-- PPACK (R54). Packs p7..p0 into bits [7:0] of an x register. -/
  | ppack (d : Reg)
  /-- PUNPK (R54). Sets p7..p0 from bits [7:0] of an x register. -/
  | punpk (a : Reg)
  /-- PSET (R144). Sets a predicate to the immediate bit. -/
  | pset (d : BitVec 3) (val : Bool)
  /-- VFADD (R121). Adds vectors element by element with tangents. -/
  | vfadd (p : Option VPfx) (d a : VSpec) (b : VB)
  /-- VFSUB (R121). Subtracts vectors element by element with tangents. -/
  | vfsub (p : Option VPfx) (d a : VSpec) (b : VB)
  /-- VFMUL (R121). Multiplies vectors element by element with tangents. -/
  | vfmul (p : Option VPfx) (d a : VSpec) (b : VB)
  /-- VFDIV (R121). Divides vectors element by element with tangents. -/
  | vfdiv (p : Option VPfx) (d a : VSpec) (b : VB)
  /-- VFMIN (R121). Writes minimumNumber per element with the returned operand's tangents. -/
  | vfmin (p : Option VPfx) (d a : VSpec) (b : VB)
  /-- VFMAX (R121). Writes maximumNumber per element with the returned operand's tangents. -/
  | vfmax (p : Option VPfx) (d a : VSpec) (b : VB)
  /-- VFCOPYSIGN (R121). Writes a with the sign bit of b per element. -/
  | vfcopysign (p : Option VPfx) (d a : VSpec) (b : VB)
  /-- VFADDP (R122). Computes RN(d + a·b) per element. -/
  | vfaddp (p : Option VPfx) (d a : VSpec) (b : VB)
  /-- VFNADDP (R122). Computes RN(−d − a·b) per element. -/
  | vfnaddp (p : Option VPfx) (d a : VSpec) (b : VB)
  /-- VFSUBD (R122). Computes RN(a·b − d) per element. -/
  | vfsubd (p : Option VPfx) (d a : VSpec) (b : VB)
  /-- VFSUBP (R122). Computes RN(d − a·b) per element. -/
  | vfsubp (p : Option VPfx) (d a : VSpec) (b : VB)
  /-- VFSQRT (R123). Square root per element with tangents. -/
  | vfsqrt (p : Option VPfx) (d a : VSpec)
  /-- VFRSQRT (R123). Reciprocal square root per element. -/
  | vfrsqrt (p : Option VPfx) (d a : VSpec)
  /-- VFRECIP (R123). Reciprocal per element. -/
  | vfrecip (p : Option VPfx) (d a : VSpec)
  /-- VFEXP2 (R123). Base-2 exponential per element. -/
  | vfexp2 (p : Option VPfx) (d a : VSpec)
  /-- VFLOG2 (R123). Base-2 logarithm per element. -/
  | vflog2 (p : Option VPfx) (d a : VSpec)
  /-- VFTANH (R123). Hyperbolic tangent per element. -/
  | vftanh (p : Option VPfx) (d a : VSpec)
  /-- VFSIG (R123). Logistic function per element. -/
  | vfsig (p : Option VPfx) (d a : VSpec)
  /-- VFRELU (R123). Rectified linear function per element. -/
  | vfrelu (p : Option VPfx) (d a : VSpec)
  /-- VFABS (R123). Clears the sign bit per element. -/
  | vfabs (p : Option VPfx) (d a : VSpec)
  /-- VFNEG (R123). Inverts the sign bit per element. -/
  | vfneg (p : Option VPfx) (d a : VSpec)
  /-- VFROUND (R124). Rounds each element to an integral value in the given mode. -/
  | vfround (p : Option VPfx) (d a : VSpec) (rm : Rm)
  /-- VADD (R145). Integer vector addition modulo 2^w. -/
  | vadd (p : Option VPfx) (d a : VSpec) (b : VB)
  /-- VSUB (R145). Integer vector subtraction. -/
  | vsub (p : Option VPfx) (d a : VSpec) (b : VB)
  /-- VMUL (R145). Integer vector multiplication, low bits. -/
  | vmul (p : Option VPfx) (d a : VSpec) (b : VB)
  /-- VMULH (R145). Integer vector multiplication, high bits. -/
  | vmulh (p : Option VPfx) (d a : VSpec) (b : VB)
  /-- VAND (R145). Bitwise and per element. -/
  | vand (p : Option VPfx) (d a : VSpec) (b : VB)
  /-- VOR (R145). Bitwise or per element. -/
  | vor (p : Option VPfx) (d a : VSpec) (b : VB)
  /-- VXOR (R145). Bitwise exclusive or per element. -/
  | vxor (p : Option VPfx) (d a : VSpec) (b : VB)
  /-- VSHL (R145). Shift left per element by b mod w. -/
  | vshl (p : Option VPfx) (d a : VSpec) (b : VB)
  /-- VSHR (R145). Logical shift right per element. -/
  | vshr (p : Option VPfx) (d a : VSpec) (b : VB)
  /-- VSRA (R145). Arithmetic shift right per element. -/
  | vsra (p : Option VPfx) (d a : VSpec) (b : VB)
  /-- VMIN (R145). Integer minimum per element. -/
  | vmin (p : Option VPfx) (d a : VSpec) (b : VB)
  /-- VMAX (R145). Integer maximum per element. -/
  | vmax (p : Option VPfx) (d a : VSpec) (b : VB)
  /-- VIOTA (R145). Writes the count of active elements below each index. -/
  | viota (p : Option VPfx) (d : VSpec)
  /-- VFCMP (R146). Floating-point comparison per element into a mask. -/
  | vfcmp (p : Option VPfx) (c : VFCond) (kd : BitVec 3) (a : VSpec) (b : VB)
  /-- VCMP (R146). Integer comparison per element into a mask. -/
  | vcmp (p : Option VPfx) (c : VCond) (kd : BitVec 3) (a : VSpec) (b : VB)
  /-- KAND (R147). Ands two masks below vl. -/
  | kand (p : Option VPfx) (d a b : BitVec 3)
  /-- KOR (R147). Ors two masks below vl. -/
  | kor (p : Option VPfx) (d a b : BitVec 3)
  /-- KXOR (R147). Exclusive-ors two masks below vl. -/
  | kxor (p : Option VPfx) (d a b : BitVec 3)
  /-- KNOT (R147). Inverts a mask below vl. -/
  | knot (p : Option VPfx) (d a : BitVec 3)
  /-- KPOP (R147). Counts the set mask bits below vl into an x register. -/
  | kpop (p : Option VPfx) (d : Reg) (a : BitVec 3)
  /-- KFIRST (R147). Writes the lowest set mask bit index, or all ones. -/
  | kfirst (p : Option VPfx) (d : Reg) (a : BitVec 3)
  /-- KMOV_X (R147). Moves a 64-bit word of a mask into an x register. -/
  | kmovX (p : Option VPfx) (d : Reg) (a : BitVec 3) (b : Reg)
  /-- KMOV_K_MASK (R147). Sets a mask from a mask-image vector register. -/
  | kmovKMask (p : Option VPfx) (d : BitVec 3) (a : VSpec)
  /-- KMOV_K_VECTOR (R147). Writes the image of a mask into a vector register of format 8. -/
  | kmovKVector (p : Option VPfx) (d : VSpec) (a : BitVec 3)
  /-- VCVT (R127). Converts each element between formats, with tangents for float-to-float. -/
  | vcvt (p : Option VPfx) (t : ETy) (d a : VSpec) (src : ETy) (rm : Rm)
  /-- VSUM_O (R130). Ordered sum of each segment's active elements. -/
  | vsumO (p : Option VPfx) (d a : VSpec) (seg : Option (BitVec 7))
  /-- VSUM_F (R130). Free-order sum of each segment's active elements. -/
  | vsumF (p : Option VPfx) (d a : VSpec) (seg : Option (BitVec 7))
  /-- VMAXR (R130). Ordered maximum reduction of each segment. -/
  | vmaxr (p : Option VPfx) (d a : VSpec) (seg : Option (BitVec 7))
  /-- VMINR (R130). Ordered minimum reduction of each segment. -/
  | vminr (p : Option VPfx) (d a : VSpec) (seg : Option (BitVec 7))
  /-- VSCAN_O (R131). Ordered running sum within each segment. -/
  | vscanO (p : Option VPfx) (d a : VSpec) (seg : Option (BitVec 7))
  /-- VPERM (R132). Gathers elements of a by an index vector. -/
  | vperm (p : Option VPfx) (d a b : VSpec)
  /-- VSLIDEUP (R132). Slides elements up by s. -/
  | vslideup (p : Option VPfx) (d a : VSpec) (b : XB)
  /-- VSLIDEDN (R132). Slides elements down by s. -/
  | vslidedn (p : Option VPfx) (d a : VSpec) (b : XB)
  /-- VCOMPRESS (R132). Packs the active elements of a into the low elements of d. -/
  | vcompress (p : Option VPfx) (d a : VSpec)
  /-- VEXPAND (R132). Spreads consecutive elements of a into the active elements of d. -/
  | vexpand (p : Option VPfx) (d a : VSpec)
  /-- VBCAST (R132). Broadcasts element s of a to every element. -/
  | vbcast (p : Option VPfx) (d a : VSpec) (b : XB)
  /-- VMOV (R132). Moves a vector between the vector files. -/
  | vmov (p : Option VPfx) (d a : VSpec)
  /-- VSPLAT (R132). Writes a scalar or immediate to every element. -/
  | vsplat (p : Option VPfx) (d : VSpec) (b : XB)
  /-- DSEED_RAD (R134). Seeds the tangent planes of d from the direction hash. -/
  | dseedRad (p : Option VPfx) (d : VSpec) (x : Reg)
  /-- DZERO (R135). Writes a's values with every tangent slot +0.0. -/
  | dzero (p : Option VPfx) (d a : VSpec)
  /-- DGET (R136). Writes tangent plane i of a as a plain value vector. -/
  | dget (p : Option VPfx) (d a : VSpec) (b : XB)
  /-- DPUT (R137). Writes a's values into tangent plane i of d. -/
  | dput (p : Option VPfx) (d a : VSpec) (b : XB)
  /-- DMASK (R138). Clears the tangent slots of d named by a direction mask. -/
  | dmask (p : Option VPfx) (d : VSpec) (x : Reg)
  /-- VLD (R170). Unit-stride vector load, optionally bundled or first-fault. -/
  | vld (p : Option MPfx) (t : ETy) (v : VSpec) (base : Reg) (bnd ff loc : Bool)
  /-- VLD_S (R170). Strided vector load. -/
  | vldS (p : Option MPfx) (t : ETy) (v : VSpec) (base : Reg) (bnd ff : Bool) (xs : Reg) (loc : Bool)
  /-- VLD_2D (R170). Two-dimensional vector load. -/
  | vld2d (p : Option MPfx) (t : ETy) (v : VSpec) (base : Reg) (bnd ff : Bool) (xs : Reg) (loc : Bool)
  /-- VLD_X (R170). Indexed vector load with a probe pass. -/
  | vldX (p : Option MPfx) (t : ETy) (v : VSpec) (base : Reg) (bnd : Bool) (vi : BitVec 6) (loc : Bool)
  /-- VLD_Q (R179). Loads and decodes LNS6 blocks into an f32 register. -/
  | vldQ (p : Option MPfx) (v : VSpec) (base : Reg) (ff : Bool) (xs : Reg) (loc : Bool)
  /-- VRS (R277). Restores up to sixteen registers with their tags from stack slots. -/
  | vrs (p : Option MPfx) (count : BitVec 4) (v : BitVec 6) (base : Reg) (slot : BitVec 7) (loc : Bool)
  /-- VST (R173). Unit-stride vector store, restartable from vstart. -/
  | vst (p : Option MPfx) (t : ETy) (v : VSpec) (base : Reg) (bnd loc : Bool)
  /-- VST_S (R173). Strided vector store. -/
  | vstS (p : Option MPfx) (t : ETy) (v : VSpec) (base : Reg) (bnd : Bool) (xs : Reg) (loc : Bool)
  /-- VST_2D (R173). Two-dimensional vector store. -/
  | vst2d (p : Option MPfx) (t : ETy) (v : VSpec) (base : Reg) (bnd : Bool) (xs : Reg) (loc : Bool)
  /-- VST_X (R177). Indexed vector store, all or nothing. -/
  | vstX (p : Option MPfx) (t : ETy) (v : VSpec) (base : Reg) (bnd : Bool) (vi : BitVec 6) (loc : Bool)
  /-- VST_Q (R179). Quantises an f32 register to LNS6 blocks and stores them. -/
  | vstQ (p : Option MPfx) (v : VSpec) (base : Reg) (val : Bool) (xs : Reg) (loc : Bool)
  /-- VSV (R276). Saves up to sixteen registers whole with headers into stack slots. -/
  | vsv (p : Option MPfx) (count : BitVec 4) (v : BitVec 6) (base : Reg) (slot : BitVec 7) (loc : Bool)
  /-- VAMO_ADD (R252). Indexed atomic add returning old values. -/
  | vamoAdd (p : Option MPfx) (d vi : BitVec 6) (base : Reg) (t : VAmoTy) (loc : Bool)
  /-- VAMO_MIN (R252). Indexed atomic minimum returning old values. -/
  | vamoMin (p : Option MPfx) (d vi : BitVec 6) (base : Reg) (t : VAmoTy) (loc : Bool)
  /-- VAMO_MAX (R252). Indexed atomic maximum returning old values. -/
  | vamoMax (p : Option MPfx) (d vi : BitVec 6) (base : Reg) (t : VAmoTy) (loc : Bool)
  /-- VAMO_SWAP (R252). Indexed atomic swap returning old values. -/
  | vamoSwap (p : Option MPfx) (d vi : BitVec 6) (base : Reg) (t : VAmoTy) (loc : Bool)
  /-- VAMO_CAS (R252). Indexed atomic compare-and-swap returning old values. -/
  | vamoCas (p : Option MPfx) (d vi : BitVec 6) (base : Reg) (t : VAmoTy) (loc : Bool)
  /-- AMO_ADD (R256). Scalar atomic add with order and scope. -/
  | amoAdd (d a b : Reg) (t : AmoTy) (ord : AmoOrd) (sc : Scope)
  /-- AMO_MIN (R256). Scalar atomic minimum. -/
  | amoMin (d a b : Reg) (t : AmoTy) (ord : AmoOrd) (sc : Scope)
  /-- AMO_MAX (R256). Scalar atomic maximum. -/
  | amoMax (d a b : Reg) (t : AmoTy) (ord : AmoOrd) (sc : Scope)
  /-- AMO_SWAP (R256). Scalar atomic swap. -/
  | amoSwap (d a b : Reg) (t : AmoTy) (ord : AmoOrd) (sc : Scope)
  /-- AMO_CAS (R256). Scalar atomic compare-and-swap. -/
  | amoCas (d a b : Reg) (t : AmoTy) (ord : AmoOrd) (sc : Scope)
  /-- MRED_ADD (R252). Indexed memory reduction by addition, returning nothing. -/
  | mredAdd (p : Option MPfx) (d vi : BitVec 6) (base : Reg) (t : VAmoTy) (loc : Bool)
  /-- MRED_MIN (R252). Indexed memory reduction by minimum. -/
  | mredMin (p : Option MPfx) (d vi : BitVec 6) (base : Reg) (t : VAmoTy) (loc : Bool)
  /-- MRED_MAX (R252). Indexed memory reduction by maximum. -/
  | mredMax (p : Option MPfx) (d vi : BitVec 6) (base : Reg) (t : VAmoTy) (loc : Bool)
  /-- MX_CFG (R210). Writes mxshape at issue and queues the active shape. -/
  | mxCfg (rows cols : BitVec 7) (img : Bool)
  /-- MX_ZERO (R211). Queues the clearing of slots into one tile, marking them empty. -/
  | mxZero (t : BitVec 3) (b : BitVec 2)
  /-- MX_LDW (R212). Queues a load of B rows into the weight buffer. -/
  | mxLdw (k b s : Reg) (t : MxTy)
  /-- MX_SEEDW (R213). Captures the direction key and queues seeding of the weight buffer. -/
  | mxSeedw (j : Reg) (off : BitVec 4)
  /-- MX_SEEDW_CLR (R213). Queues marking the weight buffer not seeded. -/
  | mxSeedwClr
  /-- MX_STEP (R214). Checks and enters an ordered rank-one step into the open batch. -/
  | mxStep (t : BitVec 3) (a : Reg) (k : BitVec 4) (d : BitVec 7) (ty : MxTy)
  /-- MX_STEPF (R214). Checks and enters a free-order step into the open batch. -/
  | mxStepf (t : BitVec 3) (a : Reg) (k : BitVec 4) (d : BitVec 7) (ty : MxTy)
  /-- MX_COMMIT (R215). Closes the open batch. -/
  | mxCommit
  /-- MX_WAIT (R215). Sleeps until at most n closed batches are incomplete, then acquires. -/
  | mxWait (n : BitVec 5)
  /-- MX_RD (R216). Reads an active tile row into a vector register. -/
  | mxRd (v : VSpec) (t : BitVec 3) (ta : Bool) (r : Reg)
  /-- MX_WR (R217). Writes an active tile row from a vector register. -/
  | mxWr (t : BitVec 3) (v : VSpec) (r : Reg) (ta : Bool)
  /-- CP_ND (R219). Checks and enqueues a waybill, with its follow-on and barrier. -/
  | cpNd (w : Reg)
  /-- CP_LIN (R225). Enqueues a one-dimensional byte copy. -/
  | cpLin (d s n c : Reg)
  /-- Q_FENCE (R226). Places a fence in the named queues. -/
  | qFence (mask : BitVec 4)
  /-- Q_FENCE_W (R226). Places a fence, sleeps until earlier commands end, acquires and reports failures. -/
  | qFenceW (mask : BitVec 4)
  /-- CP_STAT (R224). Reads the copy queue count or the earliest unreported failure. -/
  | cpStat (d : Reg) (sel : Bool)
  /-- FENCE (R264). Orders strong accesses before and after it at a scope. -/
  | fence (kind : FenceKind) (sc : Scope)
  /-- BAR_INIT (R260). Initialises a barrier object and sets its mark. -/
  | barInit (b n : Reg) (sc : Scope)
  /-- BAR_ARR (R261). Arrives on a barrier object once earlier stores are performed. -/
  | barArr (d b : Reg) (rlx : Bool)
  /-- BAR_WAIT (R262). Sleeps until the token's phase completes. -/
  | barWait (b t : Reg)
  /-- BAR_TEST (R262). Tests without sleeping whether the token's phase completed. -/
  | barTest (d b t : Reg)
  /-- WAITA (R265). Sleeps until a memory word meets a condition, then acquires. -/
  | waita (a b : Reg) (sc : Scope) (c : WCond)
  /-- NODE_SUB (R266). Submits a node record from a program and returns its handle or status. -/
  | nodeSub (d r : Reg)
  /-- LOOP (R153). Pushes a hardware loop entry over the next n words. -/
  | loop (c : Reg) (n : BitVec 16)
  /-- BRKL (R155). Pops the innermost loop entry and leaves the loop. -/
  | brkl
  /-- LIDX (R155). Reads the index of a loop stack entry. -/
  | lidx (d : Reg) (level : BitVec 3)
  /-- REPF (R159). Runs a staggered repeat frame over captured vector instructions. -/
  | repf (c : Reg) (m : BitVec 4) (sd sa sb : BitVec 2) (wz : BitVec 3) (map : Word32)
  /-- MILE (R334). Posts a milestone, starts due entries and checks due fetches. -/
  | mile (a : Reg)
  /-- IT_BIND (R335). Binds an itinerary, reserves the frame pool and starts early entries. -/
  | itBind (a n : Reg)
  /-- IT_WAIT (R336). Sleeps until an itinerary entry is done or failed. -/
  | itWait (i : Reg)
  /-- IT_STAT (R337). Reads an entry's status, the reached milestone or the frame pool. -/
  | itStat (d i : Reg)
  /-- CL_PROP (R397). Proposes a claim to the group and returns its handle. -/
  | clProp (h key val : Reg) (g : BitVec 4)
  /-- CL_OBJ (R398). Objects to a claim before its deadline, or raises late objection. -/
  | clObj (h : Reg) (g : BitVec 4)
  /-- CL_WAIT (R398). Sleeps until a claim closes and writes its outcome. -/
  | clWait (d h : Reg) (g : BitVec 4)
  /-- CL_STAT (R398). Reads a claim's outcome or the member's open proposals without sleeping. -/
  | clStat (d h : Reg) (sel : Bool) (g : BitVec 4)
  /-- CL_HOLD (R399). Files a standing objection on a key. -/
  | clHold (key : Reg) (g : BitVec 4)
  /-- CL_FREE (R399). Withdraws a standing objection on a key. -/
  | clFree (key : Reg) (g : BitVec 4)
  /-- MC_ST (R370). Checks and enqueues a multicast store of one line to a group. -/
  | mcSt (g a k : Reg) (lenc : BitVec 5)
  /-- MC_LDR (R371). Loads from every group member and reduces in member order. -/
  | mcLdr (v : BitVec 6) (s g : Reg) (op : LdrOp) (t : LdrTy)
  /-- TOK_SET (R372). Writes a token table entry. -/
  | tokSet (i t w : Reg)
  /-- TOK_CLR (R372). Invalidates a token table entry and waits for its packets. -/
  | tokClr (i : Reg)
  /-- FAB_STAT (R373). Reads fabric queue count, failure word, package number or epoch. -/
  | fabStat (d : Reg) (sel : BitVec 2)
  /-- OPT_CARD (R182). Reads and checks a job card and enqueues it on the optimiser engine. -/
  | optCard (c : Reg)
  /-- OPT_WAIT (R192). Sleeps until at most n OPT commands are outstanding, acquires and reports failures. -/
  | optWait (n : BitVec 7)
  /-- OPT_STEP (R191). Enqueues an increment of a context's STEP. -/
  | optStep (c : Reg)
  /-- OPT_STAT (R191). Reads outstanding count, a context's STEP or the earliest failure. -/
  | optStat (d s : Reg) (sel : BitVec 2)
  /-- OPT_ROUT (R191). Enqueues the install of an optimiser routine. -/
  | optRout (i a : Reg)
  /-- SETVL (R161). Sets vl to min(x[a], MVL) for the named width. -/
  | setvl (d a : Reg) (w : SetvlW)
  /-- SETSHAPE (R45). Sets the shape, voiding vector registers and clearing masks and vl. -/
  | setshape (n : BitVec 7) (k : BitVec 5)
  /-- VFRAME (R274). Moves vsp by n slots within stklim and the stack bounds. -/
  | vframe (n : BitVec 13)
  /-- STREAD (R296). Reads a state register into x[d]. -/
  | stread (d : Reg) (sreg : BitVec 12)
  /-- STWRITE (R296). Writes x[a] to a state register. -/
  | stwrite (a : Reg) (sreg : BitVec 12)
  /-- STSET (R296). Sets the bits of a state register that are 1 in x[a]. -/
  | stset (a : Reg) (sreg : BitVec 12)
  /-- STCLR (R296). Clears the bits of a state register that are 1 in x[a]. -/
  | stclr (a : Reg) (sreg : BitVec 12)
  /-- INNCALL (R297). Completes and raises innkeeper call with detail n. -/
  | inncall (n : BitVec 8)
  /-- DBGTRAP (R297). Raises breakpoint with detail n. -/
  | dbgtrap (n : BitVec 8)
  /-- ERET (R298). Returns from a handler to uepc, or in supervisor mode to sepc. -/
  | eret
  /-- TLB_INV (R299). Invalidates translations of a page, the package or all. -/
  | tlbInv (a : Reg) (kind : TlbKind)
  /-- HALT (R300). Delivers a pending matrix fault, then retires the thread once its queues drain. -/
  | halt
  /-- SPECULATION_RESOLVE (R151). A predicted branch resolves, committing or discarding the speculative path. -/
  | speculationResolve
  /-- SCALAR_VALUE_RETURN (R38). A pending scalar load, atomic or status value returns to its x register. -/
  | scalarValueReturn
  /-- REGISTER_FILL_COMPLETE (R50). A long-latency fill writes its last element and sets the full bit, or marks the register failed. -/
  | registerFillComplete
  /-- ISSUE_WAIT_RELEASE (R51). An instruction waiting in issue on an empty register or a full queue proceeds. -/
  | issueWaitRelease
  /-- THREAD_WAKE (R30). A sleeping thread's condition holds and its instruction completes. -/
  | threadWake
  /-- THREAD_RETIRE (R31). A halted thread retires once its engine commands are performed or failed. -/
  | threadRetire
  /-- NODE_COMPLETE (R32). The last thread retires: unbind, completion store, release of allotments, edges satisfied. -/
  | nodeComplete
  /-- DISPATCH_THREAD (R302). Starts a thread of the first waiting node on a free core. -/
  | dispatchThread
  /-- PRIORITY_AGING (R303). After 2^20 dispatch decisions a waiting node's effective priority rises. -/
  | priorityAging
  /-- QUANTUM_EXPIRY (R306). qcount reaches squant and raises a pre-emption request or resets. -/
  | quantumExpiry
  /-- PREEMPTION_LANDING (R307). A pending pre-emption request lands at a boundary and delivers class 0x18. -/
  | preemptionLanding
  /-- ITERATION_OVERRUN (R308). A request pending for pdl instructions delivers class 0x18 detail 0x02. -/
  | iterationOverrun
  /-- TIMING_ERROR (R289). A detected timing error replays the instruction, or is a machine check after the window. -/
  | timingError
  /-- MX_CFG_PERFORM (R210). The matrix queue performs a configuration for later steps. -/
  | mxCfgPerform
  /-- MX_ZERO_PERFORM (R211). The matrix queue clears the tile and marks its slots full. -/
  | mxZeroPerform
  /-- MX_LDW_PERFORM (R212). The matrix queue loads B into the weight buffer and clears seeding. -/
  | mxLdwPerform
  /-- MX_SEEDW_PERFORM (R213). The matrix queue marks the weight buffer seeded or unseeded. -/
  | mxSeedwPerform
  /-- MX_STEP_PERFORM (R205). The matrix engine performs a step's rank-one updates, stopping only at stop points. -/
  | mxStepPerform
  /-- BATCH_COMPLETE (R201). All steps of a batch are performed and its tile slots become full. -/
  | batchComplete
  /-- WAYBILL_START (R220). The copy queue begins copying a waybill's index space. -/
  | waybillStart
  /-- WAYBILL_COMPLETE (R221). A waybill finishes or fails: follow-on release, completion word, barrier arrival. -/
  | waybillComplete
  /-- CP_LIN_PERFORM (R225). The copy queue performs a linear copy and adds to its counter word. -/
  | cpLinPerform
  /-- CARD_START (R183). A job card reaches the queue head: routine, step, scalars and spoiled set fixed. -/
  | cardStart
  /-- CARD_COMPLETE (R189). A card finishes its elements and writes doneval or a failure word. -/
  | cardComplete
  /-- ROUTINE_INSTALL (R191). The optimiser engine reads, validates and installs a routine. -/
  | routineInstall
  /-- STEP_INCREMENT (R191). The optimiser engine adds 1 to a context's STEP. -/
  | stepIncrement
  /-- ATOMIC_APPLY (R247). A scatter-add unit applies one pending operation to an address. -/
  | atomicApply
  /-- PORTER_MOVE_START (R325). A free move slot is given to the next page of the started entries. -/
  | porterMoveStart
  /-- FETCH_COMPLETE (R326). A fetched page's copy lands, its entry becomes tier 0 and translations are invalidated. -/
  | fetchComplete
  /-- EVICT_COMPLETE (R327). An evicted page's write completions arrive and it returns to tier 1. -/
  | evictComplete
  /-- DROP_COMPLETE (R327). A dropped page's accesses drain and it returns to its origin without a copy. -/
  | dropComplete
  /-- CXL_LINK_DOWN (R328). A CXL link goes down and moves through it fail with cause link. -/
  | cxlLinkDown
  /-- FABRIC_PACKET_ARRIVAL (R354). A target checks an arriving request packet and performs it or NACKs it. -/
  | fabricPacketArrival
  /-- FABRIC_REPLY_ARRIVAL (R359). A reply or acceptance arrives and fills or completes the request. -/
  | fabricReplyArrival
  /-- FABRIC_ATTEMPT_TIMEOUT (R361). The 2 µs attempt timer expires and the packet is retried or fails ABSENT. -/
  | fabricAttemptTimeout
  /-- ABORT_FLIT (R362). A receiver gets an abort flit and discards the whole packet. -/
  | abortFlit
  /-- SEQUENCE_EXPIRY (R357). A target's retained sequence record of a performed write ages out. -/
  | sequenceExpiry
  /-- FABRIC_LINK_DOWN (R346). A link is reported down and attempts move to the other path. -/
  | fabricLinkDown
  /-- FABRIC_LINK_UP (R346). A link is reported up and attempts alternate again. -/
  | fabricLinkUp
  /-- MC_ST_START (R370). A multicast store starts in the fabric queue and sends packets per stage node. -/
  | mcStStart
  /-- MULTICAST_BANK_ACCEPT (R364). A stage node accepts a multicast packet into its bank once it has space. -/
  | multicastBankAccept
  /-- MULTICAST_BRANCH_FORWARD (R364). A stage node forwards a copy to a member as downstream space frees. -/
  | multicastBranchForward
  /-- ACKNOWLEDGEMENT_ARRIVAL (R365). Member statuses arrive and, when complete, the acknowledgement record is written. -/
  | acknowledgementArrival
  /-- FTIME_RECEIVED (R367). A package receives distributed time and checks its own ftime against it. -/
  | ftimeReceived
  /-- FTIME_LOSS (R367). No time received for 1 ms sets the out-of-bound flag. -/
  | ftimeLoss
  /-- PROPOSAL_RECEIVED (R389). A proposal reaches a claim store, opens a claim, posts a notice and draws standing objections. -/
  | proposalReceived
  /-- OBJECTION_RECEIVED (R388). An objection arrives and is accepted, held or discarded. -/
  | objectionReceived
  /-- BREACH_NOTICE_RECEIVED (R390). A breach notice arrives and is recorded for later decisions. -/
  | breachNoticeReceived
  /-- BREACH_NOTICE_ORIGINATE (R386). A path failure, lost courier space or time flag originates a breach notice. -/
  | breachNoticeOriginate
  /-- HELD_OBJECTION_DISCARD (R388). An early objection is discarded when its proposal never arrives in time. -/
  | heldObjectionDiscard
  /-- CLAIM_CLOSE (R390). At tc a member decides the claim's outcome. -/
  | claimClose
  /-- CLAIM_FORGET (R393). A closed claim is forgotten 1,048,576 ns after tc. -/
  | claimForget
  /-- SUBMIT (R401). A host write of a record address is read as a snapshot, checked and accepted or refused. -/
  | submit
  /-- SUBMIT_REREAD (R401). After 1 µs a submission with a wrong check code is read again. -/
  | submitReread
  /-- HOST_REGISTER_WRITE (R400). A host write to another BAR0 register, such as SRBASE, or to an unused offset. -/
  | hostRegisterWrite
  /-- PLACE (R407). Maps pages at tier 1 with new origins and fills them. -/
  | place
  /-- GROUP (R407). Binds or unbinds a claim-group descriptor to a slot of a stream. -/
  | group
  /-- CONTEXT (R407). Grants or releases an optimiser context, optionally setting STEP. -/
  | context
  /-- POOL (R407). Sets the frame pool size of a stream's nodes. -/
  | pool
  /-- GTABLE (R407). Writes or unassigns a fabric group table entry. -/
  | gtable
  /-- WINDOW (R407). Opens or revokes a fabric window over contiguous HBM. -/
  | window
  /-- GRANT (R407). Issues a grant token for a window to a requester package. -/
  | grant
  /-- RETIRE (R407). Retires a MAC key index. -/
  | retire
  /-- TOKMAP (R407). Writes or clears a token table entry and maps or unmaps its pages. -/
  | tokmap
  /-- ATTEST (R408). Writes a signed attestation report. -/
  | attest
  /-- MEASURE (R407). Writes the measurement register M. -/
  | measure
  /-- BOOT (R409). At reset the ROM verifies and measures the innkeeper image and starts it. -/
  | boot
  /-- FUNCTION_LEVEL_RESET (R404). Ends every node, empties the pool and runs the boot again. -/
  | functionLevelReset
  /-- DIE_CLOCK_LOWER (R413). The clock of a die is lowered near the power or thermal limit. -/
  | dieClockLower
  /-- ILLEGAL_INSTRUCTION (R75). A word that is not an instruction issues and raises illegal instruction with its detail. -/
  | illegalInstruction
  /-- PREEMPTION_REQUEST (R306). The innkeeper raises a pre-emption request at a moment of its own choosing. -/
  | preemptionRequest
  /-- SLEEPING_THREAD_SWITCH_OUT (R315). The dispatcher switches out a sleeping thread at any moment of its sleep, saving its image with the sleeping PC. -/
  | sleepingThreadSwitchOut
  /-- NOCLAIM (R398). A cl.obj or cl.wait waiting on an unknown claim raises NOCLAIM once the member's ftime passes t0 + Lmax + ε. -/
  | noclaim
  /-- UNCORRECTABLE_ERROR (R290). A bit error arises of itself in HBM, cache, scratchpad, a register file or a buffer, to be corrected or reported
  at its consumer. -/
  | uncorrectableError
  /-- HOST_WRITE (R404). A host write, relaxed or not, lands in device memory, such as a record write. -/
  | hostWrite
  /-- HOST_REGISTER_READ (R404). A host read of a BAR0 register, which orders earlier non-relaxed host writes and returns all ones for a malformed access. -/
  | hostRegisterRead
  /-- PIN_COMPLETE (R323). A pin of a tier-0 page completes, about 150 ns after it starts, and counts as moved for its entry. -/
  | pinComplete
  /-- DIE_CLOCK_RAISE (R413). The innkeeper restores a die's clock once the module is away from its power or cold plate limit. -/
  | dieClockRaise
  deriving DecidableEq, Repr

end Sys2Proof
end

