-- ==== Sys2Proof/WellFormed.lean ====
section
/-! DEFINITION. Which terms of `Instr` are instructions that some word encodes: the field limits that spec 04 R63 to R74 and
the instruction entries give. What depends on the state of the thread (R37, R117) is checked when the instruction issues. -/

namespace Sys2Proof

/-- A specifier allowed as a destination (R63). -/
def VSpec.isDest : VSpec → Bool
  | .l1 => false
  | _ => true

/-- A specifier allowed in field vreg of FmtM (R63). -/
def VSpec.inMem : VSpec → Bool
  | .v _ => true
  | .o _ => true
  | _ => false

/-- The VV form. -/
def VB.isVec : VB → Bool
  | .vv _ => true
  | _ => false

/-- The VI form. -/
def VB.isImm : VB → Bool
  | .vi _ => true
  | _ => false

/-- The VI form. -/
def XB.isImm : XB → Bool
  | .vi _ => true
  | _ => false

/-- f32, f16 and bf16. -/
def ETy.isFp : ETy → Bool
  | .f32 => true | .f16 => true | .bf16 => true
  | _ => false

/-- i8 to i64 and n8 to n64. -/
def ETy.isInt : ETy → Bool
  | .f32 => false | .f16 => false | .bf16 => false | .lns6 => false
  | _ => true

/-- Types that `vcvt` accepts (R126). -/
def ETy.cvtOk : ETy → Bool
  | .lns6 => false
  | .n8 => true | .n16 => true | .n32 => true | .n64 => true
  | _ => true

/-- The type sets of R70. -/
inductive TySet where
  | fp | int | any
  deriving DecidableEq, Repr

/-- Whether a type code belongs to a type set (R70). -/
def TySet.has : TySet → ETy → Bool
  | .fp, t => t.isFp
  | .int, t => t.isInt
  | .any, t => t != .lns6

/-- What a FmtV func accepts in its prefix (R67, R68, R70): the mask, zeroing, trap marks, a type and an immediate part. -/
inductive VPClass where
  /-- merging func without d as a source of its own: type set, b is a vector, b is an immediate -/
  | arith (ty : TySet) (vec imm : Bool)
  /-- VFMA: d is always read -/
  | fma (vec imm : Bool)
  /-- `viota`: no vector source -/
  | iota
  /-- comparisons into a mask -/
  | cmp (ty : TySet) (vec imm : Bool)
  /-- mask funcs: no type, no mask, no trap mark -/
  | bare
  /-- `vcvt`: no type -/
  | untyped
  /-- the four reductions of R130 -/
  | reduce (imm : Bool)
  /-- `vcompress`: no zeroing -/
  | compress
  /-- `vsplat`: no vector source -/
  | splat (imm : Bool)
  /-- TAN funcs that read d and no a -/
  | tanD
  /-- `dput`: reads a and d -/
  | put (imm : Bool)
  deriving DecidableEq, Repr

namespace VPClass

/-- A nonzero mask is accepted. -/
def maskOk : VPClass → Bool
  | .bare => false
  | _ => true

/-- Zeroing is accepted. -/
def zeroOk : VPClass → Bool
  | .reduce _ => false | .compress => false | .bare => false
  | _ => true

/-- Source a is a register that the instruction reads. -/
def taOk : VPClass → Bool
  | .iota => false | .bare => false | .splat _ => false | .tanD => false
  | _ => true

/-- Source b is a vector register. -/
def tbOk : VPClass → Bool
  | .arith _ v _ => v | .fma v _ => v | .cmp _ v _ => v
  | _ => false

/-- Under this mask and zero bit, d is read as a source (R116) (DEDUCED, log entry 22). -/
def tdOk (c : VPClass) (mask : BitVec 3) (zero : Bool) : Bool :=
  match c with
  | .fma _ _ => true
  | .tanD => true
  | .put _ => true
  | .cmp _ _ _ => false
  | .bare => false
  | .reduce _ => false
  | _ => mask != 0 && !zero

/-- The types a prefix may name, or none when the func has no type (R70). -/
def types : VPClass → Option TySet
  | .arith ty _ _ => some ty
  | .fma _ _ => some .fp
  | .iota => some .int
  | .cmp ty _ _ => some ty
  | .bare => none
  | .untyped => none
  | .reduce _ => some .any
  | .compress => some .any
  | .splat _ => some .any
  | .tanD => some .fp
  | .put _ => some .fp

/-- The instruction is in the VI form, so ext[14:0] is the high part of its immediate (R68). -/
def hasImm : VPClass → Bool
  | .arith _ _ i => i | .fma _ i => i | .cmp _ _ i => i | .reduce i => i | .splat i => i | .put i => i
  | _ => false

end VPClass

/-- A FmtV prefix that the func accepts (R67, R68, R70). -/
def pfxOk (p : Option VPfx) (c : VPClass) : Bool :=
  match p with
  | none => true
  | some p =>
    (!p.zero || p.mask != 0) && (p.mask == 0 || c.maskOk) && (!p.zero || c.zeroOk)
      && (!p.ta || c.taOk) && (!p.tb || c.tbOk) && (!p.td || c.tdOk p.mask p.zero)
      && (match p.ty with
          | none => true
          | some t => match c.types with
            | none => false
            | some s => s.has t)
      && (c.hasImm || p.imm == 0)

/-- What a vector memory instruction accepts in its prefix (R67, R171, R250, R275). -/
inductive MPClass where
  | load | loadX | store | indexed | storeQ | plain
  deriving DecidableEq, Repr

namespace MPClass

/-- A mask is accepted (modes 0 to 3, vector atomics and reductions). -/
def maskOk : MPClass → Bool
  | .plain => false | .storeQ => false
  | _ => true

/-- There is an index register. -/
def taOk : MPClass → Bool
  | .loadX => true | .indexed => true
  | _ => false

/-- Under this mask and zero bit, the data register is read: stored, or merged into by a load (R171, R172). -/
def tdOk (c : MPClass) (mask : BitVec 3) (zero : Bool) : Bool :=
  match c with
  | .store => true | .indexed => true | .storeQ => true
  | .plain => false
  | _ => mask != 0 && !zero

end MPClass

/-- A prefix of a vector memory instruction that it accepts. -/
def mpfxOk (p : Option MPfx) (c : MPClass) : Bool :=
  match p with
  | none => true
  | some p => (!p.zero || p.mask != 0) && (p.mask == 0 || c.maskOk) && (!p.ta || c.taOk) && (!p.td || c.tdOk p.mask p.zero)

/-- The long immediate of R69 as a signed integer: SignExtend(ext[14:0] ‖ b[6:0], 22). -/
def longImm (hi : BitVec 15) (b : BitVec 7) : Int := (hi ++ b).toInt

/-- An XLANE immediate (R129): unsigned without a prefix, the long immediate under one. -/
def laneImm (p : Option VPfx) (b : BitVec 7) : Int :=
  match p with
  | none => b.toNat
  | some p => longImm p.imm b

/-- A segment length is at least 1 (R129, R130). -/
def segOk (p : Option VPfx) (seg : Option (BitVec 7)) : Bool :=
  match seg with
  | none => true
  | some b => decide (1 ≤ laneImm p b)

/-- An XLANE immediate is not negative (R129). -/
def unsignedOk (p : Option VPfx) (b : XB) : Bool :=
  match b with
  | .vs _ => true
  | .vi b => decide (0 ≤ laneImm p b)

/-- Bundle width of a tile bundle code (R209). -/
def tileWidth (b : BitVec 2) : Nat :=
  if b == 0 then 0 else if b == 1 then 1 else if b == 2 then 2 else 4

/-- The stage-map bits at and above 2M are zero, where M = m + 1 (R156). -/
def mapOk (m : BitVec 4) (map : Word32) : Bool := (map >>> (2 * (m.toNat + 1))) == 0

/-- The pairs of R43. -/
def shapeOk (n k : Nat) : Bool :=
  (n == 8 || n == 16 || n == 24 || n == 32 || n == 48 || n == 64)
    && (k == 0 || k == 1 || k == 2 || k == 4 || k == 8 || k == 16)
    && decide (n * (1 + k) ≤ 1024)

/-- The term is an instruction that words encode. -/
def Instr.wf : Instr → Bool
  | .add _ _ _ => true
  | .sub _ _ _ => true
  | .mul _ _ _ => true
  | .mulhI _ _ _ => true
  | .mulhN _ _ _ => true
  | .divI _ _ _ => true
  | .divN _ _ _ => true
  | .remI _ _ _ => true
  | .remN _ _ _ => true
  | .and _ _ _ => true
  | .or _ _ _ => true
  | .xor _ _ _ => true
  | .shl _ _ _ => true
  | .shr _ _ _ => true
  | .sra _ _ _ => true
  | .sltI _ _ _ => true
  | .sltN _ _ _ => true
  | .minI _ _ _ => true
  | .maxI _ _ _ => true
  | .minN _ _ _ => true
  | .maxN _ _ _ => true
  | .clz _ _ => true
  | .ctz _ _ => true
  | .popc _ _ => true
  | .sext _ _ w => decide (1 ≤ w.toNat) && decide (w.toNat ≤ 64)
  | .zext _ _ w => decide (1 ≤ w.toNat) && decide (w.toNat ≤ 64)
  | .addi _ _ _ => true
  | .andi _ _ _ => true
  | .ori _ _ _ => true
  | .xori _ _ _ => true
  | .shli _ _ _ => true
  | .shri _ _ _ => true
  | .srai _ _ _ => true
  | .lui _ _ => true
  | .ldI8 _ _ sc ord _ => (ord != .rel) && (ord != .wk || sc == .core)
  | .ldI16 _ _ sc ord _ => (ord != .rel) && (ord != .wk || sc == .core)
  | .ldI32 _ _ sc ord _ => (ord != .rel) && (ord != .wk || sc == .core)
  | .ldI64 _ _ sc ord _ => (ord != .rel) && (ord != .wk || sc == .core)
  | .ldN8 _ _ sc ord _ => (ord != .rel) && (ord != .wk || sc == .core)
  | .ldN16 _ _ sc ord _ => (ord != .rel) && (ord != .wk || sc == .core)
  | .ldN32 _ _ sc ord _ => (ord != .rel) && (ord != .wk || sc == .core)
  | .st8 _ _ sc ord _ => (ord != .acq) && (ord != .wk || sc == .core)
  | .st16 _ _ sc ord _ => (ord != .acq) && (ord != .wk || sc == .core)
  | .st32 _ _ sc ord _ => (ord != .acq) && (ord != .wk || sc == .core)
  | .st64 _ _ sc ord _ => (ord != .acq) && (ord != .wk || sc == .core)
  | .brEq _ _ _ => true
  | .brNe _ _ _ => true
  | .brLt _ _ _ => true
  | .brGe _ _ _ => true
  | .brLtn _ _ _ => true
  | .brGen _ _ _ => true
  | .bpT _ _ => true
  | .bpF _ _ => true
  | .jal _ _ => true
  | .jalr _ _ _ => true
  | .fadd _ _ _ _ => true
  | .fsub _ _ _ _ => true
  | .fmul _ _ _ _ => true
  | .fdiv _ _ _ _ => true
  | .fsqrt _ _ _ => true
  | .fmacc _ _ _ _ => true
  | .fmin _ _ _ => true
  | .fmax _ _ _ => true
  | .fabs _ _ => true
  | .fneg _ _ => true
  | .fcvtFX _ _ _ _ => true
  | .fcvtXF _ _ _ _ => true
  | .fmovX _ _ => true
  | .fmovF _ _ => true
  | .fcmp _ _ _ _ => true
  | .fclass _ _ => true
  | .pand _ _ _ => true
  | .por _ _ _ => true
  | .pxor _ _ _ => true
  | .pnot _ _ => true
  | .ppack _ => true
  | .punpk _ => true
  | .pset _ _ => true
  | .vfadd p d _ b => d.isDest && pfxOk p (.arith .fp b.isVec b.isImm)
  | .vfsub p d _ b => d.isDest && pfxOk p (.arith .fp b.isVec b.isImm)
  | .vfmul p d _ b => d.isDest && pfxOk p (.arith .fp b.isVec b.isImm)
  | .vfdiv p d _ b => d.isDest && pfxOk p (.arith .fp b.isVec b.isImm)
  | .vfmin p d _ b => d.isDest && pfxOk p (.arith .fp b.isVec b.isImm)
  | .vfmax p d _ b => d.isDest && pfxOk p (.arith .fp b.isVec b.isImm)
  | .vfcopysign p d _ b => d.isDest && pfxOk p (.arith .fp b.isVec b.isImm)
  | .vfaddp p d _ b => d.isDest && pfxOk p (.fma b.isVec b.isImm)
  | .vfnaddp p d _ b => d.isDest && pfxOk p (.fma b.isVec b.isImm)
  | .vfsubd p d _ b => d.isDest && pfxOk p (.fma b.isVec b.isImm)
  | .vfsubp p d _ b => d.isDest && pfxOk p (.fma b.isVec b.isImm)
  | .vfsqrt p d _ => d.isDest && pfxOk p (.arith .fp false false)
  | .vfrsqrt p d _ => d.isDest && pfxOk p (.arith .fp false false)
  | .vfrecip p d _ => d.isDest && pfxOk p (.arith .fp false false)
  | .vfexp2 p d _ => d.isDest && pfxOk p (.arith .fp false false)
  | .vflog2 p d _ => d.isDest && pfxOk p (.arith .fp false false)
  | .vftanh p d _ => d.isDest && pfxOk p (.arith .fp false false)
  | .vfsig p d _ => d.isDest && pfxOk p (.arith .fp false false)
  | .vfrelu p d _ => d.isDest && pfxOk p (.arith .fp false false)
  | .vfabs p d _ => d.isDest && pfxOk p (.arith .fp false false)
  | .vfneg p d _ => d.isDest && pfxOk p (.arith .fp false false)
  | .vfround p d _ _ => d.isDest && pfxOk p (.arith .fp false false)
  | .vadd p d _ b => d.isDest && pfxOk p (.arith .int b.isVec b.isImm)
  | .vsub p d _ b => d.isDest && pfxOk p (.arith .int b.isVec b.isImm)
  | .vmul p d _ b => d.isDest && pfxOk p (.arith .int b.isVec b.isImm)
  | .vmulh p d _ b => d.isDest && pfxOk p (.arith .int b.isVec b.isImm)
  | .vand p d _ b => d.isDest && pfxOk p (.arith .int b.isVec b.isImm)
  | .vor p d _ b => d.isDest && pfxOk p (.arith .int b.isVec b.isImm)
  | .vxor p d _ b => d.isDest && pfxOk p (.arith .int b.isVec b.isImm)
  | .vshl p d _ b => d.isDest && pfxOk p (.arith .int b.isVec b.isImm)
  | .vshr p d _ b => d.isDest && pfxOk p (.arith .int b.isVec b.isImm)
  | .vsra p d _ b => d.isDest && pfxOk p (.arith .int b.isVec b.isImm)
  | .vmin p d _ b => d.isDest && pfxOk p (.arith .int b.isVec b.isImm)
  | .vmax p d _ b => d.isDest && pfxOk p (.arith .int b.isVec b.isImm)
  | .viota p d => d.isDest && pfxOk p .iota
  | .vfcmp p _ kd _ b => kd != 0 && pfxOk p (.cmp .fp b.isVec b.isImm)
  | .vcmp p _ kd _ b => kd != 0 && pfxOk p (.cmp .int b.isVec b.isImm)
  | .kand p d _ _ => d != 0 && pfxOk p .bare
  | .kor p d _ _ => d != 0 && pfxOk p .bare
  | .kxor p d _ _ => d != 0 && pfxOk p .bare
  | .knot p d _ => d != 0 && pfxOk p .bare
  | .kpop p _ _ => pfxOk p .bare
  | .kfirst p _ _ => pfxOk p .bare
  | .kmovX p _ _ _ => pfxOk p .bare
  | .kmovKMask p d _ => d != 0 && pfxOk p .bare
  | .kmovKVector p d _ => d.isDest && pfxOk p .bare
  | .vcvt p t d _ src _ => d.isDest && t.cvtOk && src.cvtOk && t != src && pfxOk p .untyped
  | .vsumO p d _ seg => d.isDest && segOk p seg && pfxOk p (.reduce seg.isSome)
  | .vsumF p d _ seg => d.isDest && segOk p seg && pfxOk p (.reduce seg.isSome)
  | .vmaxr p d _ seg => d.isDest && segOk p seg && pfxOk p (.reduce seg.isSome)
  | .vminr p d _ seg => d.isDest && segOk p seg && pfxOk p (.reduce seg.isSome)
  | .vscanO p d _ seg => d.isDest && segOk p seg && pfxOk p (.arith .any false seg.isSome)
  | .vperm p d _ _ => d.isDest && pfxOk p (.arith .any true false)
  | .vslideup p d _ b => d.isDest && unsignedOk p b && pfxOk p (.arith .any false b.isImm)
  | .vslidedn p d _ b => d.isDest && unsignedOk p b && pfxOk p (.arith .any false b.isImm)
  | .vcompress p d _ => d.isDest && pfxOk p .compress
  | .vexpand p d _ => d.isDest && pfxOk p (.arith .any false false)
  | .vbcast p d _ b => d.isDest && unsignedOk p b && pfxOk p (.arith .any false b.isImm)
  | .vmov p d _ => d.isDest && pfxOk p (.arith .any false false)
  | .vsplat p d b => d.isDest && pfxOk p (.splat b.isImm)
  | .dseedRad p d _ => d.isDest && pfxOk p .tanD
  | .dzero p d _ => d.isDest && pfxOk p (.arith .fp false false)
  | .dget p d _ b => d.isDest && unsignedOk p b && pfxOk p (.arith .fp false b.isImm)
  | .dput p d _ b => d.isDest && unsignedOk p b && pfxOk p (.put b.isImm)
  | .dmask p d _ => d.isDest && pfxOk p .tanD
  | .vld p t v _ _ _ _ => v.inMem && t != .lns6 && mpfxOk p .load
  | .vldS p t v _ _ _ _ _ => v.inMem && t != .lns6 && mpfxOk p .load
  | .vld2d p t v _ _ _ xs _ => v.inMem && t != .lns6 && decide (xs.toNat ≤ 29) && mpfxOk p .load
  | .vldX p t v _ _ _ _ => v.inMem && t != .lns6 && mpfxOk p .loadX
  | .vldQ p v _ _ _ _ => v.inMem && mpfxOk p .plain
  | .vrs p count v _ _ _ => decide (v.toNat + count.toNat ≤ 63) && mpfxOk p .plain
  | .vst p t v _ _ _ => v.inMem && t != .lns6 && mpfxOk p .store
  | .vstS p t v _ _ _ _ => v.inMem && t != .lns6 && mpfxOk p .store
  | .vst2d p t v _ _ xs _ => v.inMem && t != .lns6 && decide (xs.toNat ≤ 29) && mpfxOk p .store
  | .vstX p t v _ _ _ _ => v.inMem && t != .lns6 && mpfxOk p .indexed
  | .vstQ p v _ _ _ _ => v.inMem && mpfxOk p .storeQ
  | .vsv p count v _ _ _ => decide (v.toNat + count.toNat ≤ 63) && mpfxOk p .plain
  | .vamoAdd p _ _ _ _ _ => mpfxOk p .indexed
  | .vamoMin p _ _ _ _ _ => mpfxOk p .indexed
  | .vamoMax p _ _ _ _ _ => mpfxOk p .indexed
  | .vamoSwap p _ _ _ _ _ => mpfxOk p .indexed
  | .vamoCas p _ _ _ _ _ => mpfxOk p .indexed
  | .amoAdd _ _ _ _ _ _ => true
  | .amoMin _ _ _ _ _ _ => true
  | .amoMax _ _ _ _ _ _ => true
  | .amoSwap _ _ _ _ _ _ => true
  | .amoCas _ _ _ _ _ _ => true
  | .mredAdd p _ _ _ _ _ => mpfxOk p .indexed
  | .mredMin p _ _ _ _ _ => mpfxOk p .indexed
  | .mredMax p _ _ _ _ _ => mpfxOk p .indexed
  | .mxCfg rows cols _ => decide (1 ≤ rows.toNat) && decide (rows.toNat ≤ 96) && decide (1 ≤ cols.toNat) && decide (cols.toNat ≤ 96)
  | .mxZero t b => decide (t.toNat + tileWidth b ≤ 7)
  | .mxLdw _ _ s t => t == .lns6 || s == 0
  | .mxSeedw _ _ => true
  | .mxSeedwClr => true
  | .mxStep _ _ _ d _ => decide (1 ≤ d.toNat) && decide (d.toNat ≤ 96)
  | .mxStepf _ _ _ d _ => decide (1 ≤ d.toNat) && decide (d.toNat ≤ 96)
  | .mxCommit => true
  | .mxWait n => decide (n.toNat ≤ 16)
  | .mxRd v _ _ _ => v.inMem
  | .mxWr _ _ _ _ => true
  | .cpNd _ => true
  | .cpLin _ _ _ _ => true
  | .qFence mask => mask != 0
  | .qFenceW mask => mask != 0
  | .cpStat _ _ => true
  | .fence _ _ => true
  | .barInit _ _ _ => true
  | .barArr _ _ _ => true
  | .barWait _ _ => true
  | .barTest _ _ _ => true
  | .waita _ _ _ _ => true
  | .nodeSub _ _ => true
  | .loop _ n => n != 0
  | .brkl => true
  | .lidx _ level => decide (level.toNat ≤ 5)
  | .repf _ m _ _ _ wz map => decide (wz.toNat ≤ 6) && mapOk m map
  | .mile _ => true
  | .itBind _ _ => true
  | .itWait _ => true
  | .itStat _ _ => true
  | .clProp _ _ _ _ => true
  | .clObj _ _ => true
  | .clWait _ _ _ => true
  | .clStat _ _ _ _ => true
  | .clHold _ _ => true
  | .clFree _ _ => true
  | .mcSt g _ _ _ => g != 31
  | .mcLdr _ _ g _ _ => g != 31
  | .tokSet _ _ _ => true
  | .tokClr _ => true
  | .fabStat _ _ => true
  | .optCard _ => true
  | .optWait n => decide (n.toNat ≤ 64)
  | .optStep _ => true
  | .optStat _ _ sel => sel != 3
  | .optRout _ _ => true
  | .setvl _ _ _ => true
  | .setshape n k => shapeOk n.toNat k.toNat
  | .vframe _ => true
  | .stread _ _ => true
  | .stwrite _ _ => true
  | .stset _ _ => true
  | .stclr _ _ => true
  | .inncall _ => true
  | .dbgtrap _ => true
  | .eret => true
  | .tlbInv _ _ => true
  | .halt => true
  | .speculationResolve => false
  | .scalarValueReturn => false
  | .registerFillComplete => false
  | .issueWaitRelease => false
  | .threadWake => false
  | .threadRetire => false
  | .nodeComplete => false
  | .dispatchThread => false
  | .priorityAging => false
  | .quantumExpiry => false
  | .preemptionLanding => false
  | .iterationOverrun => false
  | .timingError => false
  | .mxCfgPerform => false
  | .mxZeroPerform => false
  | .mxLdwPerform => false
  | .mxSeedwPerform => false
  | .mxStepPerform => false
  | .batchComplete => false
  | .waybillStart => false
  | .waybillComplete => false
  | .cpLinPerform => false
  | .cardStart => false
  | .cardComplete => false
  | .routineInstall => false
  | .stepIncrement => false
  | .atomicApply => false
  | .porterMoveStart => false
  | .fetchComplete => false
  | .evictComplete => false
  | .dropComplete => false
  | .cxlLinkDown => false
  | .fabricPacketArrival => false
  | .fabricReplyArrival => false
  | .fabricAttemptTimeout => false
  | .abortFlit => false
  | .sequenceExpiry => false
  | .fabricLinkDown => false
  | .fabricLinkUp => false
  | .mcStStart => false
  | .multicastBankAccept => false
  | .multicastBranchForward => false
  | .acknowledgementArrival => false
  | .ftimeReceived => false
  | .ftimeLoss => false
  | .proposalReceived => false
  | .objectionReceived => false
  | .breachNoticeReceived => false
  | .breachNoticeOriginate => false
  | .heldObjectionDiscard => false
  | .claimClose => false
  | .claimForget => false
  | .submit => false
  | .submitReread => false
  | .hostRegisterWrite => false
  | .place => false
  | .group => false
  | .context => false
  | .pool => false
  | .gtable => false
  | .window => false
  | .grant => false
  | .retire => false
  | .tokmap => false
  | .attest => false
  | .measure => false
  | .boot => false
  | .functionLevelReset => false
  | .dieClockLower => false
  | .illegalInstruction => false
  | .preemptionRequest => false
  | .sleepingThreadSwitchOut => false
  | .noclaim => false
  | .uncorrectableError => false
  | .hostWrite => false
  | .hostRegisterRead => false
  | .pinComplete => false
  | .dieClockRaise => false

/-- The term is a step without an encoding. -/
def Instr.isEvent : Instr → Bool
  | .add _ _ _ => false
  | .sub _ _ _ => false
  | .mul _ _ _ => false
  | .mulhI _ _ _ => false
  | .mulhN _ _ _ => false
  | .divI _ _ _ => false
  | .divN _ _ _ => false
  | .remI _ _ _ => false
  | .remN _ _ _ => false
  | .and _ _ _ => false
  | .or _ _ _ => false
  | .xor _ _ _ => false
  | .shl _ _ _ => false
  | .shr _ _ _ => false
  | .sra _ _ _ => false
  | .sltI _ _ _ => false
  | .sltN _ _ _ => false
  | .minI _ _ _ => false
  | .maxI _ _ _ => false
  | .minN _ _ _ => false
  | .maxN _ _ _ => false
  | .clz _ _ => false
  | .ctz _ _ => false
  | .popc _ _ => false
  | .sext _ _ _ => false
  | .zext _ _ _ => false
  | .addi _ _ _ => false
  | .andi _ _ _ => false
  | .ori _ _ _ => false
  | .xori _ _ _ => false
  | .shli _ _ _ => false
  | .shri _ _ _ => false
  | .srai _ _ _ => false
  | .lui _ _ => false
  | .ldI8 _ _ _ _ _ => false
  | .ldI16 _ _ _ _ _ => false
  | .ldI32 _ _ _ _ _ => false
  | .ldI64 _ _ _ _ _ => false
  | .ldN8 _ _ _ _ _ => false
  | .ldN16 _ _ _ _ _ => false
  | .ldN32 _ _ _ _ _ => false
  | .st8 _ _ _ _ _ => false
  | .st16 _ _ _ _ _ => false
  | .st32 _ _ _ _ _ => false
  | .st64 _ _ _ _ _ => false
  | .brEq _ _ _ => false
  | .brNe _ _ _ => false
  | .brLt _ _ _ => false
  | .brGe _ _ _ => false
  | .brLtn _ _ _ => false
  | .brGen _ _ _ => false
  | .bpT _ _ => false
  | .bpF _ _ => false
  | .jal _ _ => false
  | .jalr _ _ _ => false
  | .fadd _ _ _ _ => false
  | .fsub _ _ _ _ => false
  | .fmul _ _ _ _ => false
  | .fdiv _ _ _ _ => false
  | .fsqrt _ _ _ => false
  | .fmacc _ _ _ _ => false
  | .fmin _ _ _ => false
  | .fmax _ _ _ => false
  | .fabs _ _ => false
  | .fneg _ _ => false
  | .fcvtFX _ _ _ _ => false
  | .fcvtXF _ _ _ _ => false
  | .fmovX _ _ => false
  | .fmovF _ _ => false
  | .fcmp _ _ _ _ => false
  | .fclass _ _ => false
  | .pand _ _ _ => false
  | .por _ _ _ => false
  | .pxor _ _ _ => false
  | .pnot _ _ => false
  | .ppack _ => false
  | .punpk _ => false
  | .pset _ _ => false
  | .vfadd _ _ _ _ => false
  | .vfsub _ _ _ _ => false
  | .vfmul _ _ _ _ => false
  | .vfdiv _ _ _ _ => false
  | .vfmin _ _ _ _ => false
  | .vfmax _ _ _ _ => false
  | .vfcopysign _ _ _ _ => false
  | .vfaddp _ _ _ _ => false
  | .vfnaddp _ _ _ _ => false
  | .vfsubd _ _ _ _ => false
  | .vfsubp _ _ _ _ => false
  | .vfsqrt _ _ _ => false
  | .vfrsqrt _ _ _ => false
  | .vfrecip _ _ _ => false
  | .vfexp2 _ _ _ => false
  | .vflog2 _ _ _ => false
  | .vftanh _ _ _ => false
  | .vfsig _ _ _ => false
  | .vfrelu _ _ _ => false
  | .vfabs _ _ _ => false
  | .vfneg _ _ _ => false
  | .vfround _ _ _ _ => false
  | .vadd _ _ _ _ => false
  | .vsub _ _ _ _ => false
  | .vmul _ _ _ _ => false
  | .vmulh _ _ _ _ => false
  | .vand _ _ _ _ => false
  | .vor _ _ _ _ => false
  | .vxor _ _ _ _ => false
  | .vshl _ _ _ _ => false
  | .vshr _ _ _ _ => false
  | .vsra _ _ _ _ => false
  | .vmin _ _ _ _ => false
  | .vmax _ _ _ _ => false
  | .viota _ _ => false
  | .vfcmp _ _ _ _ _ => false
  | .vcmp _ _ _ _ _ => false
  | .kand _ _ _ _ => false
  | .kor _ _ _ _ => false
  | .kxor _ _ _ _ => false
  | .knot _ _ _ => false
  | .kpop _ _ _ => false
  | .kfirst _ _ _ => false
  | .kmovX _ _ _ _ => false
  | .kmovKMask _ _ _ => false
  | .kmovKVector _ _ _ => false
  | .vcvt _ _ _ _ _ _ => false
  | .vsumO _ _ _ _ => false
  | .vsumF _ _ _ _ => false
  | .vmaxr _ _ _ _ => false
  | .vminr _ _ _ _ => false
  | .vscanO _ _ _ _ => false
  | .vperm _ _ _ _ => false
  | .vslideup _ _ _ _ => false
  | .vslidedn _ _ _ _ => false
  | .vcompress _ _ _ => false
  | .vexpand _ _ _ => false
  | .vbcast _ _ _ _ => false
  | .vmov _ _ _ => false
  | .vsplat _ _ _ => false
  | .dseedRad _ _ _ => false
  | .dzero _ _ _ => false
  | .dget _ _ _ _ => false
  | .dput _ _ _ _ => false
  | .dmask _ _ _ => false
  | .vld _ _ _ _ _ _ _ => false
  | .vldS _ _ _ _ _ _ _ _ => false
  | .vld2d _ _ _ _ _ _ _ _ => false
  | .vldX _ _ _ _ _ _ _ => false
  | .vldQ _ _ _ _ _ _ => false
  | .vrs _ _ _ _ _ _ => false
  | .vst _ _ _ _ _ _ => false
  | .vstS _ _ _ _ _ _ _ => false
  | .vst2d _ _ _ _ _ _ _ => false
  | .vstX _ _ _ _ _ _ _ => false
  | .vstQ _ _ _ _ _ _ => false
  | .vsv _ _ _ _ _ _ => false
  | .vamoAdd _ _ _ _ _ _ => false
  | .vamoMin _ _ _ _ _ _ => false
  | .vamoMax _ _ _ _ _ _ => false
  | .vamoSwap _ _ _ _ _ _ => false
  | .vamoCas _ _ _ _ _ _ => false
  | .amoAdd _ _ _ _ _ _ => false
  | .amoMin _ _ _ _ _ _ => false
  | .amoMax _ _ _ _ _ _ => false
  | .amoSwap _ _ _ _ _ _ => false
  | .amoCas _ _ _ _ _ _ => false
  | .mredAdd _ _ _ _ _ _ => false
  | .mredMin _ _ _ _ _ _ => false
  | .mredMax _ _ _ _ _ _ => false
  | .mxCfg _ _ _ => false
  | .mxZero _ _ => false
  | .mxLdw _ _ _ _ => false
  | .mxSeedw _ _ => false
  | .mxSeedwClr => false
  | .mxStep _ _ _ _ _ => false
  | .mxStepf _ _ _ _ _ => false
  | .mxCommit => false
  | .mxWait _ => false
  | .mxRd _ _ _ _ => false
  | .mxWr _ _ _ _ => false
  | .cpNd _ => false
  | .cpLin _ _ _ _ => false
  | .qFence _ => false
  | .qFenceW _ => false
  | .cpStat _ _ => false
  | .fence _ _ => false
  | .barInit _ _ _ => false
  | .barArr _ _ _ => false
  | .barWait _ _ => false
  | .barTest _ _ _ => false
  | .waita _ _ _ _ => false
  | .nodeSub _ _ => false
  | .loop _ _ => false
  | .brkl => false
  | .lidx _ _ => false
  | .repf _ _ _ _ _ _ _ => false
  | .mile _ => false
  | .itBind _ _ => false
  | .itWait _ => false
  | .itStat _ _ => false
  | .clProp _ _ _ _ => false
  | .clObj _ _ => false
  | .clWait _ _ _ => false
  | .clStat _ _ _ _ => false
  | .clHold _ _ => false
  | .clFree _ _ => false
  | .mcSt _ _ _ _ => false
  | .mcLdr _ _ _ _ _ => false
  | .tokSet _ _ _ => false
  | .tokClr _ => false
  | .fabStat _ _ => false
  | .optCard _ => false
  | .optWait _ => false
  | .optStep _ => false
  | .optStat _ _ _ => false
  | .optRout _ _ => false
  | .setvl _ _ _ => false
  | .setshape _ _ => false
  | .vframe _ => false
  | .stread _ _ => false
  | .stwrite _ _ => false
  | .stset _ _ => false
  | .stclr _ _ => false
  | .inncall _ => false
  | .dbgtrap _ => false
  | .eret => false
  | .tlbInv _ _ => false
  | .halt => false
  | .speculationResolve => true
  | .scalarValueReturn => true
  | .registerFillComplete => true
  | .issueWaitRelease => true
  | .threadWake => true
  | .threadRetire => true
  | .nodeComplete => true
  | .dispatchThread => true
  | .priorityAging => true
  | .quantumExpiry => true
  | .preemptionLanding => true
  | .iterationOverrun => true
  | .timingError => true
  | .mxCfgPerform => true
  | .mxZeroPerform => true
  | .mxLdwPerform => true
  | .mxSeedwPerform => true
  | .mxStepPerform => true
  | .batchComplete => true
  | .waybillStart => true
  | .waybillComplete => true
  | .cpLinPerform => true
  | .cardStart => true
  | .cardComplete => true
  | .routineInstall => true
  | .stepIncrement => true
  | .atomicApply => true
  | .porterMoveStart => true
  | .fetchComplete => true
  | .evictComplete => true
  | .dropComplete => true
  | .cxlLinkDown => true
  | .fabricPacketArrival => true
  | .fabricReplyArrival => true
  | .fabricAttemptTimeout => true
  | .abortFlit => true
  | .sequenceExpiry => true
  | .fabricLinkDown => true
  | .fabricLinkUp => true
  | .mcStStart => true
  | .multicastBankAccept => true
  | .multicastBranchForward => true
  | .acknowledgementArrival => true
  | .ftimeReceived => true
  | .ftimeLoss => true
  | .proposalReceived => true
  | .objectionReceived => true
  | .breachNoticeReceived => true
  | .breachNoticeOriginate => true
  | .heldObjectionDiscard => true
  | .claimClose => true
  | .claimForget => true
  | .submit => true
  | .submitReread => true
  | .hostRegisterWrite => true
  | .place => true
  | .group => true
  | .context => true
  | .pool => true
  | .gtable => true
  | .window => true
  | .grant => true
  | .retire => true
  | .tokmap => true
  | .attest => true
  | .measure => true
  | .boot => true
  | .functionLevelReset => true
  | .dieClockLower => true
  | .illegalInstruction => true
  | .preemptionRequest => true
  | .sleepingThreadSwitchOut => true
  | .noclaim => true
  | .uncorrectableError => true
  | .hostWrite => true
  | .hostRegisterRead => true
  | .pinComplete => true
  | .dieClockRaise => true

end Sys2Proof
end

