-- ==== Sys2Proof/Decode.lean ====
section
/-! DEFINITION. From instruction words to instructions and back (spec 04_words_and_assembly R58 to R76, with the field layouts
of each instruction's entry). The decoder is total: a word that is no instruction answers the lowest detail of R75 that its
bits alone decide, together with the `v` registers it names, since R37 depends on the shape of the thread. -/

namespace Sys2Proof

/-- What the decoder answers: an instruction, or the lowest static detail of R75 and the `v` registers that the word names. -/
inductive Decoded where
  | ok (i : Instr)
  | illegal (detail : BitVec 8) (vregs : List (BitVec 6))
  deriving DecidableEq, Repr

/-- The answer under the checks for details 0x03 to 0x06; the lowest that applies is reported (R75). -/
def verdict (c3 c4 c5 c6 : Bool) (vregs : List (BitVec 6)) (i : Instr) : Decoded :=
  if c3 then .illegal 3 vregs else if c4 then .illegal 4 vregs else if c5 then .illegal 5 vregs
  else if c6 then .illegal 6 vregs else .ok i

/-- A selector value that R72 does not list. -/
def unassigned : Decoded := .illegal 2 []

/-! ### Codes of operands -/

/-- The register of a specifier code (R63); codes from 0x52 are rejected by `vres`. -/
def vspec (c : BitVec 7) : VSpec :=
  if c.toNat < 0x40 then .v (bits c 0 6) else if c.toNat < 0x50 then .o (bits c 0 4) else if c.toNat = 0x50 then .l0 else .l1

/-- A reserved specifier code (R63). -/
def vres (c : BitVec 7) : Bool := decide (0x52 ≤ c.toNat)

/-- A code that is no destination (R63). -/
def vresD (c : BitVec 7) : Bool := decide (0x51 ≤ c.toNat)

/-- A code that field vreg of FmtM does not hold (R63). -/
def vresM (c : BitVec 7) : Bool := decide (0x50 ≤ c.toNat)

/-- The `v` register that a specifier code names, if any. -/
def vnum (c : BitVec 7) : List (BitVec 6) := if c.toNat < 0x40 then [bits c 0 6] else []

/-- The specifier code of a register (R63). -/
def VSpec.code : VSpec → BitVec 7
  | .v n => 0#1 ++ n
  | .o n => 4#3 ++ n
  | .l0 => 0x50
  | .l1 => 0x51

/-- Type codes (R62). -/
def ety? (c : BitVec 4) : Option ETy :=
  match c.toNat with
  | 0 => some .f32 | 1 => some .f16 | 2 => some .bf16 | 3 => some .lns6
  | 4 => some .i8 | 5 => some .i16 | 6 => some .i32 | 7 => some .i64
  | 12 => some .n8 | 13 => some .n16 | 14 => some .n32 | 15 => some .n64
  | _ => none

/-- The code of a type (R62). -/
def ETy.code : ETy → BitVec 4
  | .f32 => 0 | .f16 => 1 | .bf16 => 2 | .lns6 => 3 | .i8 => 4 | .i16 => 5 | .i32 => 6 | .i64 => 7
  | .n8 => 12 | .n16 => 13 | .n32 => 14 | .n64 => 15

/-- Rounding codes (R61). -/
def rm? (c : BitVec 3) : Option Rm :=
  match c.toNat with
  | 0 => some .rne | 1 => some .rtz | 2 => some .rdn | 3 => some .rup | 4 => some .dyn
  | _ => none

/-- The code of a rounding field (R61). -/
def Rm.code : Rm → BitVec 3
  | .rne => 0 | .rtz => 1 | .rdn => 2 | .rup => 3 | .dyn => 4

/-- Scope codes (R74). -/
def scope (c : BitVec 2) : Scope :=
  match c.toNat with
  | 0 => .core | 1 => .die | 2 => .pkg | _ => .sys

/-- The code of a scope (R74). -/
def Scope.code : Scope → BitVec 2
  | .core => 0 | .die => 1 | .pkg => 2 | .sys => 3

/-- Order codes of scalar loads and stores (R74). -/
def order? (c : BitVec 3) : Option Order :=
  match c.toNat with
  | 0 => some .wk | 1 => some .rlx | 2 => some .acq | 3 => some .rel | 4 => some .sc
  | _ => none

/-- The code of an order (R74). -/
def Order.code : Order → BitVec 3
  | .wk => 0 | .rlx => 1 | .acq => 2 | .rel => 3 | .sc => 4

/-- Order codes of scalar atomics (R255). -/
def amoOrd (c : BitVec 2) : AmoOrd :=
  match c.toNat with
  | 0 => .rlx | 1 => .acq | 2 => .rel | _ => .sc

/-- The code of an order (R255). -/
def AmoOrd.code : AmoOrd → BitVec 2
  | .rlx => 0 | .acq => 1 | .rel => 2 | .sc => 3

/-- Integer types of the scalar conversions (R74). -/
def cvtTy? (c : BitVec 4) : Option CvtTy :=
  match c.toNat with
  | 6 => some .i32 | 7 => some .i64 | 14 => some .n32 | 15 => some .n64
  | _ => none

/-- The code of an integer type (R62). -/
def CvtTy.code : CvtTy → BitVec 4
  | .i32 => 6 | .i64 => 7 | .n32 => 14 | .n64 => 15

/-- Conditions of `fcmp` (R74). -/
def fcond (c : BitVec 2) : FCond :=
  match c.toNat with
  | 0 => .eq | 1 => .lt | 2 => .le | _ => .unord

/-- The code of a condition (R74). -/
def FCond.code : FCond → BitVec 2
  | .eq => 0 | .lt => 1 | .le => 2 | .unord => 3

/-- Conditions of `vfcmp` (R146). -/
def vfcond? (c : BitVec 4) : Option VFCond :=
  match c.toNat with
  | 0 => some .eq | 1 => some .ne | 2 => some .lt | 3 => some .le | 4 => some .gt | 5 => some .ge | 6 => some .unord
  | 7 => some .ord
  | _ => none

/-- The code of a condition (R146). -/
def VFCond.code : VFCond → BitVec 4
  | .eq => 0 | .ne => 1 | .lt => 2 | .le => 3 | .gt => 4 | .ge => 5 | .unord => 6 | .ord => 7

/-- Conditions of `vcmp` (R146). -/
def vcond? (c : BitVec 4) : Option VCond :=
  match c.toNat with
  | 0 => some .eq | 1 => some .ne | 2 => some .lt | 3 => some .le | 4 => some .gt | 5 => some .ge
  | _ => none

/-- The code of a condition (R146). -/
def VCond.code : VCond → BitVec 4
  | .eq => 0 | .ne => 1 | .lt => 2 | .le => 3 | .gt => 4 | .ge => 5

/-- Types of vector atomics and memory reductions (R250). -/
def vamoTy? (c : BitVec 3) : Option VAmoTy :=
  match c.toNat with
  | 0 => some .i32 | 1 => some .i64 | 2 => some .n32 | 3 => some .n64 | 4 => some .f32 | 5 => some .bf16
  | _ => none

/-- The code of a type (R250). -/
def VAmoTy.code : VAmoTy → BitVec 3
  | .i32 => 0 | .i64 => 1 | .n32 => 2 | .n64 => 3 | .f32 => 4 | .bf16 => 5

/-- Types of scalar atomics (R255). -/
def amoTy (c : BitVec 2) : AmoTy :=
  match c.toNat with
  | 0 => .i64 | 1 => .n64 | 2 => .i32 | _ => .n32

/-- The code of a type (R255). -/
def AmoTy.code : AmoTy → BitVec 2
  | .i64 => 0 | .n64 => 1 | .i32 => 2 | .n32 => 3

/-- Types of the MX instructions (R209). -/
def mxTy (c : BitVec 2) : MxTy :=
  match c.toNat with
  | 0 => .f32 | 1 => .f16 | 2 => .bf16 | _ => .lns6

/-- The code of a type (R209). -/
def MxTy.code : MxTy → BitVec 2
  | .f32 => 0 | .f16 => 1 | .bf16 => 2 | .lns6 => 3

/-- Fence kinds (R264). -/
def fenceKind? (c : BitVec 2) : Option FenceKind :=
  match c.toNat with
  | 0 => some .full | 1 => some .acq | 2 => some .rel
  | _ => none

/-- The code of a fence kind (R264). -/
def FenceKind.code : FenceKind → BitVec 2
  | .full => 0 | .acq => 1 | .rel => 2

/-- Conditions of `waita` (R265). -/
def wcond? (c : BitVec 2) : Option WCond :=
  match c.toNat with
  | 0 => some .eq | 1 => some .ne | 2 => some .ge
  | _ => none

/-- The code of a condition (R265). -/
def WCond.code : WCond → BitVec 2
  | .eq => 0 | .ne => 1 | .ge => 2

/-- Operations of `mc.ldr` (R368). -/
def ldrOp? (c : BitVec 2) : Option LdrOp :=
  match c.toNat with
  | 0 => some .add | 1 => some .min | 2 => some .max
  | _ => none

/-- The code of an operation (R368). -/
def LdrOp.code : LdrOp → BitVec 2
  | .add => 0 | .min => 1 | .max => 2

/-- Types of `mc.ldr` (R368). -/
def ldrTy? (c : BitVec 2) : Option LdrTy :=
  match c.toNat with
  | 0 => some .f32 | 1 => some .f16 | 2 => some .bf16
  | _ => none

/-- The code of a type (R368). -/
def LdrTy.code : LdrTy → BitVec 2
  | .f32 => 0 | .f16 => 1 | .bf16 => 2

/-- Widths of `setvl` (R160). -/
def setvlW (c : BitVec 2) : SetvlW :=
  match c.toNat with
  | 0 => .w32 | 1 => .w16 | 2 => .w8 | _ => .w64

/-- The code of a width (R160). -/
def SetvlW.code : SetvlW → BitVec 2
  | .w32 => 0 | .w16 => 1 | .w8 => 2 | .w64 => 3

/-- Kinds of `tlb.inv` (R299). -/
def tlbKind? (c : BitVec 2) : Option TlbKind :=
  match c.toNat with
  | 0 => some .page | 1 => some .pkg | 2 => some .all
  | _ => none

/-- The code of a kind (R299). -/
def TlbKind.code : TlbKind → BitVec 2
  | .page => 0 | .pkg => 1 | .all => 2

/-! ### Prefixes (R66 to R70) -/

/-- The fields of a prefix before a FmtV word. -/
def vpfx (p : Word32) : VPfx :=
  { mask := bits p 24 3, zero := p.getLsbD 23, ta := p.getLsbD 22, tb := p.getLsbD 21, td := p.getLsbD 20
    ty := if p.getLsbD 19 then ety? (bits p 15 4) else none, imm := bits p 0 15 }

/-- The prefix word with these fields. -/
def VPfx.word (p : VPfx) : Word32 :=
  0x1F#5 ++ p.mask ++ bit1 p.zero ++ bit1 p.ta ++ bit1 p.tb ++ bit1 p.td
    ++ (match p.ty with | none => 0#5 | some t => 1#1 ++ t.code) ++ p.imm

/-- The fields of a prefix before a FmtM word, a vector atomic or a memory reduction. -/
def mpfx (p : Word32) : MPfx :=
  { mask := bits p 24 3, zero := p.getLsbD 23, ta := p.getLsbD 22, td := p.getLsbD 20, disp := bits p 0 20 }

/-- The prefix word with these fields. -/
def MPfx.word (p : MPfx) : Word32 :=
  0x1F#5 ++ p.mask ++ bit1 p.zero ++ bit1 p.ta ++ 0#1 ++ bit1 p.td ++ p.disp

/-- Detail 0x04 of a FmtV prefix: a type code without T, a type on a func without one, an immediate part outside VI. -/
def vpfx4 (p : Option Word32) (c : VPClass) : Bool :=
  match p with
  | none => false
  | some p => (!p.getLsbD 19 && bits p 15 4 != 0) || (p.getLsbD 19 && c.types.isNone) || (!c.hasImm && bits p 0 15 != 0)

/-- Detail 0x05 of a FmtV prefix (R67). -/
def vpfx5 (p : Option Word32) (c : VPClass) : Bool :=
  match p with
  | none => false
  | some p =>
    let q := vpfx p
    (q.zero && q.mask == 0) || (q.mask != 0 && !c.maskOk) || (q.zero && !c.zeroOk) || (q.ta && !c.taOk) || (q.tb && !c.tbOk)
      || (q.td && !c.tdOk q.mask q.zero)

/-- Detail 0x06 of a FmtV prefix: a type outside the allowed set (R70). -/
def vpfx6 (p : Option Word32) (c : VPClass) : Bool :=
  match p with
  | none => false
  | some p => p.getLsbD 19 && (match c.types with
    | none => false
    | some s => match ety? (bits p 15 4) with
      | none => true
      | some t => !s.has t)

/-- Detail 0x05 of a prefix before a vector memory instruction (R67, R171). -/
def mpfx5 (p : Option Word32) (c : MPClass) : Bool :=
  match p with
  | none => false
  | some p =>
    let q := mpfx p
    (q.zero && q.mask == 0) || (q.mask != 0 && !c.maskOk) || (q.ta && !c.taOk) || p.getLsbD 21
      || (q.td && !c.tdOk q.mask q.zero)

/-- The answer for a FmtV word of class `c` under its own checks. -/
def verdictV (p : Option Word32) (c : VPClass) (c3 c4 c6 : Bool) (vregs : List (BitVec 6)) (i : Option VPfx → Instr) : Decoded :=
  verdict c3 (c4 || vpfx4 p c) (vpfx5 p c) (c6 || vpfx6 p c) vregs (i (p.map vpfx))

/-- The answer for a vector memory word of class `c`. -/
def verdictM (p : Option Word32) (c : MPClass) (c3 c4 c6 : Bool) (vregs : List (BitVec 6)) (i : Option MPfx → Instr) : Decoded :=
  verdict c3 c4 (mpfx5 p c) c6 vregs (i (p.map mpfx))

/-- The answer for a word that takes no prefix. -/
def verdictS (p : Option Word32) (c3 c4 c6 : Bool) (i : Instr) : Decoded := verdict c3 c4 p.isSome c6 [] i

/-! ### The scalar formats (R59, R60, R74) -/

/-- Major 0x01, SREG. -/
def decSreg (w : Word32) (p : Option Word32) : Decoded :=
  let d := bits w 17 5; let a := bits w 12 5; let b := bits w 7 5; let f := bits w 0 7
  let three (i : Instr) := verdictS p false (f != 0) false i
  let two (i : Instr) := verdictS p false (f != 0 || b != 0) false i
  let wid (i : Instr) := verdictS p false (b != 0) (f == 0 || decide (64 < f.toNat)) i
  match (bits w 22 5).toNat with
  | 0 => three (.add d a b)
  | 1 => three (.sub d a b)
  | 2 => three (.mul d a b)
  | 3 => three (.mulhI d a b)
  | 4 => three (.mulhN d a b)
  | 5 => three (.divI d a b)
  | 6 => three (.divN d a b)
  | 7 => three (.remI d a b)
  | 8 => three (.remN d a b)
  | 9 => three (.and d a b)
  | 10 => three (.or d a b)
  | 11 => three (.xor d a b)
  | 12 => three (.shl d a b)
  | 13 => three (.shr d a b)
  | 14 => three (.sra d a b)
  | 15 => three (.sltI d a b)
  | 16 => three (.sltN d a b)
  | 17 => three (.minI d a b)
  | 18 => three (.maxI d a b)
  | 19 => three (.minN d a b)
  | 20 => three (.maxN d a b)
  | 21 => two (.clz d a)
  | 22 => two (.ctz d a)
  | 23 => two (.popc d a)
  | 24 => wid (.sext d a f)
  | 25 => wid (.zext d a f)
  | _ => unassigned

/-- Major 0x02, SIMM. -/
def decSimm (w : Word32) (p : Option Word32) : Decoded :=
  let d := bits w 19 5; let a := bits w 14 5; let imm := bits w 0 14
  let sh (i : Instr) := verdictS p false (bits w 6 8 != 0) false i
  match (bits w 24 3).toNat with
  | 0 => verdictS p false false false (.addi d a imm)
  | 1 => verdictS p false false false (.andi d a imm)
  | 2 => verdictS p false false false (.ori d a imm)
  | 3 => verdictS p false false false (.xori d a imm)
  | 4 => sh (.shli d a (bits w 0 6))
  | 5 => sh (.shri d a (bits w 0 6))
  | 6 => sh (.srai d a (bits w 0 6))
  | _ => verdictS p false false false (.lui d (bits w 0 19))

/-- Major 0x03, SMEM. -/
def decSmem (w : Word32) (p : Option Word32) : Decoded :=
  let d := bits w 17 5; let a := bits w 12 5; let sc := scope (bits w 10 2); let o := order? (bits w 7 3); let off := bits w 0 7
  let ord := o.getD .wk
  let ld (i : Instr) := verdictS p false (o == some .wk && sc != .core) (o.isNone || o == some .rel) i
  let st (i : Instr) := verdictS p false (o == some .wk && sc != .core) (o.isNone || o == some .acq) i
  match (bits w 22 5).toNat with
  | 0 => ld (.ldI8 d a sc ord off)
  | 1 => ld (.ldI16 d a sc ord off)
  | 2 => ld (.ldI32 d a sc ord off)
  | 3 => ld (.ldI64 d a sc ord off)
  | 4 => ld (.ldN8 d a sc ord off)
  | 5 => ld (.ldN16 d a sc ord off)
  | 6 => ld (.ldN32 d a sc ord off)
  | 8 => st (.st8 d a sc ord off)
  | 9 => st (.st16 d a sc ord off)
  | 10 => st (.st32 d a sc ord off)
  | 11 => st (.st64 d a sc ord off)
  | _ => unassigned

/-- Major 0x04, BR. -/
def decBr (w : Word32) (p : Option Word32) : Decoded :=
  let a := bits w 18 5; let b := bits w 13 5; let off := bits w 0 13
  let bp (i : Instr) := verdictS p false (bits w 21 2 != 0 || b != 0) false i
  match (bits w 23 4).toNat with
  | 0 => verdictS p false false false (.brEq a b off)
  | 1 => verdictS p false false false (.brNe a b off)
  | 2 => verdictS p false false false (.brLt a b off)
  | 3 => verdictS p false false false (.brGe a b off)
  | 4 => verdictS p false false false (.brLtn a b off)
  | 5 => verdictS p false false false (.brGen a b off)
  | 6 => bp (.bpT (bits w 18 3) off)
  | 7 => bp (.bpF (bits w 18 3) off)
  | _ => unassigned

/-- Major 0x05, JMP. -/
def decJmp (w : Word32) (p : Option Word32) : Decoded :=
  match (bits w 25 2).toNat with
  | 0 => verdictS p false false false (.jal (bits w 20 5) (bits w 0 20))
  | 1 => verdictS p false false false (.jalr (bits w 20 5) (bits w 15 5) (bits w 0 15))
  | _ => unassigned

/-- Major 0x06, SFP. -/
def decSfp (w : Word32) (p : Option Word32) : Decoded :=
  let d := bits w 17 5; let a := bits w 12 5; let b := bits w 7 5; let f := bits w 0 7
  let r := rm? (bits w 0 3); let t := cvtTy? (bits w 3 4); let rm := r.getD .rne; let ty := t.getD .i32
  let arith (i : Instr) := verdictS p false (bits w 3 4 != 0) r.isNone i
  let un (i : Instr) := verdictS p false (f != 0 || b != 0) false i
  match (bits w 22 5).toNat with
  | 0 => arith (.fadd d a b rm)
  | 1 => arith (.fsub d a b rm)
  | 2 => arith (.fmul d a b rm)
  | 3 => arith (.fdiv d a b rm)
  | 4 => verdictS p false (bits w 3 4 != 0 || b != 0) r.isNone (.fsqrt d a rm)
  | 5 => arith (.fmacc d a b rm)
  | 6 => verdictS p false (f != 0) false (.fmin d a b)
  | 7 => verdictS p false (f != 0) false (.fmax d a b)
  | 8 => un (.fabs d a)
  | 9 => un (.fneg d a)
  | 10 => verdictS p false (b != 0) (r.isNone || t.isNone) (.fcvtFX d a ty rm)
  | 11 => verdictS p false (b != 0) (r.isNone || t.isNone) (.fcvtXF d a ty rm)
  | 12 => un (.fmovX d a)
  | 13 => un (.fmovF d a)
  | 14 => verdictS p false (bits w 20 2 != 0 || bits w 2 5 != 0) false (.fcmp (bits w 17 3) a b (fcond (bits w 0 2)))
  | 15 => un (.fclass d a)
  | _ => unassigned

/-- Major 0x07, PRED. -/
def decPred (w : Word32) (p : Option Word32) : Decoded :=
  let d := bits w 17 3; let a := bits w 12 3; let b := bits w 7 3
  let dr := bits w 20 2 != 0; let ar := bits w 15 2 != 0; let br := bits w 10 2 != 0; let f := bits w 0 7 != 0
  let az := bits w 12 5 != 0; let bz := bits w 7 5 != 0
  match (bits w 22 5).toNat with
  | 0 => verdictS p false (dr || ar || br || f) false (.pand d a b)
  | 1 => verdictS p false (dr || ar || br || f) false (.por d a b)
  | 2 => verdictS p false (dr || ar || br || f) false (.pxor d a b)
  | 3 => verdictS p false (dr || ar || bz || f) false (.pnot d a)
  | 4 => verdictS p false (az || bz || f) false (.ppack (bits w 17 5))
  | 5 => verdictS p false (bits w 17 5 != 0 || bz || f) false (.punpk (bits w 12 5))
  | 6 => verdictS p false (dr || az || bz || bits w 1 6 != 0) false (.pset d (w.getLsbD 0))
  | _ => unassigned

/-! ### FmtV (R59, R63 to R65, R72) -/

/-- Field b of a FmtV word in its form, with its detail 0x03, its detail 0x04 and the `v` register it names. -/
def vb (w : Word32) : Option (VB × Bool × Bool × List (BitVec 6)) :=
  let b := bits w 0 7
  match (bits w 25 2).toNat with
  | 0 => some (.vv (vspec b), vres b, false, vnum b)
  | 1 => some (.vs (bits w 0 5), false, bits w 5 2 != 0, [])
  | 2 => some (.vi b, false, false, [])
  | _ => none

/-- Field b of a func that accepts VS and VI only. -/
def xb (w : Word32) : Option (XB × Bool) :=
  match (bits w 25 2).toNat with
  | 1 => some (.vs (bits w 0 5), bits w 5 2 != 0)
  | 2 => some (.vi (bits w 0 7), false)
  | _ => none

/-- A func with operands d, a and b in every form. -/
def vbin (w : Word32) (p : Option Word32) (c : Bool → Bool → VPClass) (i : Option VPfx → VSpec → VSpec → VB → Instr) : Decoded :=
  let d := bits w 14 7; let a := bits w 7 7
  match vb w with
  | none => unassigned
  | some (b, r3, r4, vn) =>
    verdictV p (c b.isVec b.isImm) (vresD d || vres a || r3) r4 false (vnum d ++ vnum a ++ vn)
      (fun q => i q (vspec d) (vspec a) b)

/-- A unary func: VV with b = 0. -/
def vun (w : Word32) (p : Option Word32) (c : VPClass) (i : Option VPfx → VSpec → VSpec → Instr) : Decoded :=
  let d := bits w 14 7; let a := bits w 7 7
  if bits w 25 2 != 0 then unassigned
  else verdictV p c (vresD d || vres a) (bits w 0 7 != 0) false (vnum d ++ vnum a) (fun q => i q (vspec d) (vspec a))

/-- A func with d and a and a VS or VI operand. -/
def vlane (w : Word32) (p : Option Word32) (c : Bool → VPClass) (i : Option VPfx → VSpec → VSpec → XB → Instr) : Decoded :=
  let d := bits w 14 7; let a := bits w 7 7
  match xb w with
  | none => unassigned
  | some (b, r4) =>
    verdictV p (c b.isImm) (vresD d || vres a) r4 (!unsignedOk (p.map vpfx) b) (vnum d ++ vnum a)
      (fun q => i q (vspec d) (vspec a) b)

/-- A reduction or scan: VV with b = 0, or VI with a segment length. -/
def vseg (w : Word32) (p : Option Word32) (c : Bool → VPClass) (i : Option VPfx → VSpec → VSpec → Option (BitVec 7) → Instr) :
    Decoded :=
  let d := bits w 14 7; let a := bits w 7 7; let b := bits w 0 7
  match (bits w 25 2).toNat with
  | 0 => verdictV p (c false) (vresD d || vres a) (b != 0) false (vnum d ++ vnum a) (fun q => i q (vspec d) (vspec a) none)
  | 2 => verdictV p (c true) (vresD d || vres a) false (!segOk (p.map vpfx) (some b)) (vnum d ++ vnum a)
      (fun q => i q (vspec d) (vspec a) (some b))
  | _ => unassigned

/-- A TAN func with an `x` register and no source a. -/
def vtan (w : Word32) (p : Option Word32) (i : Option VPfx → VSpec → Reg → Instr) : Decoded :=
  let d := bits w 14 7
  if bits w 25 2 != 1 then unassigned
  else verdictV p .tanD (vresD d) (bits w 7 7 != 0 || bits w 5 2 != 0) false (vnum d) (fun q => i q (vspec d) (bits w 0 5))

/-- Major 0x08, VFP. -/
def decVfp (w : Word32) (p : Option Word32) : Decoded :=
  match (bits w 21 4).toNat with
  | 0 => vbin w p (.arith .fp) .vfadd
  | 1 => vbin w p (.arith .fp) .vfsub
  | 2 => vbin w p (.arith .fp) .vfmul
  | 3 => vbin w p (.arith .fp) .vfdiv
  | 4 => vbin w p (.arith .fp) .vfmin
  | 5 => vbin w p (.arith .fp) .vfmax
  | 6 => vbin w p (.arith .fp) .vfcopysign
  | _ => unassigned

/-- Major 0x09, VFMA. -/
def decVfma (w : Word32) (p : Option Word32) : Decoded :=
  match (bits w 21 4).toNat with
  | 0 => vbin w p .fma .vfaddp
  | 1 => vbin w p .fma .vfnaddp
  | 2 => vbin w p .fma .vfsubd
  | 3 => vbin w p .fma .vfsubp
  | _ => unassigned

/-- Major 0x0A, VFUN. -/
def decVfun (w : Word32) (p : Option Word32) : Decoded :=
  match (bits w 21 4).toNat with
  | 0 => vun w p (.arith .fp false false) .vfsqrt
  | 1 => vun w p (.arith .fp false false) .vfrsqrt
  | 2 => vun w p (.arith .fp false false) .vfrecip
  | 3 => vun w p (.arith .fp false false) .vfexp2
  | 4 => vun w p (.arith .fp false false) .vflog2
  | 5 => vun w p (.arith .fp false false) .vftanh
  | 6 => vun w p (.arith .fp false false) .vfsig
  | 7 => vun w p (.arith .fp false false) .vfrelu
  | 8 => vun w p (.arith .fp false false) .vfabs
  | 9 => vun w p (.arith .fp false false) .vfneg
  | 10 =>
    let d := bits w 14 7; let a := bits w 7 7; let r := rm? (bits w 0 3)
    if bits w 25 2 != 0 then unassigned
    else verdictV p (.arith .fp false false) (vresD d || vres a) (bits w 3 4 != 0) r.isNone (vnum d ++ vnum a)
      (fun q => .vfround q (vspec d) (vspec a) (r.getD .rne))
  | _ => unassigned

/-- Major 0x0B, VINT. -/
def decVint (w : Word32) (p : Option Word32) : Decoded :=
  match (bits w 21 4).toNat with
  | 0 => vbin w p (.arith .int) .vadd
  | 1 => vbin w p (.arith .int) .vsub
  | 2 => vbin w p (.arith .int) .vmul
  | 3 => vbin w p (.arith .int) .vmulh
  | 4 => vbin w p (.arith .int) .vand
  | 5 => vbin w p (.arith .int) .vor
  | 6 => vbin w p (.arith .int) .vxor
  | 7 => vbin w p (.arith .int) .vshl
  | 8 => vbin w p (.arith .int) .vshr
  | 9 => vbin w p (.arith .int) .vsra
  | 10 => vbin w p (.arith .int) .vmin
  | 11 => vbin w p (.arith .int) .vmax
  | 12 =>
    let d := bits w 14 7
    if bits w 25 2 != 0 then unassigned
    else verdictV p .iota (vresD d) (bits w 7 7 != 0 || bits w 0 7 != 0) false (vnum d) (fun q => .viota q (vspec d))
  | _ => unassigned

/-- Major 0x0C, VCMP (R146, R147). -/
def decVcmp (w : Word32) (p : Option Word32) : Decoded :=
  let a := bits w 7 7; let b := bits w 0 7; let kd := bits w 14 3; let form := bits w 25 2
  let kdr := bits w 17 4 != 0; let xdr := bits w 19 2 != 0; let kar := bits w 10 4 != 0; let kbr := bits w 3 4 != 0
  let ka := bits w 7 3; let xd := bits w 14 5
  match (bits w 21 4).toNat with
  | 0 => match vb w with
    | none => unassigned
    | some (b, r3, r4, vn) =>
      let c := vfcond? (bits w 17 4)
      verdictV p (.cmp .fp b.isVec b.isImm) (kd == 0 || vres a || r3) r4 c.isNone (vnum a ++ vn)
        (fun q => .vfcmp q (c.getD .eq) kd (vspec a) b)
  | 1 => match vb w with
    | none => unassigned
    | some (b, r3, r4, vn) =>
      let c := vcond? (bits w 17 4)
      verdictV p (.cmp .int b.isVec b.isImm) (kd == 0 || vres a || r3) r4 c.isNone (vnum a ++ vn)
        (fun q => .vcmp q (c.getD .eq) kd (vspec a) b)
  | 2 => if form != 0 then unassigned
    else verdictV p .bare (kd == 0) (kdr || kar || kbr) false [] (fun q => .kand q kd ka (bits w 0 3))
  | 3 => if form != 0 then unassigned
    else verdictV p .bare (kd == 0) (kdr || kar || kbr) false [] (fun q => .kor q kd ka (bits w 0 3))
  | 4 => if form != 0 then unassigned
    else verdictV p .bare (kd == 0) (kdr || kar || kbr) false [] (fun q => .kxor q kd ka (bits w 0 3))
  | 5 => if form != 0 then unassigned
    else verdictV p .bare (kd == 0) (kdr || kar || b != 0) false [] (fun q => .knot q kd ka)
  | 6 => if form != 0 then unassigned
    else verdictV p .bare false (xdr || kar || b != 0) false [] (fun q => .kpop q xd ka)
  | 7 => if form != 0 then unassigned
    else verdictV p .bare false (xdr || kar || b != 0) false [] (fun q => .kfirst q xd ka)
  | 8 => if form != 0 then unassigned
    else verdictV p .bare false (xdr || kar || bits w 5 2 != 0) false [] (fun q => .kmovX q xd ka (bits w 0 5))
  | 9 => if form != 0 then unassigned
    else if w.getLsbD 0 then
      verdictV p .bare (vresD (bits w 14 7)) (kar || bits w 1 6 != 0) false (vnum (bits w 14 7))
        (fun q => .kmovKVector q (vspec (bits w 14 7)) ka)
    else verdictV p .bare (kd == 0 || vres a) (kdr || bits w 1 6 != 0) false (vnum a) (fun q => .kmovKMask q kd (vspec a))
  | _ => unassigned

/-- Major 0x0D, VCVT (R125, R126). -/
def decVcvt (w : Word32) (p : Option Word32) : Decoded :=
  let d := bits w 14 7; let a := bits w 7 7
  let t := ety? (bits w 21 4); let s := ety? (bits w 3 4); let r := rm? (bits w 0 3)
  if bits w 25 2 != 0 then unassigned
  else verdictV p .untyped (vresD d || vres a) false
    (r.isNone || (match t, s with
      | some t, some s => !(t.cvtOk && s.cvtOk && t != s)
      | _, _ => true)) (vnum d ++ vnum a)
    (fun q => .vcvt q (t.getD .f32) (vspec d) (vspec a) (s.getD .f16) (r.getD .rne))

/-- Major 0x0E, XLANE (R129 to R132). -/
def decXlane (w : Word32) (p : Option Word32) : Decoded :=
  match (bits w 21 4).toNat with
  | 0 => vseg w p .reduce .vsumO
  | 1 => vseg w p .reduce .vsumF
  | 2 => vseg w p .reduce .vmaxr
  | 3 => vseg w p .reduce .vminr
  | 4 => vseg w p (.arith .any false) .vscanO
  | 5 =>
    let d := bits w 14 7; let a := bits w 7 7; let b := bits w 0 7
    if bits w 25 2 != 0 then unassigned
    else verdictV p (.arith .any true false) (vresD d || vres a || vres b) false false (vnum d ++ vnum a ++ vnum b)
      (fun q => .vperm q (vspec d) (vspec a) (vspec b))
  | 6 => vlane w p (.arith .any false) .vslideup
  | 7 => vlane w p (.arith .any false) .vslidedn
  | 8 => vun w p .compress .vcompress
  | 9 => vun w p (.arith .any false false) .vexpand
  | 10 => vlane w p (.arith .any false) .vbcast
  | 11 => vun w p (.arith .any false false) .vmov
  | 12 =>
    let d := bits w 14 7
    match xb w with
    | none => unassigned
    | some (b, r4) => verdictV p (.splat b.isImm) (vresD d) (r4 || bits w 7 7 != 0) false (vnum d) (fun q => .vsplat q (vspec d) b)
  | _ => unassigned

/-- Major 0x0F, TAN (R133). -/
def decTan (w : Word32) (p : Option Word32) : Decoded :=
  match (bits w 21 4).toNat with
  | 0 => vtan w p .dseedRad
  | 1 => vun w p (.arith .fp false false) .dzero
  | 2 => vlane w p (.arith .fp false) .dget
  | 3 => vlane w p .put .dput
  | 4 => vtan w p .dmask
  | _ => unassigned

/-! ### FmtM (R59, R73, R170, R275) -/

/-- The element type of a vector memory access outside mode 4, which is not lns6 (R73). -/
def memTy (w : Word32) : Option ETy :=
  match ety? (bits w 20 4) with
  | some .lns6 => none
  | t => t

/-- Major 0x10, VLD. -/
def decVld (w : Word32) (p : Option Word32) : Decoded :=
  let v := bits w 13 7; let r := bits w 8 5; let x := bits w 1 5; let loc := w.getLsbD 0
  let bnd := w.getLsbD 7; let ff := w.getLsbD 6; let t := memTy w; let ty := t.getD .f32
  match (bits w 24 3).toNat with
  | 0 => verdictM p .load (vresM v) (x != 0) t.isNone (vnum v) (fun q => .vld q ty (vspec v) r bnd ff loc)
  | 1 => verdictM p .load (vresM v) false t.isNone (vnum v) (fun q => .vldS q ty (vspec v) r bnd ff x loc)
  | 2 => verdictM p .load (vresM v) false (t.isNone || decide (29 < x.toNat)) (vnum v)
      (fun q => .vld2d q ty (vspec v) r bnd ff x loc)
  | 3 => verdictM p .loadX (vresM v) false t.isNone (vnum v ++ [bits w 1 6])
      (fun q => .vldX q ty (vspec v) r bnd (bits w 1 6) loc)
  | 4 => verdictM p .plain (vresM v) bnd (bits w 20 4 != 3) (vnum v) (fun q => .vldQ q (vspec v) r ff x loc)
  | 5 => verdictM p .plain (v.getLsbD 6 || decide (64 ≤ v.toNat + (bits w 20 4).toNat)) false false
      (vnum v ++ vnum (v + (0#3 ++ bits w 20 4)))
      (fun q => .vrs q (bits w 20 4) (bits w 13 6) r (bits w 1 7) loc)
  | _ => unassigned

/-- Major 0x11, VST. -/
def decVst (w : Word32) (p : Option Word32) : Decoded :=
  let v := bits w 13 7; let r := bits w 8 5; let x := bits w 1 5; let loc := w.getLsbD 0
  let bnd := w.getLsbD 7; let s5 := w.getLsbD 6; let t := memTy w; let ty := t.getD .f32
  match (bits w 24 3).toNat with
  | 0 => verdictM p .store (vresM v) (s5 || x != 0) t.isNone (vnum v) (fun q => .vst q ty (vspec v) r bnd loc)
  | 1 => verdictM p .store (vresM v) s5 t.isNone (vnum v) (fun q => .vstS q ty (vspec v) r bnd x loc)
  | 2 => verdictM p .store (vresM v) s5 (t.isNone || decide (29 < x.toNat)) (vnum v)
      (fun q => .vst2d q ty (vspec v) r bnd x loc)
  | 3 => verdictM p .indexed (vresM v) false t.isNone (vnum v ++ [bits w 1 6])
      (fun q => .vstX q ty (vspec v) r bnd (bits w 1 6) loc)
  | 4 => verdictM p .storeQ (vresM v) s5 (bits w 20 4 != 3) (vnum v) (fun q => .vstQ q (vspec v) r bnd x loc)
  | 5 => verdictM p .plain (v.getLsbD 6 || decide (64 ≤ v.toNat + (bits w 20 4).toNat)) false false
      (vnum v ++ vnum (v + (0#3 ++ bits w 20 4)))
      (fun q => .vsv q (bits w 20 4) (bits w 13 6) r (bits w 1 7) loc)
  | _ => unassigned

/-! ### FmtC (R59, R72) -/

/-- Vector atomics and memory reductions (R250). -/
def vatom (w : Word32) (p : Option Word32)
    (i : Option MPfx → BitVec 6 → BitVec 6 → Reg → VAmoTy → Bool → Instr) : Decoded :=
  let t := vamoTy? (bits w 1 3)
  verdictM p .indexed false false t.isNone [bits w 15 6, bits w 9 6]
    (fun q => i q (bits w 15 6) (bits w 9 6) (bits w 4 5) (t.getD .i32) (w.getLsbD 0))

/-- `vamo.cas` (R250, R251): when it is illegal for another reason, `v`(d + 1) counts among the registers that it names, and `v64`
is none. -/
def vcas (w : Word32) (p : Option Word32) : Decoded :=
  let d : BitVec 6 := bits w 15 6
  match vatom w p .vamoCas with
  | .ok i => .ok i
  | .illegal x l => if d == 63 then .illegal 3 l else .illegal x ((d + 1) :: l)

/-- Scalar atomics (R255). -/
def satom (w : Word32) (p : Option Word32) (i : Reg → Reg → Reg → AmoTy → AmoOrd → Scope → Instr) : Decoded :=
  verdictS p false false false
    (i (bits w 16 5) (bits w 11 5) (bits w 6 5) (amoTy (bits w 4 2)) (amoOrd (bits w 2 2)) (scope (bits w 0 2)))

/-- Major 0x12, AMO. -/
def decAmo (w : Word32) (p : Option Word32) : Decoded :=
  match (bits w 21 6).toNat with
  | 0 => vatom w p .vamoAdd
  | 1 => vatom w p .vamoMin
  | 2 => vatom w p .vamoMax
  | 3 => vatom w p .vamoSwap
  | 4 => vcas w p
  | 8 => satom w p .amoAdd
  | 9 => satom w p .amoMin
  | 10 => satom w p .amoMax
  | 11 => satom w p .amoSwap
  | 12 => satom w p .amoCas
  | _ => unassigned

/-- Major 0x13, MRED. -/
def decMred (w : Word32) (p : Option Word32) : Decoded :=
  match (bits w 21 6).toNat with
  | 0 => vatom w p .mredAdd
  | 1 => vatom w p .mredMin
  | 2 => vatom w p .mredMax
  | _ => unassigned

/-- `mx.step` and `mx.stepf` (R209). -/
def decStep (w : Word32) (p : Option Word32) (i : BitVec 3 → Reg → BitVec 4 → BitVec 7 → MxTy → Instr) : Decoded :=
  let d := bits w 2 7
  verdictS p false false (d == 0 || decide (96 < d.toNat))
    (i (bits w 18 3) (bits w 13 5) (bits w 9 4) d (mxTy (bits w 0 2)))

/-- Major 0x14, MX (R209). -/
def decMx (w : Word32) (p : Option Word32) : Decoded :=
  let r := bits w 14 7; let c := bits w 7 7; let v := bits w 14 7; let va := bits w 11 7
  match (bits w 21 6).toNat with
  | 0 => verdictS p false (bits w 0 6 != 0) (r == 0 || decide (96 < r.toNat) || c == 0 || decide (96 < c.toNat))
      (.mxCfg r c (w.getLsbD 6))
  | 1 => verdictS p false (bits w 0 16 != 0) (decide (7 < (bits w 18 3).toNat + tileWidth (bits w 16 2)))
      (.mxZero (bits w 18 3) (bits w 16 2))
  | 2 => verdictS p false (bits w 2 4 != 0 || (bits w 0 2 != 3 && bits w 6 5 != 0)) false
      (.mxLdw (bits w 16 5) (bits w 11 5) (bits w 6 5) (mxTy (bits w 0 2)))
  | 3 => if w.getLsbD 11 then verdictS p false (bits w 16 5 != 0 || bits w 12 4 != 0 || bits w 0 11 != 0) false .mxSeedwClr
    else verdictS p false (bits w 0 11 != 0) false (.mxSeedw (bits w 16 5) (bits w 12 4))
  | 4 => decStep w p .mxStep
  | 5 => decStep w p .mxStepf
  | 6 => verdictS p false (bits w 0 21 != 0) false .mxCommit
  | 7 => verdictS p false (bits w 5 16 != 0) (decide (16 < (bits w 0 5).toNat)) (.mxWait (bits w 0 5))
  | 8 => verdict (vresM v) (bits w 0 5 != 0) p.isSome false (vnum v)
      (.mxRd (vspec v) (bits w 11 3) (w.getLsbD 10) (bits w 5 5))
  | 9 => verdict (vres va) (bits w 0 5 != 0) p.isSome false (vnum va)
      (.mxWr (bits w 18 3) (vspec va) (bits w 6 5) (w.getLsbD 5))
  | _ => unassigned

/-- Major 0x15, CP (R224). -/
def decCp (w : Word32) (p : Option Word32) : Decoded :=
  let a := bits w 16 5
  match (bits w 21 6).toNat with
  | 0 => verdictS p false (bits w 0 16 != 0) false (.cpNd a)
  | 1 => verdictS p false (bits w 0 1 != 0) false (.cpLin a (bits w 11 5) (bits w 6 5) (bits w 1 5))
  | 2 => if w.getLsbD 4 then verdictS p false (bits w 5 16 != 0) (bits w 0 4 == 0) (.qFenceW (bits w 0 4))
    else verdictS p false (bits w 5 16 != 0) (bits w 0 4 == 0) (.qFence (bits w 0 4))
  | 3 => verdictS p false (bits w 2 14 != 0) (w.getLsbD 1) (.cpStat a (w.getLsbD 0))
  | _ => unassigned

/-- Major 0x16, SYNC (R259, R264 to R266). -/
def decSync (w : Word32) (p : Option Word32) : Decoded :=
  let a := bits w 16 5; let b := bits w 11 5
  match (bits w 21 6).toNat with
  | 0 =>
    let k := fenceKind? (bits w 2 2)
    verdictS p false (bits w 4 17 != 0) k.isNone (.fence (k.getD .full) (scope (bits w 0 2)))
  | 1 => verdictS p false (bits w 2 9 != 0) false (.barInit a b (scope (bits w 0 2)))
  | 2 => verdictS p false (bits w 1 10 != 0) false (.barArr a b (w.getLsbD 0))
  | 3 => verdictS p false (bits w 0 11 != 0) false (.barWait a b)
  | 4 => verdictS p false (bits w 0 6 != 0) false (.barTest a b (bits w 6 5))
  | 5 =>
    let c := wcond? (bits w 0 2)
    verdictS p false (bits w 4 7 != 0) c.isNone (.waita a b (scope (bits w 2 2)) (c.getD .eq))
  | 6 => verdictS p false (bits w 0 11 != 0) false (.nodeSub a b)
  | _ => unassigned

/-- Major 0x17, LOOP (R152, R156). `m` is the second word of `repf`, its stage map. -/
def decLoop (w : Word32) (p : Option Word32) (m : Word32) : Decoded :=
  let a := bits w 16 5
  match (bits w 21 6).toNat with
  | 0 => verdictS p false false (bits w 0 16 == 0) (.loop a (bits w 0 16))
  | 1 => verdictS p false (bits w 0 21 != 0) false .brkl
  | 2 => verdictS p false (bits w 3 13 != 0) (decide (5 < (bits w 0 3).toNat)) (.lidx a (bits w 0 3))
  | 3 => verdictS p false (bits w 0 3 != 0 || !mapOk (bits w 12 4) m) (bits w 3 3 == 7)
      (.repf a (bits w 12 4) (bits w 10 2) (bits w 8 2) (bits w 6 2) (bits w 3 3) m)
  | _ => unassigned

/-- Major 0x18, ITIN (R333). -/
def decItin (w : Word32) (p : Option Word32) : Decoded :=
  let a := bits w 16 5; let b := bits w 11 5
  match (bits w 21 6).toNat with
  | 0 => verdictS p false (bits w 0 16 != 0) false (.mile a)
  | 1 => verdictS p false (bits w 0 11 != 0) false (.itBind a b)
  | 2 => verdictS p false (bits w 0 16 != 0) false (.itWait a)
  | 3 => verdictS p false (bits w 0 11 != 0) false (.itStat a b)
  | _ => unassigned

/-- Major 0x19, CLAIM (R395). -/
def decClaim (w : Word32) (p : Option Word32) : Decoded :=
  let a := bits w 16 5; let b := bits w 11 5; let g := bits w 0 4
  match (bits w 21 6).toNat with
  | 0 => verdictS p false (bits w 4 2 != 0) false (.clProp a b (bits w 6 5) g)
  | 1 => verdictS p false (bits w 4 12 != 0) false (.clObj a g)
  | 2 => verdictS p false (bits w 4 7 != 0) false (.clWait a b g)
  | 3 => verdictS p false (bits w 6 5 != 0) (w.getLsbD 5) (.clStat a b (w.getLsbD 4) g)
  | 4 => verdictS p false (bits w 4 12 != 0) false (.clHold a g)
  | 5 => verdictS p false (bits w 4 12 != 0) false (.clFree a g)
  | _ => unassigned

/-- Major 0x1A, FAB (R368). -/
def decFab (w : Word32) (p : Option Word32) : Decoded :=
  let a := bits w 16 5; let b := bits w 11 5
  match (bits w 21 6).toNat with
  | 0 => verdictS p (a == 31) (w.getLsbD 5) false (.mcSt a b (bits w 6 5) (bits w 0 5))
  | 1 =>
    let v := bits w 14 7; let g := bits w 4 5; let op := ldrOp? (bits w 2 2); let t := ldrTy? (bits w 0 2)
    verdict (v.getLsbD 6 || g == 31) false p.isSome (op.isNone || t.isNone) (vnum v)
      (.mcLdr (bits w 14 6) (bits w 9 5) g (op.getD .add) (t.getD .f32))
  | 2 => verdictS p false (bits w 0 6 != 0) false (.tokSet a b (bits w 6 5))
  | 3 => verdictS p false (bits w 0 16 != 0) false (.tokClr a)
  | 4 => verdictS p false (bits w 2 14 != 0) false (.fabStat a (bits w 0 2))
  | _ => unassigned

/-- Major 0x1B, OPT (R191). -/
def decOpt (w : Word32) (p : Option Word32) : Decoded :=
  let a := bits w 16 5; let b := bits w 11 5
  match (bits w 21 6).toNat with
  | 0 => verdictS p false (bits w 0 16 != 0) false (.optCard a)
  | 1 => verdictS p false (bits w 7 14 != 0) (decide (64 < (bits w 0 7).toNat)) (.optWait (bits w 0 7))
  | 2 => verdictS p false (bits w 0 16 != 0) false (.optStep a)
  | 3 => verdictS p false (bits w 2 9 != 0) (bits w 0 2 == 3) (.optStat a b (bits w 0 2))
  | 4 => verdictS p false (bits w 0 11 != 0) false (.optRout a b)
  | _ => unassigned

/-- Major 0x1C, CFG (R160, R274). -/
def decCfg (w : Word32) (p : Option Word32) : Decoded :=
  match (bits w 21 6).toNat with
  | 0 => verdictS p false (bits w 0 9 != 0) false (.setvl (bits w 16 5) (bits w 11 5) (setvlW (bits w 9 2)))
  | 1 => verdictS p false (bits w 0 9 != 0) (!shapeOk (bits w 14 7).toNat (bits w 9 5).toNat)
      (.setshape (bits w 14 7) (bits w 9 5))
  | 2 => verdictS p false (bits w 13 8 != 0) false (.vframe (bits w 0 13))
  | _ => unassigned

/-- Major 0x1D, SYS (R295). -/
def decSys (w : Word32) (p : Option Word32) : Decoded :=
  let a := bits w 16 5; let s := bits w 0 12
  match (bits w 21 6).toNat with
  | 0 => verdictS p false (bits w 12 4 != 0) false (.stread a s)
  | 1 => verdictS p false (bits w 12 4 != 0) false (.stwrite a s)
  | 2 => verdictS p false (bits w 12 4 != 0) false (.stset a s)
  | 3 => verdictS p false (bits w 12 4 != 0) false (.stclr a s)
  | 4 => verdictS p false (bits w 8 13 != 0) false (.inncall (bits w 0 8))
  | 5 => verdictS p false (bits w 8 13 != 0) false (.dbgtrap (bits w 0 8))
  | 6 => verdictS p false (bits w 0 21 != 0) false .eret
  | 7 =>
    let k := tlbKind? (bits w 0 2)
    verdictS p false (bits w 2 14 != 0) k.isNone (.tlbInv a (k.getD .page))
  | 8 => verdictS p false (bits w 0 21 != 0) false .halt
  | _ => unassigned

/-! ### Whole instructions -/

/-- The major opcode (R58). -/
abbrev major (w : Word32) : BitVec 5 := bits w 27 5

/-- The word after the prefix, if any, by its major (R72). `m` is the word that follows it, the stage map of `repf`. -/
def decodeBody (w : Word32) (p : Option Word32) (m : Word32) : Decoded :=
  match (major w).toNat with
  | 0x00 => .illegal 1 []
  | 0x01 => decSreg w p
  | 0x02 => decSimm w p
  | 0x03 => decSmem w p
  | 0x04 => decBr w p
  | 0x05 => decJmp w p
  | 0x06 => decSfp w p
  | 0x07 => decPred w p
  | 0x08 => decVfp w p
  | 0x09 => decVfma w p
  | 0x0A => decVfun w p
  | 0x0B => decVint w p
  | 0x0C => decVcmp w p
  | 0x0D => decVcvt w p
  | 0x0E => decXlane w p
  | 0x0F => decTan w p
  | 0x10 => decVld w p
  | 0x11 => decVst w p
  | 0x12 => decAmo w p
  | 0x13 => decMred w p
  | 0x14 => decMx w p
  | 0x15 => decCp w p
  | 0x16 => decSync w p
  | 0x17 => decLoop w p m
  | 0x18 => decItin w p
  | 0x19 => decClaim w p
  | 0x1A => decFab w p
  | 0x1B => decOpt w p
  | 0x1C => decCfg w p
  | 0x1D => decSys w p
  | 0x1E => .illegal 1 []
  | _ => .illegal 5 []

/-- The word is a prefix (R66). -/
def isPrefix (w : Word32) : Bool := major w == 0x1F

/-- The word is the first word of `repf` (R156). -/
def isRepf (w : Word32) : Bool := major w == 0x17 && bits w 21 6 == 3

/-- The instruction that begins with word `w` reads the word after it as part of itself (R66, R156). -/
def needsSecond (w : Word32) : Bool := isPrefix w || isRepf w

/-- The instruction that begins with `w`, followed in memory by `next`. -/
def decode (w next : Word32) : Decoded :=
  if isPrefix w then decodeBody next (some w) 0 else decodeBody w none next

/-- The prefix word and the instruction word that R75 reports of the words at the PC. -/
def reported (w next : Word32) : Word32 × Option Word32 := if isPrefix w then (next, some w) else (w, none)

/-! ### The encoder, from the same tables -/

/-- FmtS (R59). -/
def mkS (maj func d a b : BitVec 5) (f : BitVec 7) : Word32 := maj ++ func ++ d ++ a ++ b ++ f

/-- FmtSI (R59). -/
def mkSI (func : BitVec 3) (d a : BitVec 5) (imm : BitVec 14) : Word32 := 2#5 ++ func ++ d ++ a ++ imm

/-- FmtB (R59). -/
def mkB (cond : BitVec 4) (a b : BitVec 5) (off : BitVec 13) : Word32 := 4#5 ++ cond ++ a ++ b ++ off

/-- FmtV (R59). -/
def mkV (maj : BitVec 5) (form : BitVec 2) (func : BitVec 4) (d a b : BitVec 7) : Word32 := maj ++ form ++ func ++ d ++ a ++ b

/-- FmtM (R59). -/
def mkM (maj : BitVec 5) (mode : BitVec 3) (func : BitVec 4) (v : BitVec 7) (base : BitVec 5) (s : BitVec 7) (loc : Bool) :
    Word32 :=
  maj ++ mode ++ func ++ v ++ base ++ s ++ bit1 loc

/-- FmtC (R59). -/
def mkC (maj : BitVec 5) (func : BitVec 6) (f : BitVec 21) : Word32 := maj ++ func ++ f

/-- FmtV with its prefix and the b operand in its form. -/
def encV (p : Option VPfx) (w : Word32) : List Word32 :=
  match p with
  | none => [w]
  | some q => [q.word, w]

/-- FmtM, vector atomics and memory reductions with their prefix. -/
def encM (p : Option MPfx) (w : Word32) : List Word32 :=
  match p with
  | none => [w]
  | some q => [q.word, w]

/-- The form field of an operand b (R64). -/
def VB.form : VB → BitVec 2
  | .vv _ => 0 | .vs _ => 1 | .vi _ => 2

/-- The b field of an operand b (R64). -/
def VB.field : VB → BitVec 7
  | .vv s => s.code | .vs r => 0#2 ++ r | .vi i => i

/-- The form field of a VS or VI operand (R64). -/
def XB.form : XB → BitVec 2
  | .vs _ => 1 | .vi _ => 2

/-- The b field of a VS or VI operand (R64). -/
def XB.field : XB → BitVec 7
  | .vs r => 0#2 ++ r | .vi i => i

/-- The form field of a segment length (R130). -/
def segForm (s : Option (BitVec 7)) : BitVec 2 := if s.isSome then 2 else 0

/-- The fields of a scalar memory access (R74). -/
def smemWord (func : BitVec 5) (d a : Reg) (sc : Scope) (ord : Order) (off : BitVec 7) : Word32 :=
  mkS 3 func d a (sc.code ++ ord.code) off

/-- The fields of a vector atomic or memory reduction (R250). -/
def vatomWord (maj : BitVec 5) (func : BitVec 6) (d vi : BitVec 6) (base : Reg) (t : VAmoTy) (loc : Bool) : Word32 :=
  mkC maj func (d ++ vi ++ base ++ t.code ++ bit1 loc)

/-- The fields of a scalar atomic (R255). -/
def satomWord (func : BitVec 6) (d a b : Reg) (t : AmoTy) (ord : AmoOrd) (sc : Scope) : Word32 :=
  mkC 0x12 func (d ++ a ++ b ++ t.code ++ ord.code ++ sc.code)

/-- The words of an instruction, first word first (none for a step without an encoding). -/
def encode : Instr → List Word32
  | .add d a b => [mkS 1 0 d a b 0]
  | .sub d a b => [mkS 1 1 d a b 0]
  | .mul d a b => [mkS 1 2 d a b 0]
  | .mulhI d a b => [mkS 1 3 d a b 0]
  | .mulhN d a b => [mkS 1 4 d a b 0]
  | .divI d a b => [mkS 1 5 d a b 0]
  | .divN d a b => [mkS 1 6 d a b 0]
  | .remI d a b => [mkS 1 7 d a b 0]
  | .remN d a b => [mkS 1 8 d a b 0]
  | .and d a b => [mkS 1 9 d a b 0]
  | .or d a b => [mkS 1 10 d a b 0]
  | .xor d a b => [mkS 1 11 d a b 0]
  | .shl d a b => [mkS 1 12 d a b 0]
  | .shr d a b => [mkS 1 13 d a b 0]
  | .sra d a b => [mkS 1 14 d a b 0]
  | .sltI d a b => [mkS 1 15 d a b 0]
  | .sltN d a b => [mkS 1 16 d a b 0]
  | .minI d a b => [mkS 1 17 d a b 0]
  | .maxI d a b => [mkS 1 18 d a b 0]
  | .minN d a b => [mkS 1 19 d a b 0]
  | .maxN d a b => [mkS 1 20 d a b 0]
  | .clz d a => [mkS 1 21 d a 0 0]
  | .ctz d a => [mkS 1 22 d a 0 0]
  | .popc d a => [mkS 1 23 d a 0 0]
  | .sext d a w => [mkS 1 24 d a 0 w]
  | .zext d a w => [mkS 1 25 d a 0 w]
  | .addi d a imm => [mkSI 0 d a imm]
  | .andi d a imm => [mkSI 1 d a imm]
  | .ori d a imm => [mkSI 2 d a imm]
  | .xori d a imm => [mkSI 3 d a imm]
  | .shli d a sh => [mkSI 4 d a (0#8 ++ sh)]
  | .shri d a sh => [mkSI 5 d a (0#8 ++ sh)]
  | .srai d a sh => [mkSI 6 d a (0#8 ++ sh)]
  | .lui d imm => [2#5 ++ 7#3 ++ d ++ imm]
  | .ldI8 d a sc ord off => [smemWord 0 d a sc ord off]
  | .ldI16 d a sc ord off => [smemWord 1 d a sc ord off]
  | .ldI32 d a sc ord off => [smemWord 2 d a sc ord off]
  | .ldI64 d a sc ord off => [smemWord 3 d a sc ord off]
  | .ldN8 d a sc ord off => [smemWord 4 d a sc ord off]
  | .ldN16 d a sc ord off => [smemWord 5 d a sc ord off]
  | .ldN32 d a sc ord off => [smemWord 6 d a sc ord off]
  | .st8 d a sc ord off => [smemWord 8 d a sc ord off]
  | .st16 d a sc ord off => [smemWord 9 d a sc ord off]
  | .st32 d a sc ord off => [smemWord 10 d a sc ord off]
  | .st64 d a sc ord off => [smemWord 11 d a sc ord off]
  | .brEq a b off => [mkB 0 a b off]
  | .brNe a b off => [mkB 1 a b off]
  | .brLt a b off => [mkB 2 a b off]
  | .brGe a b off => [mkB 3 a b off]
  | .brLtn a b off => [mkB 4 a b off]
  | .brGen a b off => [mkB 5 a b off]
  | .bpT p off => [mkB 6 (0#2 ++ p) 0 off]
  | .bpF p off => [mkB 7 (0#2 ++ p) 0 off]
  | .jal d off => [5#5 ++ 0#2 ++ d ++ off]
  | .jalr d a off => [5#5 ++ 1#2 ++ d ++ a ++ off]
  | .fadd d a b rm => [mkS 6 0 d a b (0#4 ++ rm.code)]
  | .fsub d a b rm => [mkS 6 1 d a b (0#4 ++ rm.code)]
  | .fmul d a b rm => [mkS 6 2 d a b (0#4 ++ rm.code)]
  | .fdiv d a b rm => [mkS 6 3 d a b (0#4 ++ rm.code)]
  | .fsqrt d a rm => [mkS 6 4 d a 0 (0#4 ++ rm.code)]
  | .fmacc d a b rm => [mkS 6 5 d a b (0#4 ++ rm.code)]
  | .fmin d a b => [mkS 6 6 d a b 0]
  | .fmax d a b => [mkS 6 7 d a b 0]
  | .fabs d a => [mkS 6 8 d a 0 0]
  | .fneg d a => [mkS 6 9 d a 0 0]
  | .fcvtFX d a t rm => [mkS 6 10 d a 0 (t.code ++ rm.code)]
  | .fcvtXF d a t rm => [mkS 6 11 d a 0 (t.code ++ rm.code)]
  | .fmovX d a => [mkS 6 12 d a 0 0]
  | .fmovF d a => [mkS 6 13 d a 0 0]
  | .fcmp d a b c => [mkS 6 14 (0#2 ++ d) a b (0#5 ++ c.code)]
  | .fclass d a => [mkS 6 15 d a 0 0]
  | .pand d a b => [mkS 7 0 (0#2 ++ d) (0#2 ++ a) (0#2 ++ b) 0]
  | .por d a b => [mkS 7 1 (0#2 ++ d) (0#2 ++ a) (0#2 ++ b) 0]
  | .pxor d a b => [mkS 7 2 (0#2 ++ d) (0#2 ++ a) (0#2 ++ b) 0]
  | .pnot d a => [mkS 7 3 (0#2 ++ d) (0#2 ++ a) 0 0]
  | .ppack d => [mkS 7 4 d 0 0 0]
  | .punpk a => [mkS 7 5 0 a 0 0]
  | .pset d val => [mkS 7 6 (0#2 ++ d) 0 0 (0#6 ++ bit1 val)]
  | .vfadd p d a b => encV p (mkV 8 b.form 0 d.code a.code b.field)
  | .vfsub p d a b => encV p (mkV 8 b.form 1 d.code a.code b.field)
  | .vfmul p d a b => encV p (mkV 8 b.form 2 d.code a.code b.field)
  | .vfdiv p d a b => encV p (mkV 8 b.form 3 d.code a.code b.field)
  | .vfmin p d a b => encV p (mkV 8 b.form 4 d.code a.code b.field)
  | .vfmax p d a b => encV p (mkV 8 b.form 5 d.code a.code b.field)
  | .vfcopysign p d a b => encV p (mkV 8 b.form 6 d.code a.code b.field)
  | .vfaddp p d a b => encV p (mkV 9 b.form 0 d.code a.code b.field)
  | .vfnaddp p d a b => encV p (mkV 9 b.form 1 d.code a.code b.field)
  | .vfsubd p d a b => encV p (mkV 9 b.form 2 d.code a.code b.field)
  | .vfsubp p d a b => encV p (mkV 9 b.form 3 d.code a.code b.field)
  | .vfsqrt p d a => encV p (mkV 10 0 0 d.code a.code 0)
  | .vfrsqrt p d a => encV p (mkV 10 0 1 d.code a.code 0)
  | .vfrecip p d a => encV p (mkV 10 0 2 d.code a.code 0)
  | .vfexp2 p d a => encV p (mkV 10 0 3 d.code a.code 0)
  | .vflog2 p d a => encV p (mkV 10 0 4 d.code a.code 0)
  | .vftanh p d a => encV p (mkV 10 0 5 d.code a.code 0)
  | .vfsig p d a => encV p (mkV 10 0 6 d.code a.code 0)
  | .vfrelu p d a => encV p (mkV 10 0 7 d.code a.code 0)
  | .vfabs p d a => encV p (mkV 10 0 8 d.code a.code 0)
  | .vfneg p d a => encV p (mkV 10 0 9 d.code a.code 0)
  | .vfround p d a rm => encV p (mkV 10 0 10 d.code a.code (0#4 ++ rm.code))
  | .vadd p d a b => encV p (mkV 11 b.form 0 d.code a.code b.field)
  | .vsub p d a b => encV p (mkV 11 b.form 1 d.code a.code b.field)
  | .vmul p d a b => encV p (mkV 11 b.form 2 d.code a.code b.field)
  | .vmulh p d a b => encV p (mkV 11 b.form 3 d.code a.code b.field)
  | .vand p d a b => encV p (mkV 11 b.form 4 d.code a.code b.field)
  | .vor p d a b => encV p (mkV 11 b.form 5 d.code a.code b.field)
  | .vxor p d a b => encV p (mkV 11 b.form 6 d.code a.code b.field)
  | .vshl p d a b => encV p (mkV 11 b.form 7 d.code a.code b.field)
  | .vshr p d a b => encV p (mkV 11 b.form 8 d.code a.code b.field)
  | .vsra p d a b => encV p (mkV 11 b.form 9 d.code a.code b.field)
  | .vmin p d a b => encV p (mkV 11 b.form 10 d.code a.code b.field)
  | .vmax p d a b => encV p (mkV 11 b.form 11 d.code a.code b.field)
  | .viota p d => encV p (mkV 11 0 12 d.code 0 0)
  | .vfcmp p c kd a b => encV p (mkV 12 b.form 0 (c.code ++ kd) a.code b.field)
  | .vcmp p c kd a b => encV p (mkV 12 b.form 1 (c.code ++ kd) a.code b.field)
  | .kand p d a b => encV p (mkV 12 0 2 (0#4 ++ d) (0#4 ++ a) (0#4 ++ b))
  | .kor p d a b => encV p (mkV 12 0 3 (0#4 ++ d) (0#4 ++ a) (0#4 ++ b))
  | .kxor p d a b => encV p (mkV 12 0 4 (0#4 ++ d) (0#4 ++ a) (0#4 ++ b))
  | .knot p d a => encV p (mkV 12 0 5 (0#4 ++ d) (0#4 ++ a) 0)
  | .kpop p d a => encV p (mkV 12 0 6 (0#2 ++ d) (0#4 ++ a) 0)
  | .kfirst p d a => encV p (mkV 12 0 7 (0#2 ++ d) (0#4 ++ a) 0)
  | .kmovX p d a b => encV p (mkV 12 0 8 (0#2 ++ d) (0#4 ++ a) (0#2 ++ b))
  | .kmovKMask p d a => encV p (mkV 12 0 9 (0#4 ++ d) a.code 0)
  | .kmovKVector p d a => encV p (mkV 12 0 9 d.code (0#4 ++ a) 1)
  | .vcvt p t d a src rm => encV p (mkV 13 0 t.code d.code a.code (src.code ++ rm.code))
  | .vsumO p d a seg => encV p (mkV 14 (segForm seg) 0 d.code a.code (seg.getD 0))
  | .vsumF p d a seg => encV p (mkV 14 (segForm seg) 1 d.code a.code (seg.getD 0))
  | .vmaxr p d a seg => encV p (mkV 14 (segForm seg) 2 d.code a.code (seg.getD 0))
  | .vminr p d a seg => encV p (mkV 14 (segForm seg) 3 d.code a.code (seg.getD 0))
  | .vscanO p d a seg => encV p (mkV 14 (segForm seg) 4 d.code a.code (seg.getD 0))
  | .vperm p d a b => encV p (mkV 14 0 5 d.code a.code b.code)
  | .vslideup p d a b => encV p (mkV 14 b.form 6 d.code a.code b.field)
  | .vslidedn p d a b => encV p (mkV 14 b.form 7 d.code a.code b.field)
  | .vcompress p d a => encV p (mkV 14 0 8 d.code a.code 0)
  | .vexpand p d a => encV p (mkV 14 0 9 d.code a.code 0)
  | .vbcast p d a b => encV p (mkV 14 b.form 10 d.code a.code b.field)
  | .vmov p d a => encV p (mkV 14 0 11 d.code a.code 0)
  | .vsplat p d b => encV p (mkV 14 b.form 12 d.code 0 b.field)
  | .dseedRad p d x => encV p (mkV 15 1 0 d.code 0 (0#2 ++ x))
  | .dzero p d a => encV p (mkV 15 0 1 d.code a.code 0)
  | .dget p d a b => encV p (mkV 15 b.form 2 d.code a.code b.field)
  | .dput p d a b => encV p (mkV 15 b.form 3 d.code a.code b.field)
  | .dmask p d x => encV p (mkV 15 1 4 d.code 0 (0#2 ++ x))
  | .vld p t v base bnd ff loc => encM p (mkM 16 0 t.code v.code base (bit1 bnd ++ bit1 ff ++ 0#5) loc)
  | .vldS p t v base bnd ff xs loc => encM p (mkM 16 1 t.code v.code base (bit1 bnd ++ bit1 ff ++ xs) loc)
  | .vld2d p t v base bnd ff xs loc => encM p (mkM 16 2 t.code v.code base (bit1 bnd ++ bit1 ff ++ xs) loc)
  | .vldX p t v base bnd vi loc => encM p (mkM 16 3 t.code v.code base (bit1 bnd ++ vi) loc)
  | .vldQ p v base ff xs loc => encM p (mkM 16 4 3 v.code base (0#1 ++ bit1 ff ++ xs) loc)
  | .vrs p count v base slot loc => encM p (mkM 16 5 count (0#1 ++ v) base slot loc)
  | .vst p t v base bnd loc => encM p (mkM 17 0 t.code v.code base (bit1 bnd ++ 0#6) loc)
  | .vstS p t v base bnd xs loc => encM p (mkM 17 1 t.code v.code base (bit1 bnd ++ 0#1 ++ xs) loc)
  | .vst2d p t v base bnd xs loc => encM p (mkM 17 2 t.code v.code base (bit1 bnd ++ 0#1 ++ xs) loc)
  | .vstX p t v base bnd vi loc => encM p (mkM 17 3 t.code v.code base (bit1 bnd ++ vi) loc)
  | .vstQ p v base val xs loc => encM p (mkM 17 4 3 v.code base (bit1 val ++ 0#1 ++ xs) loc)
  | .vsv p count v base slot loc => encM p (mkM 17 5 count (0#1 ++ v) base slot loc)
  | .vamoAdd p d vi base t loc => encM p (vatomWord 0x12 0 d vi base t loc)
  | .vamoMin p d vi base t loc => encM p (vatomWord 0x12 1 d vi base t loc)
  | .vamoMax p d vi base t loc => encM p (vatomWord 0x12 2 d vi base t loc)
  | .vamoSwap p d vi base t loc => encM p (vatomWord 0x12 3 d vi base t loc)
  | .vamoCas p d vi base t loc => encM p (vatomWord 0x12 4 d vi base t loc)
  | .amoAdd d a b t ord sc => [satomWord 8 d a b t ord sc]
  | .amoMin d a b t ord sc => [satomWord 9 d a b t ord sc]
  | .amoMax d a b t ord sc => [satomWord 10 d a b t ord sc]
  | .amoSwap d a b t ord sc => [satomWord 11 d a b t ord sc]
  | .amoCas d a b t ord sc => [satomWord 12 d a b t ord sc]
  | .mredAdd p d vi base t loc => encM p (vatomWord 0x13 0 d vi base t loc)
  | .mredMin p d vi base t loc => encM p (vatomWord 0x13 1 d vi base t loc)
  | .mredMax p d vi base t loc => encM p (vatomWord 0x13 2 d vi base t loc)
  | .mxCfg rows cols img => [mkC 20 0 (rows ++ cols ++ bit1 img ++ 0#6)]
  | .mxZero t b => [mkC 20 1 (t ++ b ++ 0#16)]
  | .mxLdw k b s t => [mkC 20 2 (k ++ b ++ s ++ 0#4 ++ t.code)]
  | .mxSeedw j off => [mkC 20 3 (j ++ off ++ 0#12)]
  | .mxSeedwClr => [mkC 20 3 (0x800#21)]
  | .mxStep t a k d ty => [mkC 20 4 (t ++ a ++ k ++ d ++ ty.code)]
  | .mxStepf t a k d ty => [mkC 20 5 (t ++ a ++ k ++ d ++ ty.code)]
  | .mxCommit => [mkC 20 6 (0)]
  | .mxWait n => [mkC 20 7 (0#16 ++ n)]
  | .mxRd v t ta r => [mkC 20 8 (v.code ++ t ++ bit1 ta ++ r ++ 0#5)]
  | .mxWr t v r ta => [mkC 20 9 (t ++ v.code ++ r ++ bit1 ta ++ 0#5)]
  | .cpNd w => [mkC 21 0 (w ++ 0#16)]
  | .cpLin d s n c => [mkC 21 1 (d ++ s ++ n ++ c ++ 0#1)]
  | .qFence mask => [mkC 21 2 (0#17 ++ mask)]
  | .qFenceW mask => [mkC 21 2 (1#17 ++ mask)]
  | .cpStat d sel => [mkC 21 3 (d ++ 0#15 ++ bit1 sel)]
  | .fence kind sc => [mkC 22 0 (0#17 ++ kind.code ++ sc.code)]
  | .barInit b n sc => [mkC 22 1 (b ++ n ++ 0#9 ++ sc.code)]
  | .barArr d b rlx => [mkC 22 2 (d ++ b ++ 0#10 ++ bit1 rlx)]
  | .barWait b t => [mkC 22 3 (b ++ t ++ 0#11)]
  | .barTest d b t => [mkC 22 4 (d ++ b ++ t ++ 0#6)]
  | .waita a b sc c => [mkC 22 5 (a ++ b ++ 0#7 ++ sc.code ++ c.code)]
  | .nodeSub d r => [mkC 22 6 (d ++ r ++ 0#11)]
  | .loop c n => [mkC 23 0 (c ++ n)]
  | .brkl => [mkC 23 1 (0)]
  | .lidx d level => [mkC 23 2 (d ++ 0#13 ++ level)]
  | .repf c m sd sa sb wz map => [mkC 23 3 (c ++ m ++ sd ++ sa ++ sb ++ wz ++ 0#3), map]
  | .mile a => [mkC 24 0 (a ++ 0#16)]
  | .itBind a n => [mkC 24 1 (a ++ n ++ 0#11)]
  | .itWait i => [mkC 24 2 (i ++ 0#16)]
  | .itStat d i => [mkC 24 3 (d ++ i ++ 0#11)]
  | .clProp h key val g => [mkC 25 0 (h ++ key ++ val ++ 0#2 ++ g)]
  | .clObj h g => [mkC 25 1 (h ++ 0#12 ++ g)]
  | .clWait d h g => [mkC 25 2 (d ++ h ++ 0#7 ++ g)]
  | .clStat d h sel g => [mkC 25 3 (d ++ h ++ 0#6 ++ bit1 sel ++ g)]
  | .clHold key g => [mkC 25 4 (key ++ 0#12 ++ g)]
  | .clFree key g => [mkC 25 5 (key ++ 0#12 ++ g)]
  | .mcSt g a k lenc => [mkC 26 0 (g ++ a ++ k ++ 0#1 ++ lenc)]
  | .mcLdr v s g op t => [mkC 26 1 (0#1 ++ v ++ s ++ g ++ op.code ++ t.code)]
  | .tokSet i t w => [mkC 26 2 (i ++ t ++ w ++ 0#6)]
  | .tokClr i => [mkC 26 3 (i ++ 0#16)]
  | .fabStat d sel => [mkC 26 4 (d ++ 0#14 ++ sel)]
  | .optCard c => [mkC 27 0 (c ++ 0#16)]
  | .optWait n => [mkC 27 1 (0#14 ++ n)]
  | .optStep c => [mkC 27 2 (c ++ 0#16)]
  | .optStat d s sel => [mkC 27 3 (d ++ s ++ 0#9 ++ sel)]
  | .optRout i a => [mkC 27 4 (i ++ a ++ 0#11)]
  | .setvl d a w => [mkC 28 0 (d ++ a ++ w.code ++ 0#9)]
  | .setshape n k => [mkC 28 1 (n ++ k ++ 0#9)]
  | .vframe n => [mkC 28 2 (0#8 ++ n)]
  | .stread d sreg => [mkC 29 0 (d ++ 0#4 ++ sreg)]
  | .stwrite a sreg => [mkC 29 1 (a ++ 0#4 ++ sreg)]
  | .stset a sreg => [mkC 29 2 (a ++ 0#4 ++ sreg)]
  | .stclr a sreg => [mkC 29 3 (a ++ 0#4 ++ sreg)]
  | .inncall n => [mkC 29 4 (0#13 ++ n)]
  | .dbgtrap n => [mkC 29 5 (0#13 ++ n)]
  | .eret => [mkC 29 6 (0)]
  | .tlbInv a kind => [mkC 29 7 (a ++ 0#14 ++ kind.code)]
  | .halt => [mkC 29 8 (0)]
  | .speculationResolve => []
  | .scalarValueReturn => []
  | .registerFillComplete => []
  | .issueWaitRelease => []
  | .threadWake => []
  | .threadRetire => []
  | .nodeComplete => []
  | .dispatchThread => []
  | .priorityAging => []
  | .quantumExpiry => []
  | .preemptionLanding => []
  | .iterationOverrun => []
  | .timingError => []
  | .mxCfgPerform => []
  | .mxZeroPerform => []
  | .mxLdwPerform => []
  | .mxSeedwPerform => []
  | .mxStepPerform => []
  | .batchComplete => []
  | .waybillStart => []
  | .waybillComplete => []
  | .cpLinPerform => []
  | .cardStart => []
  | .cardComplete => []
  | .routineInstall => []
  | .stepIncrement => []
  | .atomicApply => []
  | .porterMoveStart => []
  | .fetchComplete => []
  | .evictComplete => []
  | .dropComplete => []
  | .cxlLinkDown => []
  | .fabricPacketArrival => []
  | .fabricReplyArrival => []
  | .fabricAttemptTimeout => []
  | .abortFlit => []
  | .sequenceExpiry => []
  | .fabricLinkDown => []
  | .fabricLinkUp => []
  | .mcStStart => []
  | .multicastBankAccept => []
  | .multicastBranchForward => []
  | .acknowledgementArrival => []
  | .ftimeReceived => []
  | .ftimeLoss => []
  | .proposalReceived => []
  | .objectionReceived => []
  | .breachNoticeReceived => []
  | .breachNoticeOriginate => []
  | .heldObjectionDiscard => []
  | .claimClose => []
  | .claimForget => []
  | .submit => []
  | .submitReread => []
  | .hostRegisterWrite => []
  | .place => []
  | .group => []
  | .context => []
  | .pool => []
  | .gtable => []
  | .window => []
  | .grant => []
  | .retire => []
  | .tokmap => []
  | .attest => []
  | .measure => []
  | .boot => []
  | .functionLevelReset => []
  | .dieClockLower => []
  | .illegalInstruction => []
  | .preemptionRequest => []
  | .sleepingThreadSwitchOut => []
  | .noclaim => []
  | .uncorrectableError => []
  | .hostWrite => []
  | .hostRegisterRead => []
  | .pinComplete => []
  | .dieClockRaise => []

/-- Bytes that an instruction takes: one word or two (R58, R66, R156). -/
def Instr.length (i : Instr) : Nat := 4 * (encode i).length

/-! ### The opcode table's numbering -/

/-- The instruction read from the words of a table row: bit 0 is the least significant bit of the first word. -/
def decodeTableWord (nbits w : Nat) : Option Instr :=
  let x : BitVec 64 := BitVec.ofNat 64 (w % 2 ^ nbits)
  match decode (bits x 0 32) (bits x 32 32) with
  | .ok i => some i
  | .illegal _ _ => none

end Sys2Proof
end

