-- ==== Sys2Proof/Machine/State.lean ====
section
/-! DEFINITION. The state of the package as plain data: every register, memory, queue and table that the specification gives
the Amlek, the two kinds of stop, and the state after reset. -/

namespace Sys2Proof.Machine

/-! ### Stops -/

/-- Why a step stops with a fault. -/
inductive Fault where
  /-- Raised by `step` when the agenda holds, as an event, a term that some word encodes: only a fetch runs such an
  instruction. Safe: no hardware step corresponds to it. -/
  | notAStep
  deriving DecidableEq, Repr

/-- Why a step has no meaning. -/
inductive Refusal where
  /-- An instruction without a meaning in this model yet, by its mnemonic. Safe. -/
  | notModelled (mnemonic : String)
  deriving DecidableEq, Repr

/-! ### Exceptions, tags and register contents (R283, R46, R35) -/

/-- An exception: class, detail, and what `uaddr` and `uvia` receive (R283). -/
structure Exc where
  cls : BitVec 8
  detail : BitVec 8
  addr : Word
  via : Word
  deriving DecidableEq, Repr

/-- Formats of a tag (R46). -/
inductive Fmt where
  | void | f32 | f16 | bf16 | i8 | i16 | i32 | i64 | mask
  deriving DecidableEq, Repr

/-- Bundle widths of a tag (R46). -/
inductive Bundle where
  | w0 | w1 | w2 | w4 | w8 | w16
  deriving DecidableEq, Repr

/-- A format tag (R46). -/
structure Tag where
  full : Bool
  bundle : Bundle
  fmt : Fmt
  deriving DecidableEq, Repr

/-- The tag of a void register. -/
def Tag.void : Tag := { full := false, bundle := .w0, fmt := .void }

/-- An `f` register: one FP32 value and its tangent slots; slots not listed are +0.0 (R35). -/
structure FReg where
  tag : Tag
  val : BitVec 32
  tan : List (BitVec 32)
  deriving DecidableEq, Repr

/-- A main, operand or last-result register: plane 0 holds the values and plane 1 + i tangent i, each as one number whose bits
from e × w up are element e of width w; planes not listed are zero. `failed` marks a register whose read raises the exception
given: a fill that failed or a parity error (R52, R292, R359). -/
structure VReg where
  tag : Tag
  planes : List Nat
  failed : Option Exc
  deriving DecidableEq, Repr

/-- A register without contents. -/
def VReg.void : VReg := { tag := .void, planes := [], failed := none }

/-- Kinds of a loop stack entry (R27, R159). -/
inductive LoopKind where
  | loop | frame
  deriving DecidableEq, Repr

/-- An entry of the loop stack (R27). For a frame, `last` is the address of its last captured word. -/
structure LoopEntry where
  kind : LoopKind
  start : Word
  last : Word
  remaining : Word
  index : Word
  deriving DecidableEq, Repr

/-! ### One thread (R309, R310) -/

/-- The user state registers that are scalar state (R56, R309). -/
structure StateRegs where
  wid : Word
  bplane : BitVec 32
  slip : BitVec 4
  skew : BitVec 4
  fcsr : BitVec 13
  tflags : Word
  dhealth : Word
  tctl : BitVec 4
  dkey : Word
  dstep : Word
  dsig : Word
  stklim : Word
  uvec : Word
  uepc : Word
  ucause : Word
  uaddr : Word
  uvia : Word
  udeleg : Word
  qcount : Word
  itin : Word
  milestone : Word
  cwin : Vector Word 16
  deriving DecidableEq, Repr

/-- The scalar state of a thread (R309). -/
structure Scalar where
  pc : Word
  loops : List LoopEntry
  x : Vector Word 32
  f : Vector FReg 32
  p : BitVec 8
  st : StateRegs
  deriving DecidableEq, Repr

/-- What a matrix tile slot holds (R55): the tag of its tile, the base slot of the tile, and 96 × 96 FP32 elements as one
number, element (r, c) in bits 32 × (96 r + c) up. -/
structure TileSlot where
  tag : Tag
  base : Nat
  data : Nat
  /-- a parity error that its next read meets (R290) -/
  bad : Bool
  deriving DecidableEq, Repr

/-- What `mx.seedw` captures (R213). -/
structure Seed where
  dkey : Word
  dstep : Word
  sigma : BitVec 32
  jbase : Word
  off : Nat
  deriving DecidableEq, Repr

/-- The weight buffer with its record (R198): elements in row order, linear ones by their bits; for lns6 the codes of 6 bits and the
scale bytes of the groups of 32. -/
structure WBuf where
  ty : MxTy
  rows : Nat
  cols : Nat
  data : Nat
  scales : Nat
  seed : Option Seed
  /-- a parity error that its next read meets (R290) -/
  bad : Bool
  deriving DecidableEq, Repr

/-- What the thread has issued about the weight buffer most recently (R214): type, rows, columns, and `off` when seeded. -/
structure WView where
  ty : MxTy
  rows : Nat
  cols : Nat
  seedOff : Option Nat
  deriving DecidableEq, Repr

/-- A step in the matrix queue (R205, R214), with the stop point that it has reached (R206). -/
structure MxStep where
  tile : Nat
  w : Nat
  ma : Word
  k0 : Nat
  d : Nat
  ty : MxTy
  free : Bool
  bplane : Nat
  batch : BitVec 16
  index : Nat
  done : Nat
  row : Nat
  deriving DecidableEq, Repr

/-- What a command of the matrix queue does (R200). -/
inductive MxBody where
  | cfg (rows cols : BitVec 8) (img : Bool)
  | zero (base w : Nat)
  | ldw (k : Nat) (b s : Word) (ty : MxTy) (cols : Nat)
  | seedw (seed : Option Seed)
  | step (st : MxStep)
  /-- the end of the steps of a closed batch (R201) -/
  | commit (batch : BitVec 16)
  deriving DecidableEq, Repr

/-- A command of the matrix queue. `held` names the waybill whose release a follow-on awaits, and `dropped` marks one whose waybill
failed (R223). -/
structure MxCmd where
  id : Nat
  handle : Nat
  wid : Nat
  pc : Word
  via : Word
  root : Word
  region : Nat
  prior : List Nat
  held : Option Nat
  dropped : Bool
  body : MxBody
  deriving DecidableEq, Repr

/-- Slots that an incomplete batch leaves empty (R202). -/
structure MxSlots where
  batch : BitVec 16
  base : Nat
  w : Nat
  deriving DecidableEq, Repr

/-- The matrix queue with its batches, the active shape of the engine and the weight buffer (R197 to R207). -/
structure Mx where
  queue : List MxCmd
  /-- steps entered into the open batch -/
  opened : Nat
  /-- closed batches that have not completed, earliest first -/
  closed : List (BitVec 16)
  /-- number of the batch that closes next -/
  next : BitVec 16
  slots : List MxSlots
  rows : Nat
  cols : Nat
  img : Bool
  buf : WBuf
  view : WView
  /-- a fault not yet delivered (R207) -/
  fault : Option Exc
  /-- the engine holds its stop point until the next MX instruction or `halt` (R207) -/
  holds : Bool
  deriving DecidableEq, Repr

/-- The vector state of a thread (R310). -/
structure Vec where
  v : Vector VReg 64
  o : Vector VReg 16
  l0 : VReg
  l1 : VReg
  k : Vector Nat 8
  shapeN : Nat
  shapeK : Nat
  vl : Nat
  vstart : Word
  vfault : Word
  tiles : Vector TileSlot 8
  mxRows : BitVec 8
  mxCols : BitVec 8
  mxImg : Bool
  mxprog : Word
  mx : Mx
  deriving DecidableEq, Repr

/-- The mode of a core (R286). -/
inductive Mode where
  | user | supervisor
  deriving DecidableEq, Repr

/-- What a core is doing. -/
inductive Run where
  /-- no resident thread -/
  | idle
  /-- the next instruction issues -/
  | running
  /-- the instruction at the PC waits in issue (R38, R51, R52) -/
  | waiting
  /-- the thread sleeps at the instruction at the PC (R30) -/
  | asleep
  /-- the thread has executed `halt` and waits for its commands (R31) -/
  | halting
  /-- an exception in supervisor mode while `scause.active` = 1 has stopped the core (R286) -/
  | stopped
  deriving DecidableEq, Repr

/-- The supervisor state registers of a core (R286, R305) and its mode. -/
structure Sup where
  mode : Mode
  svec : Word
  sepc : Word
  scause : Word
  saddr : Word
  svia : Word
  ptbase : Word
  squant : Word
  pdl : Word
  sctx : Word
  vown : Word
  deriving DecidableEq, Repr

/-- What identifies the resident thread and stays with it across switches (R24, R274, R309, R315). -/
structure Thread where
  handle : Nat
  wid : Nat
  image : Word
  stackLo : Word
  stackHi : Word
  /-- root of its addresses (R286, R406) -/
  root : Word
  deriving DecidableEq, Repr

/-- A cached translation: the leaf entry of a page of `2 ^ shift` bytes at `va` (R167). -/
structure TlbEntry where
  va : Nat
  shift : Nat
  leaf : Word
  deriving DecidableEq, Repr

/-- A destination that a long-latency producer is still filling (R50). -/
structure Fill where
  reg : VSpec
  error : Option Exc
  deriving DecidableEq, Repr

/-- A dimension of a waybill (R218). -/
structure WbDim where
  extent : Nat
  ss : Word
  ds : Word
  deriving DecidableEq, Repr

/-- A waybill as `cp.nd` reads it (R218), or the linear copy of `cp.lin` as one (R225). -/
structure Waybill where
  src : Word
  dst : Word
  esize : Nat
  dims : List WbDim
  scope : Scope
  planes : Nat
  psrc : Word
  pdst : Word
  done : Word
  doneval : Word
  bar : Option Word
  mx : Option Word32
  ma : Word
  k0 : Word
  deriving DecidableEq, Repr

/-- The place of a byte after translation: HBM by physical address, the second tier by origin address, a scratchpad by
allotment (2 ^ 20 × allotment + offset), or a fabric window by token-table index and virtual address (R162 to R166, R349). -/
inductive Loc where
  | hbm (a : Nat)
  | cxl (a : Nat)
  | spad (a : Nat)
  | fabric (win va : Nat)
  deriving DecidableEq, Repr

/-- A command of the copy queue. -/
structure CpCmd where
  id : Nat
  handle : Nat
  wid : Nat
  pc : Word
  addr : Word
  root : Word
  region : Nat
  prior : List Nat
  /-- `cp.lin` adds 1 to its counter word instead of storing `doneval` (R225) -/
  lin : Bool
  wb : Waybill
  /-- the generation captured at the enqueue (R222) -/
  gen : BitVec 16
  started : Bool
  /-- elements copied -/
  count : Nat
  /-- the failure of element `count`: status and class (R221) -/
  failed : Option (BitVec 7 × BitVec 8)
  /-- bytes as they stood before this command wrote them (R220) -/
  before : List (Loc × Byte)
  deriving DecidableEq, Repr

/-- A release not yet overwritten (R231). With `closes` it is a command's completion store, and an acquire that reads it closes the command's
region (R235, R240); otherwise it passes on that the region `region` of a command happens before (DEDUCED, log entry 78). -/
structure Pub where
  loc : Loc
  /-- bytes that the release wrote -/
  size : Nat
  region : Nat
  scope : Scope
  core : Nat
  closes : Bool
  deriving DecidableEq, Repr

/-- What a store passes on when it is performed: a region with the scope of its release, whose acquire closes it when `closes` (R231, R240). -/
structure Passed where
  region : Nat
  scope : Scope
  closes : Bool
  deriving DecidableEq, Repr

/-- One core with the thread that it holds. -/
structure Core where
  /-- logical core number -/
  id : Nat
  run : Run
  me : Thread
  sc : Scalar
  vec : Vec
  sup : Sup
  tlb : List TlbEntry
  /-- bit r: the value of x[r] has not yet returned (R38) -/
  xpend : BitVec 32
  /-- registers whose pending value failed, with what their next read raises (R359) -/
  xfail : List (Reg × Exc)
  /-- sequence number of the core's next fabric packet (R355) -/
  seq : BitVec 32
  fills : List Fill
  /-- the address of the branch, jump or loop end word by which control reached the PC, 0 in sequence (R288) -/
  via : Word
  /-- a pending pre-emption request: instructions issued since it was raised (R307, R308) -/
  request : Option Nat
  /-- the last thing that happened was the delivery of a precise exception (R307) -/
  atTrap : Bool
  /-- the last thing that happened was a loop-back, a pop or the start of the next replay (R307) -/
  looped : Bool
  /-- the pre-emption that the innkeeper handles landed while the thread slept (R307, R315) -/
  slept : Bool
  /-- the current access region of the thread (R235) -/
  region : Nat
  /-- open regions of commands that happen before what the thread does now, by releases and barrier phases (R231, R240, R243) -/
  seen : List Nat
  /-- releases that strong loads without acquire have read, for a later fence (R231, R264) -/
  loaded : List Pub
  /-- regions of commands that happen before a release-side fence of the thread, with the fence's scope (R264) -/
  fenced : List (Nat × Scope)
  /-- the fence of the `q.fence.w` at which the thread sleeps (R226) -/
  atFence : Option Nat
  copy : List CpCmd
  /-- a parity error in the copy-engine buffers that the next element meets (R290) -/
  copyBad : Bool
  deriving DecidableEq, Repr

/-! ### Memory -/

/-- Bytes by address, in one canonical form: addresses strictly rising and no byte equal to what an unlisted address reads
as, which is 0. -/
structure Memory where
  cells : List Host.Cell
  deriving DecidableEq, Repr

/-- An unlisted address reads as 0 (DESIGN CHOICE, log entry 3) (DESIGN CHOICE, log entry 43). -/
def Memory.unlisted : Byte := 0

/-- Addresses rise strictly from `lo` and no byte is the unlisted one. -/
def Memory.wfFrom : Nat → List Host.Cell → Bool
  | _, [] => true
  | lo, (a, b) :: rest => decide (lo ≤ a) && (b != Memory.unlisted) && Memory.wfFrom (a + 1) rest

/-- The canonical form. -/
def Memory.wf (m : Memory) : Bool := Memory.wfFrom 0 m.cells

/-- A party of a race (R236, R239): the region and agent of an access, and what it did to one 8-byte word. -/
structure Party where
  region : Nat
  kind : BitVec 4
  who : BitVec 52
  /-- 0 for a thread; otherwise the queue, in which commands are ordered (R241) -/
  queue : Nat
  core : Nat
  strong : Bool
  scope : Scope
  rd : BitVec 8
  wr : BitVec 8
  /-- recorded accesses of the package when this one was recorded, for the memory-side cache (R236) -/
  since : Nat
  deriving DecidableEq, Repr

/-- An access summary of one 8-byte word (R236). -/
structure Summary where
  writer : Option Party
  readers : List Party
  deriving DecidableEq, Repr

/-- A scratchpad allotment (R21, R22, R29), with the vector stack that is held for the thread as long: its address space, its range, and the
frames that the innkeeper has given it (R416). -/
structure Allot where
  id : Nat
  handle : Nat
  wid : Nat
  core : Nat
  spad : Nat
  root : Word
  stack : Nat
  size : Nat
  frames : List Nat
  deriving DecidableEq, Repr

/-- One element operation of a vector atomic or memory reduction that is not yet performed (R247, R252). `dest` is the element of
the register that takes the old value. -/
structure AtomOp where
  core : Nat
  handle : Nat
  wid : Nat
  loc : Loc
  va : Word
  size : Nat
  op : BitVec 4
  ty : BitVec 4
  data : Nat
  new : Nat
  dest : Option (VSpec × Nat)
  /-- what the operation passes on, by fences before it (R264) -/
  passes : List Passed := []
  deriving DecidableEq, Repr

/-- What an arrival on a barrier object passes on (R243): the word, its generation and phase, an open region that happens before the
arrival, and the core and the scope that its release is evaluated at. -/
structure BarArrival where
  word : Nat
  gen : BitVec 16
  phase : BitVec 15
  region : Nat
  core : Nat
  scope : Scope
  deriving DecidableEq, Repr

/-- An 8-byte word of HBM that software has stored to, by address / 8, with what walks still read of it, and the core whose program stored, or none for
another agent (R167, R299). -/
structure HeldWord where
  word : Nat
  old : Word
  writer : Option Nat
  deriving DecidableEq, Repr

/-- The memories of the package with what the device keeps about them. -/
structure Mem where
  hbm : Memory
  /-- what walks still read of words that software has stored to, earliest store first (R167) -/
  tables : List HeldWord
  /-- the model's own: the core whose instruction is in progress, none while another agent moves -/
  writer : Option Nat
  cxl : Memory
  spad : Memory
  /-- scratchpad words that carry a barrier mark, with the object's scope (R257) -/
  marks : List (Nat × Scope)
  /-- HBM granules of 32 bytes and scratchpad words of 8 bytes that hold an uncorrectable error, by index (R290) -/
  badHbm : List Nat
  badSpad : List Nat
  badCxl : List Nat
  allots : List Allot
  summaries : List (Loc × Summary)
  /-- accesses recorded so far -/
  notes : Nat
  openRegions : List Nat
  pubs : List Pub
  nextRegion : Nat
  /-- atomic element operations not yet performed, in the order they joined their chains (R247) -/
  ops : List AtomOp
  arrivals : List BarArrival
  deriving DecidableEq, Repr

/-! ### Fabric requests (R348, R355 to R361) -/

/-- A token table entry in use (R348). -/
structure TokEntry where
  target : BitVec 10
  lbase : BitVec 36
  token : Word
  deriving DecidableEq, Repr

/-- What the reply to a packet is for. -/
inductive Use where
  /-- elements of a plane of a vector register of `bits`-bit elements (R359) -/
  | lanes (reg : VSpec) (bits plane : Nat) (elems : List Nat)
  /-- `x[d]`, from a value of `size` bytes (R359) -/
  | scalar (d : Reg) (size : Nat) (signed : Bool)
  /-- parts of quantised blocks for a register whose first `n` elements they give: block, and part of it (R179, R359) -/
  | quant (reg : VSpec) (n : Nat) (parts : List (Nat × Nat))
  /-- a store, or an atomic that returns nothing (R360) -/
  | store
  /-- an access whose answer an instruction awaits in issue, or the engine command whose region is `cmd` (R349) -/
  | far (cmd : Option Nat) (write : Bool)
  /-- member `index` of the `mc.ldr` in progress (R366) -/
  | member (job index : Nat)
  /-- member `index` of a multicast store, retried point to point (R365) -/
  | line (job index : Nat)
  deriving DecidableEq, Repr

/-- A request packet that has no reply yet: the thread that sent it, the address of its element 0 and the PC of its
instruction. -/
structure Req where
  core : Nat
  handle : Nat
  wid : Nat
  packet : Packet
  use : Use
  addr : Word
  pc : Word
  /-- token table entry that the packet was sent through, none for a packet to a member of a group (R372) -/
  win : Option Nat
  /-- when the attempt in progress left, in ns (R361) -/
  sent : Nat
  /-- what the access passes on when it is performed in this package itself (R231) -/
  passes : List Passed := []
  /-- the releases that the access read when it was performed in this package itself (R231) -/
  read : List Pub := []
  deriving DecidableEq, Repr

/-- The answer to an access. -/
inductive FarAns where
  | awaited
  | data (b : List Byte)
  /-- by a class, and the code of R369 or a detail of data error -/
  | failed (cls code : BitVec 8)
  deriving DecidableEq, Repr

/-- An access to a fabric window that the instruction at the PC of a thread, or the engine command whose region is `cmd`, has sent and not yet
made use of (R349) (DESIGN CHOICE, log entry 94). -/
structure FarAcc where
  handle : Nat
  wid : Nat
  cmd : Option Nat
  write : Bool
  va : Word
  size : Nat
  ans : FarAns
  /-- the releases that its read found in this package itself (R231) -/
  read : List Pub := []
  deriving DecidableEq, Repr

/-- A part of a quantised block that has come for a register whose fill needs the other parts too (R179). -/
structure QPart where
  core : Nat
  reg : VSpec
  block : Nat
  part : Nat
  val : Nat
  deriving DecidableEq, Repr

/-- A failed fabric store or atomic that its thread has not yet been told of (R360) (DEDUCED, log entry 10). -/
structure FabFail where
  handle : Nat
  wid : Nat
  exc : Exc
  deriving DecidableEq, Repr

/-- A member of a group (R363). -/
structure Member where
  pkg : BitVec 16
  token : Word
  deriving DecidableEq, Repr

/-- A multicast packet on its way to the members of one stage node (R364): accepted into the bank, and the members whose branch has
not gone yet. -/
structure Bank where
  job : Nat
  node : BitVec 8
  accepted : Bool
  branches : List Nat
  packet : Packet
  deriving DecidableEq, Repr

/-- A multicast store in the fabric queue (R370). `members` and `codes` are filled when it starts; the record is at `rec`. -/
structure McJob where
  id : Nat
  handle : Nat
  wid : Nat
  core : Nat
  pc : Word
  root : Word
  region : Nat
  prior : List Nat
  gid : Nat
  off : Word
  ack : Word
  line : List Byte
  started : Bool
  sent : Nat
  members : List Member
  /-- sequence number of the packet that carries each member's line -/
  seqs : List (BitVec 32)
  codes : List (Option MStatus)
  deriving DecidableEq, Repr

/-- A load-and-reduce that waits for its members (R366, R371). -/
structure LdrJob where
  id : Nat
  handle : Nat
  wid : Nat
  core : Nat
  pc : Word
  v : BitVec 6
  s : Reg
  op : LdrOp
  ty : LdrTy
  vl : Nat
  /-- the thread delegates fabric error, so that the instruction completes before a later one issues (R371) -/
  waits : Bool
  replies : List (Option (MStatus × List Byte))
  deriving DecidableEq, Repr

/-- A target's record of a performed write or atomic packet with its answer (R357): a reply, of kind 5, or an acknowledgement, of kind 6, with the number
and size of the elements that it carries (R355). -/
structure SeqRec where
  kind : BitVec 8
  count : Nat
  esize : Nat
  requester : BitVec 16
  core : BitVec 16
  seq : BitVec 32
  status : MStatus
  data : List Byte
  at? : Nat
  deriving DecidableEq, Repr

/-- The package's side of the fabric: as requester, as target, and its time. -/
structure Fab where
  tokens : List (Nat × TokEntry)
  /-- packets without a reply, earliest first -/
  reqs : List Req
  /-- accesses whose answers are awaited or not yet used -/
  far : List FarAcc
  qparts : List QPart
  fails : List FabFail
  jobs : List McJob
  ldrs : List LdrJob
  banks : List Bank
  /-- replies and acknowledgements that leave for their requesters, latest last -/
  sentReplies : List SeqRec
  records : List SeqRec
  /-- links that are down: those of this package by port, and those from a stage node to a target (R346) -/
  down : List (BitVec 5)
  downFar : List (BitVec 8 × BitVec 16)
  /-- `sgtab`, `swtab` and `swcnt` (R350) -/
  sgtab : Word
  swtab : Word
  swcnt : Word
  /-- retired MAC key indexes (R407) -/
  retired : List Nat
  /-- bit 63 of `fab.stat` sel 2, and the `ftime` at which a time was last received (R367) -/
  timeFlag : Bool
  lastTime : Nat
  deriving DecidableEq, Repr

/-! ### Engine queues (R180, R226) -/

/-- The queues of a `q.fence` mask (R224). -/
inductive Queue where
  | copy | matrix | opt | fabric
  deriving DecidableEq, Repr

/-- A fence in the queues of a mask (R226): those of a core, of its die for the optimiser queue, and the matrix queue of the thread that placed it,
which moves with its vector state (R311). Commands with a smaller `id` lie before it. -/
structure QFence where
  id : Nat
  mask : BitVec 4
  core : Nat
  handle : Nat
  wid : Nat
  deriving DecidableEq, Repr

/-- An engine command whose region is still open (R235), or with region 0 one whose region has closed but that regions still open happen before
(R241). `batch` is that of a matrix step. -/
structure CmdRegion where
  id : Nat
  region : Nat
  queue : Queue
  core : Nat
  handle : Nat
  wid : Nat
  batch : Option (BitVec 16)
  /-- open regions that happen before the command (R240, R241) -/
  prior : List Nat
  deriving DecidableEq, Repr

/-- A failed command that its thread has not yet been told of (R189, R221, R365). -/
structure CmdFail where
  id : Nat
  queue : Queue
  handle : Nat
  wid : Nat
  status : BitVec 7
  cls : BitVec 8
  count : Nat
  addr : Word
  via : Word
  deriving DecidableEq, Repr

/-- A job card (R181). -/
structure Card where
  rout : Nat
  k : Nat
  wbf : Bool
  stbf : Bool
  refuse : Bool
  ctx : Bool
  drop : BitVec 16
  n : Nat
  w : Word
  st1 : Word
  st2 : Word
  seed : BitVec 32
  stream : BitVec 32
  jbase : Word
  sigma : BitVec 32
  scal : Word
  step : Word
  consts : List (BitVec 32)
  done : Word
  doneval : Word
  deriving DecidableEq, Repr

/-- What a card fixes when it reaches the head of the queue (R183). -/
structure CardRun where
  prog : List Word32
  t : Word
  scal : List (BitVec 32)
  healthy : List Bool
  b1 : BitVec 32
  b2 : BitVec 32
  /-- elements complete -/
  count : Nat
  deriving DecidableEq, Repr

/-- What a command of the optimiser queue does (R191). -/
inductive OptBody where
  | card (c : Card)
  | step (ctx : Nat)
  | rout (id : Nat)
  deriving DecidableEq, Repr

/-- A command of the optimiser queue of a die. -/
structure OptCmd where
  id : Nat
  handle : Nat
  wid : Nat
  core : Nat
  die : Nat
  pc : Word
  addr : Word
  root : Word
  region : Nat
  prior : List Nat
  body : OptBody
  run : Option CardRun
  /-- the step value of a card that has reached the head and still awaits its scalars (R183) -/
  fixed : Option Word
  /-- the failure of a card whose completion word is on its way, with the elements complete (R189) -/
  failed : Option ((BitVec 7 × BitVec 8) × Nat)
  deriving DecidableEq, Repr

/-- The engines of the package beyond the queues of single cores. -/
structure Eng where
  /-- the model's own: number of the next command -/
  nextId : Nat
  fences : List QFence
  regions : List CmdRegion
  fails : List CmdFail
  /-- failures of optimiser commands since the thread's last `opt.wait` (R191) -/
  optFails : List CmdFail
  opt : List OptCmd
  /-- installed routines by die and id (R191) -/
  routs : List ((Nat × Nat) × List Word32)
  /-- `STEP` by die and context; 0 where not listed (R190) -/
  steps : List ((Nat × Nat) × Word)
  deriving DecidableEq, Repr

/-! ### Nodes and the dispatcher (R16 to R34, R301 to R315) -/

/-- Modes of a region (R17). -/
inductive RgMode where
  | unused | read | write | both
  deriving DecidableEq, Repr

/-- A region entry (R17). -/
structure NodeRegion where
  mode : RgMode
  base : Nat
  extent : Nat
  deriving DecidableEq, Repr

/-- A node record (R16). -/
structure Record where
  prog : Word
  threads : Nat
  prio : Nat
  coResident : Bool
  needsMx : Bool
  place : Nat
  placeDie : Bool
  widths : List Nat
  spad : Nat
  vstack : Nat
  cgslots : Nat
  qcopy : Nat
  qmx : Nat
  qopt : Nat
  qfab : Nat
  done : Word
  doneval : Word
  preds : List Nat
  stream : BitVec 32
  regions : List NodeRegion
  deriving DecidableEq, Repr

/-- A claim group as its descriptor gives it (R381): members by endpoint, each with the offset of its ring. -/
structure Group where
  tag : Word
  members : List (BitVec 16 × Nat)
  domain : Bool
  quota : Nat
  wdef : Nat
  effect : Word
  stepkey : BitVec 16
  ctx : Nat
  deriving DecidableEq, Repr

/-- A node in the pool (R301), until it completes. -/
structure Node where
  handle : Nat
  record : Record
  /-- submitted by the host -/
  host : Bool
  /-- effective priority, and the dispatch decisions that have passed while it waited since it last rose (R303) -/
  prio : Nat
  waited : Nat
  /-- the dispatch decision at which it became ready -/
  readyAt : Option Nat
  /-- predecessors that have not completed (R19) -/
  edges : List Nat
  /-- the thread that starts next -/
  nextWid : Nat
  retired : Nat
  /-- class and `wid` of the first thread ended (R287) -/
  ended : Option (BitVec 8 × Nat)
  /-- root of the page tables of its stream, from its first thread -/
  root : Word
  /-- optimiser contexts granted to its stream when it was accepted (R190) -/
  contexts : List Nat
  /-- claim groups by slot, and frame pool size, as its stream had them when it was accepted (R28, R321) -/
  slots : List (Nat × Group)
  pool : Nat
  /-- the bound itinerary, 0 for none (R335) -/
  itin : Word
  /-- open regions that happen before its threads, and those that its retired threads had acquired (R20, R266) -/
  seen : List Nat
  after : List Nat
  /-- HBM frames kept for the stacks of its threads that have still to start, as ranges: a co-resident node is placed whole (R33, R304) -/
  reserve : List (Nat × Nat)
  deriving DecidableEq, Repr

/-- A thread that is swapped out (R301, R315): what stays with it beside its context image. -/
structure Swapped where
  me : Thread
  asleep : Bool
  region : Nat
  seen : List Nat
  loaded : List Pub
  fenced : List (Nat × Scope)
  atFence : Option Nat
  xfail : List (Reg × Exc)
  /-- the claim at whose `cl.wait` it sleeps: tag, endpoint and handle (R391) -/
  claim : Option (Word × BitVec 16 × Word)
  deriving DecidableEq, Repr

/-- A vector state that has been saved in the context image at `image` from core `core` (R311, R312). Of `vec` a restore takes what the bytes of
the image do not hold: the matrix section, whose layout R312 does not give, and which registers have failed (DESIGN CHOICE, log entry 57). -/
structure VImage where
  image : Word
  core : Nat
  vec : Vec
  deriving DecidableEq, Repr

/-- The dispatcher (R301 to R315). -/
structure Sched where
  nodes : List Node
  nextHandle : Nat
  decisions : Nat
  swapped : List Swapped
  vimages : List VImage
  /-- co-resident nodes that hold dies (R304) -/
  holding : List Nat
  deriving DecidableEq, Repr

/-! ### Streams, itineraries and the porter (R319 to R337, R406) -/

/-- What the innkeeper keeps of a stream (R406): its address space, the bindings that services made, and how many completion stores
of its nodes have faulted (R32). -/
structure Stream where
  id : BitVec 32
  root : Word
  slots : List (Nat × Group)
  pool : Option Nat
  faults : Nat
  deriving DecidableEq, Repr

/-- Kinds of an itinerary entry (R322). -/
inductive PKind where
  | fetch | evict | pin | drop
  deriving DecidableEq, Repr

/-- An itinerary entry (R322) with its progress: when it started, pages taken, pages moved, and the cause that stopped it (R329). -/
structure ItEntry where
  milestone : Nat
  kind : PKind
  lead : Nat
  prio : Nat
  nocheck : Bool
  count : Nat
  va : Word
  startedAt : Option Nat
  taken : Nat
  moved : List Nat
  cause : Option (BitVec 6)
  deriving DecidableEq, Repr

/-- A bound itinerary (R324, R335) with the node's frame pool: frames granted, and the free ones as ranges (R321). -/
structure Itin where
  handle : Nat
  base : Word
  entries : List ItEntry
  reached : Option Nat
  granted : Nat
  free : List (Nat × Nat)
  deriving DecidableEq, Repr

/-- A page move in progress (R326, R327), or a pin (R323): the place of the page's leaf entry, the leaf as it was, the HBM frame and the
origin, by 64 KiB frame. -/
structure Move where
  handle : Nat
  entry : Nat
  page : Nat
  kind : PKind
  va : Word
  pte : Nat
  leaf : Word
  frame : Nat
  origin : Nat
  deriving DecidableEq, Repr

/-- The porter, with the innkeeper's books of frames (R320 to R328). -/
structure Porter where
  itins : List Itin
  moves : List Move
  /-- origins of tier-0 pages, by place of the leaf entry (R321) -/
  origins : List (Nat × Nat)
  /-- pinned pages, by place of the leaf entry, with the node (R323) -/
  pins : List (Nat × Nat)
  /-- frames of mapped pages that came from a pool (R321) -/
  pooled : List Nat
  /-- HBM and second-tier frames that nothing holds, as ranges of first frame and count -/
  hbmFree : List (Nat × Nat)
  cxlFree : List (Nat × Nat)
  /-- CXL links that are down (R328) -/
  linksDown : List (BitVec 3)
  /-- number of the next start of an entry -/
  starts : Nat
  deriving DecidableEq, Repr

/-! ### The claim store (R379 to R399) -/

/-- A claim that a member knows (R387, R390, R393), with the effect address when its effect store failed. -/
structure Claim where
  handle : Word
  t0 : Nat
  w : Nat
  key : BitVec 16
  payload : Word
  who : BitVec 16
  objected : Bool
  outcome : Option (BitVec 4)
  effectFailed : Option Word
  /-- open regions that the proposal's release covers (R246) -/
  seen : List Nat
  deriving DecidableEq, Repr

/-- What one member of a group in this package keeps (R379 to R393): the stream and the descriptor of the latest binding of its tag, position of
its last notice, known claims, objections held for their proposals, and standing objections by key with the node that filed each. -/
structure ClaimMember where
  ep : BitVec 16
  stream : BitVec 32
  group : Group
  seq : Nat
  claims : List Claim
  held : List (Word × Nat)
  holds : List (BitVec 16 × Nat)
  deriving DecidableEq, Repr

/-- A courier message in flight (R384, R385): its kind, and the members it has not reached yet. -/
structure Flight where
  objection : Bool
  msg : Courier
  dests : List (BitVec 16)
  seen : List Nat
  deriving DecidableEq, Repr

/-- The claim store of the package. -/
structure ClaimStore where
  members : List ClaimMember
  flights : List Flight
  /-- times of breach notices received (R390) -/
  breaches : List Nat
  /-- breach notices originated here (R385, R386) -/
  sentBreaches : List Courier
  /-- the last t0 of each endpoint (R387) -/
  lastT0 : List (BitVec 16 × Nat)
  deriving DecidableEq, Repr

/-! ### The host's side and the innkeeper (R400 to R413) -/

/-- A SUBMIT or SVCREQ write not yet answered (R401, R406): the value, re-reads made, when the next is due, and a service record that
has been accepted and waits for its service. -/
structure HostReq where
  val : Word
  svc : Bool
  tries : Nat
  due : Nat
  record : Option (List Byte)
  deriving DecidableEq, Repr

/-- A service that has begun and cannot end yet: the core of the program that asked for it, or none for the host, and its record, which is not read
again (R406). -/
structure Begun where
  core : Option Nat
  record : List Byte
  deriving DecidableEq, Repr

/-- BAR0 (R400), the boot (R409), the measurement register (R410), MSI-X vectors sent, latest last, and values that host reads have
returned, latest last. -/
structure HostSide where
  queue : List HostReq
  begun : List Begun
  srbase : Word
  srhead : Word
  bootst : Word
  measure : List Byte
  msix : List Nat
  reads : List Word
  /-- the MSI-X table (R400) -/
  msixTable : List (Nat × Word)
  deriving DecidableEq, Repr

/-! ### The whole package -/

/-- Who moves next (DESIGN CHOICE, log entry 82). -/
inductive Turn where
  /-- core `c` becomes the active core and moves -/
  | core (c : Nat)
  /-- another agent takes the step `i` with the choices `c` -/
  | event (i : Instr) (c : Choice)
  deriving DecidableEq, Repr

/-- The state of one package. -/
structure State where
  part : Part
  /-- the active core -/
  core : Core
  /-- the other cores, by rising number; a core not listed is idle as after reset -/
  parked : List Core
  mem : Mem
  fab : Fab
  eng : Eng
  sched : Sched
  streams : List Stream
  /-- optimiser contexts granted, with the stream (R190) -/
  grants : List (Nat × BitVec 32)
  porter : Porter
  claims : ClaimStore
  host : HostSide
  /-- dies whose clock is lowered, one bit each (R413) -/
  slow : BitVec 8
  /-- corrected errors by die (R290) -/
  corrected : Vector Nat 8
  /-- the model's own: who moves next, oldest first; empty when the active core moves -/
  agenda : List Turn
  /-- the model's own: the choices of the step in progress -/
  choice : Choice
  /-- the model's own: counts steps, for `ftime` -/
  tick : Nat
  /-- the model's own: counts the free values drawn so far -/
  free : Nat
  /-- fabric time in ns (R367) -/
  ftime : Nat
  deriving DecidableEq, Repr

/-! ### Reset -/

/-- State registers after reset (R56, R57, R284). -/
def StateRegs.reset : StateRegs :=
  { wid := 0, bplane := 0, slip := 2, skew := 0, fcsr := 0, tflags := 0, dhealth := 0, tctl := 0, dkey := 0, dstep := 0
    dsig := 0x3F800000, stklim := 0, uvec := 0, uepc := 0, ucause := 0, uaddr := 0, uvia := 0, udeleg := 0, qcount := 0
    itin := 0, milestone := 0xFFFFFFFF, cwin := Vector.replicate 16 0 }

/-- Scalar state after reset (DESIGN CHOICE, log entry 1). -/
def Scalar.reset : Scalar :=
  { pc := 0, loops := [], x := Vector.replicate 32 0, f := Vector.replicate 32 ⟨.void, 0, []⟩, p := 0, st := .reset }

/-- The matrix queue after reset: nothing loaded (DESIGN CHOICE, log entry 1). -/
def Mx.reset : Mx :=
  { queue := [], opened := 0, closed := [], next := 0, slots := [], rows := 96, cols := 96, img := false
    buf := ⟨.f32, 0, 0, 0, 0, none, false⟩, view := ⟨.f32, 0, 0, none⟩, fault := none, holds := false }

/-- Vector state after reset (R28, R45, R56). -/
def Vec.reset : Vec :=
  { v := Vector.replicate 64 .void, o := Vector.replicate 16 .void, l0 := .void, l1 := .void, k := Vector.replicate 8 0
    shapeN := 8, shapeK := 0, vl := 0, vstart := 0, vfault := 0, tiles := Vector.replicate 8 ⟨.void, 0, 0, false⟩
    mxRows := 0x60, mxCols := 0x60, mxImg := false, mxprog := 0, mx := .reset }

/-- Supervisor state registers after reset (R286, R305). -/
def Sup.reset : Sup :=
  { mode := .user, svec := 0, sepc := 0, scause := 0, saddr := 0, svia := 0, ptbase := 0, squant := 0x400000, pdl := 0x10000
    sctx := 0, vown := 0 }

/-- Core `id` after reset: idle. -/
def Core.reset (id : Nat) : Core :=
  { id := id, run := .idle, me := ⟨0, 0, 0, 0, 0, 0⟩, sc := .reset, vec := .reset, sup := .reset, tlb := [], xpend := 0, xfail := [], seq := 0, fills := []
    via := 0, request := none, atTrap := false, looped := false, slept := false, region := 0, seen := [], loaded := [],
    fenced := [], atFence := none, copy := [], copyBad := false }

/-- The memories after reset: nothing listed. -/
def Mem.reset : Mem :=
  { hbm := ⟨[]⟩, tables := [], writer := none, cxl := ⟨[]⟩, spad := ⟨[]⟩, marks := [], badHbm := [], badSpad := [], badCxl := [],
    allots := [], summaries := [], notes := 0
    openRegions := [], pubs := [], nextRegion := 1, ops := [], arrivals := [] }

/-- The fabric after reset: no tokens and nothing in flight. -/
def Fab.reset : Fab :=
  { tokens := [], reqs := [], far := [], qparts := [], fails := [], jobs := [], ldrs := [], banks := [], sentReplies := [], records := [],
    down := [], downFar := [], sgtab := 0
    swtab := 0, swcnt := 0, retired := [], timeFlag := false, lastTime := 0 }

/-- The engines after reset (R190). -/
def Eng.reset : Eng := { nextId := 0, fences := [], regions := [], fails := [], optFails := [], opt := [], routs := [], steps := [] }

/-- The dispatcher after reset: no node, and handles from 1 (R18). -/
def Sched.reset : Sched := { nodes := [], nextHandle := 1, decisions := 0, swapped := [], vimages := [], holding := [] }

/-- The porter after reset: HBM frames from 256 MiB to 2 GiB below the end and second-tier frames up to 16 TiB are free (DESIGN CHOICE, log entry 1). -/
def Porter.reset : Porter :=
  { itins := [], moves := [], origins := [], pins := [], pooled := [], hbmFree := [(0x1000, 0xFF7000)], cxlFree := [(0, 0x10000000)]
    linksDown := [], starts := 0 }

/-- The claim store after reset. -/
def ClaimStore.reset : ClaimStore := { members := [], flights := [], breaches := [], sentBreaches := [], lastT0 := [] }

/-- The host's side after reset (R400, R409, R410). -/
def HostSide.reset : HostSide :=
  { queue := [], begun := [], srbase := 0, srhead := 0, bootst := 0, measure := List.replicate 64 0, msix := [], reads := [], msixTable := [] }

/-- The package right after reset (DESIGN CHOICE, log entry 1). -/
def State.reset : State :=
  { part := .h, core := .reset 0, parked := [], mem := .reset, fab := .reset, eng := .reset, sched := .reset, streams := [], grants := [], porter := .reset,
    claims := .reset, host := .reset, slow := 0, corrected := Vector.replicate 8 0, agenda := [], choice := .none, tick := 0, free := 0, ftime := 0 }

end Sys2Proof.Machine
end

