-- ==== Sys2Proof/Machine/Ops.lean ====
section
/-! DEFINITION. The named operations over registers and memory that the meanings share: register access, completion in
sequence with the loop-back of R154, taking an exception (R283 to R286), translation (R162 to R168), races (R235 to R239) and
memory access. -/

namespace Sys2Proof.Machine

/-! ### How an instruction ends without its effect -/

/-- Why an instruction does not complete now. -/
inductive Halt where
  | exc (e : Exc)
  /-- an exception with the part of the effect that its entry states (R280): the state to deliver it from -/
  | partly (e : Exc) (s : State)
  /-- it waits in issue (R38, R51, R52) -/
  | wait
  /-- it sleeps (R30) -/
  | sleep
  /-- it waits in issue, having begun something: the state in which it waits -/
  | waitAs (s : State)
  /-- it sleeps, having begun something -/
  | sleepAs (s : State)
  deriving DecidableEq, Repr

/-- Raise class `c` with detail `d` and a faulting address. -/
def raiseAt {α : Type} (c d : BitVec 8) (addr : Word) : Except Halt α := .error (.exc ⟨c, d, addr, 0⟩)

/-- Raise class `c` with detail `d`; the class defines no address. -/
def raise {α : Type} (c d : BitVec 8) : Except Halt α := raiseAt c d 0

/-- Raise when the condition holds. -/
def raiseIf (b : Bool) (c d : BitVec 8) (addr : Word) : Except Halt Unit := if b then raiseAt c d addr else .ok ()

/-! ### Registers of the active core -/

namespace State

/-- The active core changed by `f`. -/
def mapCore (s : State) (f : Core → Core) : State := { s with core := f s.core }

/-- The scalar state of the resident thread changed by `f`. -/
def mapSc (s : State) (f : Scalar → Scalar) : State := { s with core := { s.core with sc := f s.core.sc } }

/-- The state registers of the resident thread changed by `f`. -/
def mapSt (s : State) (f : StateRegs → StateRegs) : State :=
  { s with core := { s.core with sc := { s.core.sc with st := f s.core.sc.st } } }

/-- The vector state in the active core changed by `f`. -/
def mapVec (s : State) (f : Vec → Vec) : State := { s with core := { s.core with vec := f s.core.vec } }

/-- The supervisor registers of the active core changed by `f`. -/
def mapSup (s : State) (f : Sup → Sup) : State := { s with core := { s.core with sup := f s.core.sup } }

/-- The memories changed by `f`. -/
def mapMem (s : State) (f : Mem → Mem) : State := { s with mem := f s.mem }

/-- The program counter. -/
abbrev pc (s : State) : Word := s.core.sc.pc

/-- The state registers of the resident thread. -/
abbrev st (s : State) : StateRegs := s.core.sc.st

/-- The loop stack, innermost entry first. -/
abbrev loops (s : State) : List LoopEntry := s.core.sc.loops

/-- `x[r]`; `x0` reads as zero (R36). -/
def x (s : State) (r : Reg) : Word := if r = 0 then 0 else s.core.sc.x.get r.toFin

/-- Write `x[r]`; a write to `x0` is discarded (R36). A value that failed before is gone. -/
def setX (s : State) (r : Reg) (w : Word) : State :=
  if r = 0 then s
  else (s.mapSc fun c => { c with x := c.x.set r.toNat w r.isLt }).mapCore fun c => { c with xfail := c.xfail.filter fun q => q.1 != r }

/-- `f[r]`. -/
def f (s : State) (r : Reg) : FReg := s.core.sc.f.get r.toFin

/-- Write `f[r]`. -/
def setF (s : State) (r : Reg) (v : FReg) : State := s.mapSc fun c => { c with f := c.f.set r.toNat v r.isLt }

/-- Predicate `p[r]`. -/
def p (s : State) (r : BitVec 3) : Bool := s.core.sc.p.getLsbD r.toNat

/-- The predicates with bit `n` set to `b`. -/
def setBit (w : BitVec 8) (n : Nat) (b : Bool) : BitVec 8 :=
  if b then w ||| (1#8 <<< n) else w &&& ~~~(1#8 <<< n)

/-- Write predicate `p[r]`. -/
def setP (s : State) (r : BitVec 3) (b : Bool) : State := s.mapSc fun c => { c with p := setBit c.p r.toNat b }

/-- Set the program counter. -/
def setPc (s : State) (w : Word) : State := s.mapSc fun c => { c with pc := w }

/-- Set the loop stack. -/
def setLoops (s : State) (l : List LoopEntry) : State := s.mapSc fun c => { c with loops := l }

/-- Where control came from, for a fetch fault at the PC (R288). -/
def setVia (s : State) (w : Word) : State := s.mapCore fun c => { c with via := w }

/-- What the active core is doing. -/
def setRun (s : State) (r : Run) : State := s.mapCore fun c => { c with run := r }

/-- Whether the last thing that happened was a loop-back, a pop or the start of a replay (R307). -/
def setLooped (s : State) (b : Bool) : State := s.mapCore fun c => { c with looped := b }

/-! ### Completion (R154) -/

/-- R154 on the loop stack when the instruction whose last word lies at `l` completes in sequence: the stack after, and the
start PC when the loop goes back. -/
def loopBack (l : Word) : List LoopEntry → List LoopEntry × Option Word
  | [] => ([], none)
  | e :: rest =>
    if e.kind = .loop ∧ e.last = l then
      if 1 < e.remaining.toNat then ({ e with remaining := e.remaining - 1, index := e.index + 1 } :: rest, some e.start)
      else loopBack l rest
    else (e :: rest, none)

/-- Completion in sequence of an instruction of `len` bytes at the PC (R154, R71). -/
def complete (s : State) (len : Nat) : State :=
  let last := s.pc + BitVec.ofNat 64 len - 4
  match loopBack last s.loops with
  | (l, none) => (((s.setLoops l).setPc (s.pc + BitVec.ofNat 64 len)).setVia 0).setLooped (l.length != s.loops.length)
  | (l, some start) => (((s.setLoops l).setPc start).setVia last).setLooped true

/-- Control goes to `target` by a taken branch or jump at the PC (R149, R150, R288). -/
def jump (s : State) (target : Word) : State := (s.setPc target).setVia s.pc

/-! ### Taking an exception (R283 to R286) -/

/-- Bit 63 of a cause register. -/
def causeActive : Word := 0x8000000000000000

/-- A cause register's value: active, class and detail (R284, R286). -/
def causeOf (cls detail : BitVec 8) : Word := 0x800000000000#48 ++ cls ++ detail

/-- The classes that no thread handles: vector-unit owned, context-restore mismatch and overrun (R279). -/
def delegable (cls : BitVec 8) : Bool := cls != 0x14 && cls != 0x16 && cls != 0x18

/-- R283, R285: the exception goes to the thread's own handler. A data error with detail 0x10 never does (R289) (DEDUCED, log entry 28). -/
def toUser (s : State) (e : Exc) : Bool :=
  s.core.sup.mode == .user && delegable e.cls && !(e.cls == 0x11 && e.detail == 0x10) && s.st.udeleg.getLsbD e.cls.toNat
    && !s.st.ucause.getLsbD 63 && s.st.uvec != 0

/-- R286: the innkeeper receives the exception (DEDUCED, log entry 28). -/
def toInnkeeper (s : State) (e : Exc) (epc : Word) : State :=
  if s.core.sup.mode = .supervisor ∧ s.core.sup.scause.getLsbD 63 then s.setRun .stopped
  else
    let cause := causeOf e.cls e.detail ||| (if s.core.sup.mode = .user then 0x4000000000000000 else 0)
    ((((s.mapSup fun u => { u with mode := .supervisor, sepc := epc, scause := cause, saddr := e.addr, svia := e.via }).setPc
      s.core.sup.svec).setVia 0).setRun .running).mapCore fun c => { c with atTrap := true }

/-- Delivery of an exception whose saved PC is `epc` (R283 to R286). Nothing else changes. -/
def deliver (s : State) (e : Exc) (epc : Word) : State :=
  if s.toUser e then
    ((((s.mapSt fun t => { t with uepc := epc, ucause := causeOf e.cls e.detail, uaddr := e.addr, uvia := e.via }).setPc
      s.st.uvec).setVia 0).setRun .running).mapCore fun c => { c with atTrap := true }
  else s.toInnkeeper e epc

/-- Delivery of a precise exception of the instruction at the PC. -/
def except (s : State) (e : Exc) : State := s.deliver e s.pc

/-- The core with number `c` changed by `f`, where the package has it active or parked. -/
def onCore (s : State) (c : Nat) (f : Core → Core) : State :=
  if s.core.id = c then s.mapCore f else { s with parked := s.parked.map fun k => if k.id = c then f k else k }

/-- A program counter: bits [1:0] are always zero (R58), whatever the register or the image holds that it comes from (DEDUCED, log entry 127). -/
def wordPc (w : Word) : Word := w &&& 0xFFFFFFFFFFFFFFFC

/-- Return from the handler in the thread's own code (R298, user mode). -/
def eretUser (s : State) : State :=
  ((s.mapSt fun t => { t with ucause := t.ucause &&& 0x7FFFFFFFFFFFFFFF }).setPc (wordPc s.st.uepc)).setVia 0

/-- Return from the innkeeper to user mode at `sepc` (R286, R298). The thread is awake. -/
def eretSup (s : State) : State :=
  (((s.mapSup fun u => { u with mode := .user, scause := u.scause &&& 0x7FFFFFFFFFFFFFFF }).setPc (wordPc s.core.sup.sepc)).setVia 0).mapCore
    fun c => { c with slept := false }

/-! ### Free values -/

/-- The next free value counter and the state that has drawn it. -/
def draw (s : State) : Nat × State := (s.free, { s with free := s.free + 1 })

end State

/-- The outcome of an instruction from its result: an exception is delivered from the state before it (R280), a wait leaves the
instruction at the PC. -/
def outcome (s : State) (r : Except Halt State) : Host.Outcome State Fault Refusal :=
  match r with
  | .ok s' => .next s'
  | .error (.exc e) => .next (s.except e)
  | .error (.partly e s') => .next (s'.except e)
  | .error .wait => .next (s.setRun .waiting)
  | .error .sleep => .next (s.setRun .asleep)
  | .error (.waitAs s') => .next (s'.setRun .waiting)
  | .error (.sleepAs s') => .next (s'.setRun .asleep)

/-! ### Bytes (R2) -/

namespace Memory

/-- The byte at `a` in a list of cells (DESIGN CHOICE, log entry 3). -/
def find (a : Nat) : List Host.Cell → Byte
  | [] => unlisted
  | (b, v) :: rest => if a = b then v else find a rest

/-- The byte at `a`. -/
def get (m : Memory) (a : Nat) : Byte := find a m.cells

/-- The cells with byte `v` at `a`, in canonical form. -/
def insert (a : Nat) (v : Byte) : List Host.Cell → List Host.Cell
  | [] => if v = unlisted then [] else [(a, v)]
  | (b, w) :: rest =>
    if a < b then (if v = unlisted then (b, w) :: rest else (a, v) :: (b, w) :: rest)
    else if a = b then (if v = unlisted then rest else (a, v) :: rest)
    else (b, w) :: insert a v rest

/-- Store a byte. -/
def set (m : Memory) (a : Nat) (v : Byte) : Memory := ⟨insert a v m.cells⟩

/-- The `n` bytes from `a` up, little-endian (R2). -/
def read (m : Memory) (a : Nat) : Nat → Nat
  | 0 => 0
  | n + 1 => (m.get a).toNat + 256 * read m (a + 1) n

/-- Store the low `n` bytes of `v` from `a` up, little-endian (R2). -/
def write (m : Memory) (a : Nat) (v : Nat) : Nat → Memory
  | 0 => m
  | n + 1 => write (m.set a (BitVec.ofNat 8 v)) (a + 1) (v / 256) n

/-- The cells of a list of bytes from `a` up, without those that an unlisted address reads as. -/
def cellsOf (a : Nat) : List Byte → List Host.Cell
  | [] => []
  | b :: rest => if b = unlisted then cellsOf (a + 1) rest else (a, b) :: cellsOf (a + 1) rest

/-- The cells below an address. -/
def below (a : Nat) : List Host.Cell → List Host.Cell
  | [] => []
  | c :: rest => if c.1 < a then c :: below a rest else []

/-- The cells from an address up. -/
def above (a : Nat) : List Host.Cell → List Host.Cell
  | [] => []
  | c :: rest => if c.1 < a then above a rest else c :: rest

/-- Store a list of bytes from `a` up. -/
def writeBytes (m : Memory) (a : Nat) (l : List Byte) : Memory :=
  ⟨below a m.cells ++ cellsOf a l ++ above (a + l.length) m.cells⟩

/-- The `n` bytes from `a` up of cells that start at or above `a`. -/
def take (a : Nat) : Nat → List Host.Cell → List Byte
  | 0, _ => []
  | n + 1, [] => unlisted :: take (a + 1) n []
  | n + 1, c :: rest => if c.1 = a then c.2 :: take (a + 1) n rest else unlisted :: take (a + 1) n (c :: rest)

/-- The `n` bytes from `a` up as a list. -/
def bytes (m : Memory) (a n : Nat) : List Byte := take a n (above a m.cells)

end Memory

/-- An 8-byte number as a word. -/
def word (n : Nat) : Word := BitVec.ofNat 64 n

/-! ### Translation (R162 to R168) -/

/-- What an access does at its element. -/
inductive Access where
  | load | store | atomic | fetch
  deriving DecidableEq, Repr

/-- Whose addresses an access uses: the page-table root and TLB, and the thread whose scratchpad the local window names. -/
structure Space where
  root : Word
  tlb : List TlbEntry
  handle : Nat
  wid : Nat
  deriving DecidableEq, Repr

/-- The resident thread's addresses. -/
def State.space (s : State) : Space :=
  { root := s.core.sup.ptbase, tlb := s.core.tlb, handle := s.core.me.handle, wid := s.core.me.wid }

/-- Bits of a page at a leaf of level `l` (R165). -/
def pageShift (l : Nat) : Nat := 16 + 9 * l

/-- A page-table entry is malformed at level `l` (R166). -/
def pteMalformed (e : Word) (l : Nat) : Bool :=
  let leaf := e.getLsbD 1; let tier := bits e 3 2; let fab := e.getLsbD 9; let pa := bits e 12 40
  bits e 10 2 != 0 || e.getLsbD 2 || tier == 3 || (leaf && decide (3 ≤ l)) || (!leaf && l == 0)
    || (!leaf && (e &&& 0xFFF0000000000FFC) != 0)
    || (leaf && pa.toNat % 2 ^ (pageShift l - 12) != 0)
    || (fab && (tier != 0 || pa != 0)) || (!fab && bits e 52 12 != 0)

/-- The page-table entry at `a` as a walk reads it: a store of software takes effect for the walker only after a `tlb.inv` (R167, R299)
(DEDUCED, log entry 109). -/
def walkEntry (m : Mem) (a : Nat) : Word := ((m.tables.find? fun x => x.word == a / 8).map (·.old)).getD (word (m.hbm.read a 8))

/-- The walk from table `base` at level `l` (R165, R166): the leaf and its level, or the detail of page not present (DEDUCED, log entry 29). -/
def walk (m : Mem) (va : Nat) : Nat → Nat → Except (BitVec 8) (Word × Nat)
  | 0, base =>
    let e := walkEntry m (base + 8 * (va / 2 ^ 16 % 512))
    if !e.getLsbD 0 then .error 0x01 else if pteMalformed e 0 then .error 0x02 else .ok (e, 0)
  | l + 1, base =>
    let e := walkEntry m (base + 8 * (va / 2 ^ pageShift (l + 1) % 512))
    if !e.getLsbD 0 then .error (BitVec.ofNat 8 (16 * (l + 1) + 1))
    else if pteMalformed e (l + 1) then .error (BitVec.ofNat 8 (16 * (l + 1) + 2))
    else if e.getLsbD 1 then .ok (e, l + 1)
    else walk m va l ((bits e 12 40).toNat * 4096)

/-- The cached leaf that covers `va`, with its page size (R167) (DESIGN CHOICE, log entry 24). -/
def tlbFind (va : Nat) : List TlbEntry → Option (Word × Nat)
  | [] => none
  | e :: rest => if va / 2 ^ e.shift = e.va / 2 ^ e.shift then some (e.leaf, e.shift) else tlbFind va rest

/-- The leaf that translates `va`, with its page size: the cached one, else that of a walk. -/
def leafOf (m : Mem) (sp : Space) (va : Nat) : Except (BitVec 8) (Word × Nat) :=
  match tlbFind va sp.tlb with
  | some r => .ok r
  | none => match walk m va 3 ((bits sp.root 12 40).toNat * 4096) with
    | .ok (e, l) => .ok (e, pageShift l)
    | .error d => .error d

/-- First address of the scratchpads of the package (R162). -/
def remoteBase : Nat := 0x000E000000000000

/-- First address of the thread's own scratchpad (R162). -/
def localBase : Nat := 0x000F000000000000

/-- The allotment of a thread. -/
def findAllot (l : List Allot) (handle wid : Nat) : Option Allot := l.find? fun a => a.handle == handle && a.wid == wid

/-- The allotment that a core holds for a node: of several, left by threads that have retired, the latest (DESIGN CHOICE, log entry 98). -/
def findCoreAllot (l : List Allot) (handle core : Nat) : Option Allot := (l.filter fun a => a.handle == handle && a.core == core).getLast?

/-- The allotment that a thread reaches by a core's number: its own on its own core (R163). -/
def namedAllot (l : List Allot) (sp : Space) (core : Nat) : Option Allot :=
  ((findAllot l sp.handle sp.wid).filter fun a => a.core == core).orElse fun _ => findCoreAllot l sp.handle core

/-- The place of a scratchpad byte (R22, R163), or the detail of permission. -/
def spadLoc (part : Part) (l : List Allot) (sp : Space) (va size : Nat) : Except (BitVec 8) Loc :=
  if localBase ≤ va then
    match findAllot l sp.handle sp.wid with
    | none => .error 0x05
    | some a => if va - localBase + size ≤ a.spad then .ok (.spad (a.id * 2 ^ 20 + (va - localBase))) else .error 0x05
  else
    let die := va / 2 ^ 28 % 8; let c := va / 2 ^ 20 % 256; let off := va % 2 ^ 20
    if va / 2 ^ 31 % 2 ^ 17 ≠ 0 ∨ part.coresPerDie ≤ c ∨ part.cores ≤ die * part.coresPerDie + c ∨ 0xF7FFF < off then .error 0x06
    else match namedAllot l sp (die * part.coresPerDie + c) with
      | none => .error 0x06
      | some a => if off + size ≤ a.spad then .ok (.spad (a.id * 2 ^ 20 + off)) else .error 0x06

/-- The right that an access needs, with the detail of permission when it is missing (R166, R168). -/
def rightOf (e : Word) : Access → Bool × BitVec 8
  | .load => (e.getLsbD 5, 0x01)
  | .store => (e.getLsbD 6, 0x02)
  | .atomic => (e.getLsbD 8, 0x03)
  | .fetch => (e.getLsbD 7, 0x08)

/-- R168 order 3 and 4, and the place of the byte, for a leaf of a page of `2 ^ shift` bytes. -/
def leafLoc (e : Word) (shift va : Nat) (k : Access) (addr : Word) : Except Exc Loc :=
  let (ok, d) := rightOf e k
  let tier := bits e 3 2
  if !ok then .error ⟨0x08, d, addr, 0⟩
  else if e.getLsbD 9 then .ok (.fabric (bits e 52 12).toNat va)
  else if tier == 1 then .error ⟨0x09, 0x01, addr, 0⟩
  else if tier == 2 then .error ⟨0x09, 0x02, addr, 0⟩
  else .ok (.hbm ((bits e 12 40).toNat * 4096 + va % 2 ^ shift))

/-- The checks of orders 2 to 4 of R168 for `size` bytes at `va`, which do not cross a page. -/
def locate (part : Part) (m : Mem) (sp : Space) (va : Word) (size : Nat) (k : Access) : Except Exc Loc :=
  let a := va.toNat
  if bits va 52 12 != 0 then .error ⟨0x07, 0x03, va, 0⟩
  else if remoteBase ≤ a then
    match spadLoc part m.allots sp a size with
    | .ok l => .ok l
    | .error d => .error ⟨0x08, d, va, 0⟩
  else match leafOf m sp a with
    | .error d => .error ⟨0x07, d, va, 0⟩
    | .ok (e, shift) =>
      if e.getLsbD 9 && !part.hasFab then .error ⟨0x02, 0x1A, va, 0⟩ else leafLoc e shift a k va

/-- The TLB after the translation of `va` (R167): a walk that found a leaf leaves it cached (DESIGN CHOICE, log entry 24). -/
def cacheLeaf (m : Mem) (sp : Space) (va : Word) : List TlbEntry :=
  if bits va 52 12 != 0 || decide (remoteBase ≤ va.toNat) then sp.tlb
  else match tlbFind va.toNat sp.tlb with
    | some _ => sp.tlb
    | none => match walk m va.toNat 3 ((bits sp.root 12 40).toNat * 4096) with
      | .ok (e, l) => { va := va.toNat, shift := pageShift l, leaf := e } :: sp.tlb
      | .error _ => sp.tlb

/-- The active core has translated `va`. -/
def State.touch (s : State) (va : Word) : State := s.mapCore fun c => { c with tlb := cacheLeaf s.mem s.space va }

/-- An address is aligned to `size` bytes (R168 order 1). -/
def aligned (va : Word) (size : Nat) : Bool := va.toNat % size == 0

/-- Orders 1 to 4 of R168 for one element of the resident thread. -/
def State.locate (s : State) (va : Word) (size : Nat) (k : Access) : Except Halt Loc :=
  if !aligned va size then raiseAt 0x06 (BitVec.ofNat 8 size) va
  else match Machine.locate s.part s.mem s.space va size k with
    | .ok l => .ok l
    | .error e => .error (.exc e)

/-! ### Races (R227 to R239) -/

/-- The agent of an access, its region, its strength, and the regions that happen before it although they are open. -/
structure Agent where
  kind : BitVec 4
  who : BitVec 52
  queue : Nat
  core : Nat
  region : Nat
  strong : Bool
  scope : Scope
  prior : List Nat
  deriving DecidableEq, Repr

/-- The resident thread as an agent (R227). -/
def State.agent (s : State) (strong : Bool) (scope : Scope) : Agent :=
  { kind := 0, who := BitVec.ofNat 52 s.core.id, queue := 0, core := s.core.id, region := s.core.region, strong := strong, scope := scope,
    prior := s.core.seen }

/-- Where an agent is located that is at no core but at the package (R227): above every core number. -/
def atPackage : Nat := 65536

/-- Where an agent is located that is at another package (R227). -/
def atOther (n : Nat) : Nat := atPackage + 1 + n

/-- The package of a location. -/
def packageOf (a : Nat) : Nat := max a atPackage

/-- A strong access made at `a` with scope `sc` includes an agent at `b` (R229). For an agent at a package `.core` and `.die` are as `.pkg`. -/
def includes (part : Part) (sc : Scope) (a b : Nat) : Bool :=
  match sc with
  | .core => a == b || (decide (atPackage ≤ a) && packageOf b == a)
  | .die => (decide (a < atPackage) && decide (b < atPackage) && a / part.coresPerDie == b / part.coresPerDie)
      || (decide (atPackage ≤ a) && packageOf b == a)
  | .pkg => packageOf a == packageOf b
  | .sys => true

/-- The 8-byte word of a place, by its first byte (R236). -/
def wordOf : Loc → Loc
  | .hbm a => .hbm (a / 8 * 8)
  | .cxl a => .cxl (a / 8 * 8)
  | .spad a => .spad (a / 8 * 8)
  | .fabric w o => .fabric w (o / 8 * 8)

/-- The byte address of a place within its memory. -/
def offOf : Loc → Nat
  | .hbm a => a | .cxl a => a | .spad a => a | .fabric _ o => o

/-- Which bytes of its word an access of `size` bytes touches. -/
def byteMask (l : Loc) (size : Nat) : BitVec 8 := BitVec.ofNat 8 ((2 ^ size - 1) * 2 ^ (offOf l % 8))

/-- The summary of a word. -/
def findSummary (w : Loc) : List (Loc × Summary) → Summary
  | [] => ⟨none, []⟩
  | (l, x) :: rest => if l = w then x else findSummary w rest

/-- The earlier party `q`, whose region is open, races with an access of `a` to bytes `mask` (R232, R238): it is another agent,
it touches a common byte, one of the two writes, no queue or other edge orders them, and they are not both strong with
mutually inclusive scopes. -/
def races (part : Part) (isOpen : Nat → Bool) (a : Agent) (write : Bool) (mask : BitVec 8) (q : Party) : Bool :=
  isOpen q.region && q.region != a.region && !(q.queue != 0 && q.queue == a.queue) && !a.prior.contains q.region
    && (if write then (q.rd ||| q.wr) &&& mask != 0 else q.wr &&& mask != 0)
    && !(q.strong && a.strong && includes part q.scope q.core a.core && includes part a.scope a.core q.core)

/-- A line of HBM has stayed in the memory-side cache for the next `n` recorded accesses after number `since` (R236). -/
def lineStays (line since : Nat) : Nat → Bool
  | 0 => true
  | n + 1 => !Config.hbmEvicts line (since + n) && lineStays line since n

/-- The device can catch a race at this place: both agents lie on one die with it (R237), and the summary is still held
(R236). Which HBM lines the memory-side cache holds is a free value (DESIGN CHOICE, log entry 23). What agents at a package do is not recorded,
since it is never caught (DEDUCED, log entry 110). -/
def catchable (m : Mem) (part : Part) (l : Loc) (a : Agent) (q : Party) : Bool :=
  a.core != atPackage && a.core / part.coresPerDie == q.core / part.coresPerDie &&
  match l with
  | .spad k => match m.allots.find? (fun x => x.id == k / 2 ^ 20) with
    | some x => x.core / part.coresPerDie == a.core / part.coresPerDie
    | none => false
  | .hbm k => Config.hbmDie (k / 64) == a.core / part.coresPerDie && lineStays (k / 64) q.since (m.notes - q.since)
  | _ => false

/-- The earlier party of a detected race, if any, with whether its access was a write (R238). -/
def conflict (part : Part) (m : Mem) (a : Agent) (write : Bool) (l : Loc) (size : Nat) : Option (Party × Bool) :=
  let x := findSummary (wordOf l) m.summaries
  let hit (q : Party) := races part (fun r => m.openRegions.contains r) a write (byteMask l size) q && catchable m part l a q
  match x.writer.toList.find? hit with
  | some q => some (q, q.wr &&& byteMask l size != 0)
  | none => match x.readers.find? hit with
    | some q => some (q, q.wr &&& byteMask l size != 0)
    | none => none

/-- `uvia` of the earlier party (R239). -/
def viaOf (q : Party) : Word := q.kind ++ 0#8 ++ q.who

/-- The detail of a memory-model exception (R239): the later access, then the earlier one. -/
def raceDetail (laterWrites earlierWrote : Bool) : BitVec 8 :=
  if !laterWrites then 0x02 else if earlierWrote then 0x03 else 0x01

/-- Order 5 of R168. -/
def raceCheck (part : Part) (m : Mem) (a : Agent) (write : Bool) (l : Loc) (size : Nat) (va : Word) : Except Exc Unit :=
  match conflict part m a write l size with
  | none => .ok ()
  | some (q, w) => .error ⟨0x0B, raceDetail write w, va, viaOf q⟩

/-- The wider of two scopes. -/
def wider (a b : Scope) : Scope :=
  match a, b with
  | .sys, _ => .sys | _, .sys => .sys | .pkg, _ => .pkg | _, .pkg => .pkg | .die, _ => .die | _, .die => .die | .core, .core => .core

/-- What a region did to a word with one more access of it joined: bytes read and written, and one strength and one scope (R236). -/
def Party.join (a b : Party) : Party :=
  { b with strong := a.strong || b.strong,
           scope := if a.strong && b.strong then wider a.scope b.scope else if a.strong then a.scope else b.scope,
           rd := a.rd ||| b.rd, wr := a.wr ||| b.wr }

/-- The summary still holds a record of a word: always in a scratchpad, and in HBM while the line has stayed in the memory-side cache (R236). -/
def stillHeld (m : Mem) (l : Loc) (q : Party) : Bool :=
  match l with
  | .hbm k => lineStays (k / 64) q.since (m.notes + 1 - q.since)
  | _ => true

/-- The records that a summary still holds. -/
def heldSummary (m : Mem) (l : Loc) (x : Summary) : Summary :=
  { writer := x.writer.filter (stillHeld m l), readers := x.readers.filter (stillHeld m l) }

/-- The record of an access, joined with all that its region did to the word before (R236). -/
def Agent.party (a : Agent) (write : Bool) (mask : BitVec 8) (now : Nat) (x : Summary) : Party :=
  let base : Party :=
    { region := a.region, kind := a.kind, who := a.who, queue := a.queue, core := a.core, strong := a.strong,
      scope := a.scope, rd := if write then 0 else mask, wr := if write then mask else 0, since := now }
  { ((x.writer.toList ++ x.readers).filter fun q => q.region == a.region).foldl Party.join base with since := now }

/-- The summary after an access (R236): the last writing region and the four most recent reading regions. -/
def noteSummary (a : Agent) (write : Bool) (mask : BitVec 8) (now : Nat) (x : Summary) : Summary :=
  let p := a.party write mask now x
  let rest := x.readers.filter fun q => q.region != a.region
  if write then { writer := some p, readers := x.readers.map fun q => if q.region = a.region then p else q }
  else { writer := x.writer.map fun q => if q.region = a.region then p else q, readers := (p :: rest).take 4 }

/-- Replace the summary of a word. -/
def putSummary (w : Loc) (y : Summary) : List (Loc × Summary) → List (Loc × Summary)
  | [] => [(w, y)]
  | (l, x) :: rest => if l = w then (l, y) :: rest else (l, x) :: putSummary w y rest

/-- The device notes an access in its summaries. -/
def noteAccess (m : Mem) (a : Agent) (write : Bool) (l : Loc) (size : Nat) : Mem :=
  let held := heldSummary m l (findSummary (wordOf l) m.summaries)
  { m with summaries := putSummary (wordOf l) (noteSummary a write (byteMask l size) (m.notes + 1) held) m.summaries, notes := m.notes + 1 }

/-- The device notes an access that reads and writes. -/
def noteBoth (m : Mem) (a : Agent) (l : Loc) (size : Nat) : Mem := noteAccess (noteAccess m a false l size) a true l size

/-- Regions `l` close. -/
def closeRegions (m : Mem) (l : List Nat) : Mem := { m with openRegions := m.openRegions.filter fun r => !l.contains r }

/-- A new region opens. -/
def openRegion (m : Mem) : Nat × Mem :=
  (m.nextRegion, { m with openRegions := m.nextRegion :: m.openRegions, nextRegion := m.nextRegion + 1 })

/-- The resident thread synchronises: its region closes and the next opens (R235). -/
def State.sync (s : State) : State :=
  let (r, m) := openRegion (closeRegions s.mem [s.core.region])
  ({ s with mem := m }).mapCore fun c => { c with region := r }

/-! ### Performing accesses -/

/-- A place holds an uncorrectable error (R290): the detail of data error. -/
def badAt (m : Mem) (l : Loc) : Option (BitVec 8) :=
  match l with
  | .hbm a => if m.badHbm.contains (a / 32) then some 0x01 else none
  | .spad a => if m.badSpad.contains (a / 8) then some 0x02 else none
  | .cxl a => if m.badCxl.contains (a / 32) then some 0x06 else none
  | .fabric _ _ => none

/-- The `n` bytes from a place up, little-endian. Bytes in a fabric window come with a reply (R349), never from here. -/
def readLoc (m : Mem) (l : Loc) (n : Nat) : Nat :=
  match l with
  | .hbm a => m.hbm.read a n
  | .cxl a => m.cxl.read a n
  | .spad a => m.spad.read a n
  | .fabric _ _ => 0

/-- An error is cleared when a store writes its whole granule (R293). -/
def heal (bad : List Nat) (granule a n : Nat) : List Nat :=
  bad.filter fun g => !(decide (a ≤ g * granule) && decide (g * granule + granule ≤ a + n))

/-- A list of bytes from a place up. -/
def readBytes (m : Mem) (l : Loc) (n : Nat) : List Byte :=
  match l with
  | .hbm a => m.hbm.bytes a n
  | .cxl a => m.cxl.bytes a n
  | .spad a => m.spad.bytes a n
  | .fabric _ _ => List.replicate n 0

/-- Little-endian value of a list of bytes. -/
def valueOfBytes : List Byte → Nat
  | [] => 0
  | b :: rest => b.toNat + 256 * valueOfBytes rest

/-- Two ranges of bytes of one memory overlap. -/
def overlaps (p : Loc) (n : Nat) (q : Loc) (k : Nat) : Bool :=
  match p, q with
  | .hbm a, .hbm b => decide (a < b + k) && decide (b < a + n)
  | .cxl a, .cxl b => decide (a < b + k) && decide (b < a + n)
  | .spad a, .spad b => decide (a < b + k) && decide (b < a + n)
  | _, _ => false

/-- The releases whose bytes a write of `n` bytes at a place leaves (R231). -/
def leftPubs (l : Loc) (n : Nat) (p : List Pub) : List Pub := p.filter fun q => !overlaps q.loc q.size l n

/-- Store a list of bytes from a place up: barrier marks of their words and releases of their bytes go (R257, R240). -/
def writeBytesLoc (m : Mem) (l : Loc) (b : List Byte) : Mem :=
  let m := { m with pubs := leftPubs l b.length m.pubs }
  match l with
  | .hbm a => { m with hbm := m.hbm.writeBytes a b, badHbm := heal m.badHbm 32 a b.length }
  | .cxl a => { m with cxl := m.cxl.writeBytes a b, badCxl := heal m.badCxl 32 a b.length }
  | .spad a => { m with spad := m.spad.writeBytes a b, badSpad := heal m.badSpad 8 a b.length,
                        marks := m.marks.filter fun x => !(decide (a / 8 ≤ x.1) && decide (8 * x.1 < a + b.length)) }
  | .fabric _ _ => m

/-- The agent in progress made the latest store to word `x` that walks do not see. -/
def Mem.holdsLast (m : Mem) (x : Nat) : Bool := ((m.tables.filter fun y => y.word == x).getLast?).any fun y => y.writer == m.writer

/-- The words that walks still read after a store to `n` bytes of HBM from `a` up (R167). -/
def holdTables (m : Mem) (a n : Nat) : List HeldWord :=
  m.tables ++ (((List.range ((a + n + 7) / 8 - a / 8)).map (a / 8 + ·)).filter fun x => !m.holdsLast x).map fun x =>
    ⟨x, word (m.hbm.read (8 * x) 8), m.writer⟩

/-- What walks still do not see once the stores that precede a `tlb.inv` of core `c` are used (R299): of each word the stores after the last one that
the program of that core made, or an agent that has no program order (DEDUCED, log entry 109). -/
def showTables (c : Nat) : List HeldWord → List HeldWord
  | [] => []
  | h :: rest =>
    if (h :: rest).any fun x => x.word == h.word && x.writer.all (· == c) then showTables c rest else h :: showTables c rest

/-- Such a store made by a program: walks still read what it replaces (R167). -/
def writeSoftBytes (m : Mem) (l : Loc) (b : List Byte) : Mem :=
  match l with
  | .hbm a => { writeBytesLoc m l b with tables := holdTables m a b.length }
  | _ => writeBytesLoc m l b

/-- Store the low `n` bytes of `v` from a place up: the word's barrier mark and releases of the bytes go (R257, R240). -/
def writeLoc (m : Mem) (l : Loc) (n v : Nat) : Mem :=
  let m := { m with pubs := leftPubs l n m.pubs }
  match l with
  | .hbm a => { m with hbm := m.hbm.write a v n, tables := holdTables m a n, badHbm := heal m.badHbm 32 a n }
  | .cxl a => { m with cxl := m.cxl.write a v n, badCxl := heal m.badCxl 32 a n }
  | .spad a => { m with spad := m.spad.write a v n, badSpad := heal m.badSpad 8 a n,
                        marks := m.marks.filter fun x => x.1 != a / 8 }
  | .fabric _ _ => m

/-- Every byte of granule `g` of `size` bytes is among some ranges of bytes. -/
def coversGranule (l : List (Nat × Nat)) (size g : Nat) : Bool :=
  (List.range size).all fun i => l.any fun x => decide (x.1 ≤ g * size + i) && decide (g * size + i < x.1 + x.2)

/-- Errors of granules that one store has written whole, element by element, are cleared (R293). -/
def healAll (m : Mem) (l : List (Loc × Nat)) : Mem :=
  let at' (f : Loc → Option Nat) : List (Nat × Nat) := l.filterMap fun x => (f x.1).map fun a => (a, x.2)
  { m with badHbm := m.badHbm.filter fun g => !coversGranule (at' fun q => match q with | .hbm a => some a | _ => none) 32 g
           badCxl := m.badCxl.filter fun g => !coversGranule (at' fun q => match q with | .cxl a => some a | _ => none) 32 g
           badSpad := m.badSpad.filter fun g => !coversGranule (at' fun q => match q with | .spad a => some a | _ => none) 8 g }

/-- One element is read by an agent: races (order 5) and errors in data, then the value. -/
def loadLoc (part : Part) (m : Mem) (a : Agent) (l : Loc) (n : Nat) (va : Word) : Except Exc (Nat × Mem) :=
  match raceCheck part m a false l n va with
  | .error e => .error e
  | .ok _ => match badAt m l with
    | some d => .error ⟨0x11, d, va, 0⟩
    | none => .ok (readLoc m l n, noteAccess m a false l n)

/-- One element is written by an agent: races (order 5), then the store. -/
def storeLoc (part : Part) (m : Mem) (a : Agent) (l : Loc) (n v : Nat) (va : Word) : Except Exc Mem :=
  match raceCheck part m a true l n va with
  | .error e => .error e
  | .ok _ => .ok (noteAccess (writeLoc m l n v) a true l n)

/-- Store by a strong read-modify-write: a publication of the word stays (R231), a barrier mark goes (R258). -/
def rmwLoc (m : Mem) (l : Loc) (n v : Nat) : Mem := { writeLoc m l n v with pubs := m.pubs }

/-- A result of the memories as a result of the instruction. -/
def liftE {α : Type} (r : Except Exc α) : Except Halt α :=
  match r with
  | .ok a => .ok a
  | .error e => .error (.exc e)

/-- An order other than `.wk` is strong (R228). -/
def Order.strong (o : Order) : Bool := o != .wk

/-- An order that closes the region (R235). -/
def Order.syncs : Order → Bool
  | .wk => false | .rlx => false | .acq => true | .rel => true | .sc => true

/-- An order that releases on a store (R228, R231). -/
def Order.releases : Order → Bool
  | .rel => true | .sc => true | .wk => false | .rlx => false | .acq => false

/-- An order that acquires on a load (R228, R231). -/
def Order.acquires : Order → Bool
  | .acq => true | .sc => true | .wk => false | .rlx => false | .rel => false

/-- The releases that a read of `n` bytes at a place reads from. -/
def pubsAt (m : Mem) (l : Loc) (n : Nat) : List Pub := m.pubs.filter fun p => overlaps p.loc p.size l n

/-- Of some releases, those whose scopes are mutually inclusive with that of an acquire at `c` with scope `sc` (R231). -/
def State.heard (s : State) (c : Nat) (sc : Scope) (l : List Pub) : List Pub :=
  l.filter fun p => includes s.part p.scope p.core c && includes s.part sc c p.core

/-- The regions of the commands whose completion stores are among some releases close (R235). -/
def closeHeard (m : Mem) (l : List Pub) : Mem := closeRegions m ((l.filter (·.closes)).map (·.region))

/-- The regions that some releases pass on without closing them. -/
def passedOn (l : List Pub) : List Nat := (l.filter fun p => !p.closes).map (·.region)

/-- The thread synchronises, by an access made at `c` with scope `sc`, with those of the releases whose scopes are mutually inclusive with it
(R231): the regions of the commands whose completion stores they are close, and what the others pass on now happens before the thread's accesses. -/
def State.acquireAt (s : State) (c : Nat) (sc : Scope) (l : List Pub) : State :=
  let l := s.heard c sc l
  (s.mapMem fun m => closeHeard m l).mapCore fun c => { c with seen := c.seen ++ passedOn l }

/-- The same by an access of the thread itself, made at its core. -/
def State.acquire (s : State) (sc : Scope) (l : List Pub) : State := s.acquireAt s.core.id sc l

/-- Open regions of `l`, each passed on at the `n` bytes from place `p` up by a release of its scope at core `c` (DEDUCED, log entry 78). -/
def passOn (m : Mem) (p : Loc) (n c : Nat) (l : List (Nat × Scope)) : Mem :=
  { m with pubs := m.pubs ++ (l.filter fun x => m.openRegions.contains x.1).map fun x => ⟨p, n, x.1, x.2, c, false⟩ }

/-- What a store that is performed at the `n` bytes from place `p` up, at `c`, passes on of `l`: releases of open regions (R231). -/
def passAll (m : Mem) (p : Loc) (n c : Nat) (l : List Passed) : Mem :=
  { m with pubs := m.pubs ++ (l.filter fun x => m.openRegions.contains x.region).map fun x => ⟨p, n, x.region, x.scope, c, x.closes⟩ }

/-- What a strong store of the thread, which leaves for another place or is performed later, passes on (R231, R264). -/
def State.passes (s : State) (sc : Scope) (releases : Bool) : List Passed :=
  (s.core.fenced ++ if releases then s.core.seen.map fun r => (r, sc) else []).map fun x => ⟨x.1, x.2, false⟩

/-- A strong store of `n` bytes by the thread at place `l` passes on what happens before its release-side fences, and before itself when it releases, with
scope `sc` (R231, R264). -/
def State.publish (s : State) (l : Loc) (n : Nat) (sc : Scope) (releases : Bool) : State :=
  s.mapMem fun m => passOn m l n s.core.id (s.core.fenced ++ if releases then s.core.seen.map fun r => (r, sc) else [])

/-- An atomic element operation of the resident thread that is not performed yet. -/
def State.ownOp (s : State) (o : AtomOp) : Bool := o.handle == s.core.me.handle && o.wid == s.core.me.wid

/-- An access of the thread overlaps an atomic element operation that it issued before and that is not performed yet (R253). -/
def State.chained (s : State) (l : Loc) (n : Nat) : Bool := s.mem.ops.any fun o => s.ownOp o && overlaps o.loc o.size l n

/-- Such an access waits. -/
def State.awaitChain (s : State) (l : Loc) (n : Nat) : Except Halt Unit := if s.chained l n then .error .wait else .ok ()

/-- The wait until every atomic element operation of the thread has been performed (R261) (DEDUCED, log entry 32). -/
def State.drainOps (s : State) : Except Halt Unit := if s.mem.ops.any s.ownOp then .error .wait else .ok ()

/-! ### A thread, wherever it is -/

/-- The cores that have state. -/
def State.cores (s : State) : List Core := s.core :: s.parked

/-- The swapped-out thread. -/
def State.away (s : State) (handle wid : Nat) : Option Swapped :=
  s.sched.swapped.find? fun t => t.me.handle == handle && t.me.wid == wid

/-- The core that holds a thread: `core` unless another does. -/
def State.seatOf (s : State) (core handle wid : Nat) : Nat :=
  ((s.cores.find? fun c => c.run != .idle && c.me.handle == handle && c.me.wid == wid).map (·.id)).getD core

/-- A thread that issued on core `core` hears of regions that happen before it, and of releases that it has read for a later fence (R231, R264). -/
def State.hear (s : State) (core handle wid : Nat) (seen : List Nat) (loaded : List Pub) : State :=
  match s.away handle wid with
  | none => s.onCore (s.seatOf core handle wid) fun c => { c with seen := c.seen ++ seen, loaded := c.loaded ++ loaded }
  | some t => { s with sched := { s.sched with swapped := s.sched.swapped.map fun x =>
      if x = t then { t with seen := t.seen ++ seen, loaded := t.loaded ++ loaded } else x } }

/-! ### Fetch (R58, R288) -/

/-- What has become of an access that an instruction of the resident thread, or a command, makes to a fabric window as a whole. -/
def State.farAns (s : State) (handle wid : Nat) (cmd : Option Nat) (write : Bool) (va : Word) (size : Nat) : Option FarAns :=
  (s.fab.far.find? fun x => x.handle == handle && x.wid == wid && x.cmd == cmd && x.write == write && x.va == va && x.size == size).map (·.ans)

/-- The word at `va`, or the fetch fault with the class that the check found (R288). A page with F = 1 raises unit absent on the AMK-2048-L
(R9), which is detail 0x02 here, and elsewhere its words come by the fabric, whose failure is detail 0x15, and 0x11 for a data error (DESIGN CHOICE,
log entry 99). -/
def State.fetchWord (s : State) (va : Word) : Except Exc Word32 :=
  match Machine.locate s.part s.mem s.space va 4 .fetch with
  | .error e => .error ⟨0x17, e.cls, va, s.core.via⟩
  | .ok (.fabric _ _) => match s.farAns s.core.me.handle s.core.me.wid none false va 4 with
    | some (.data b) => .ok (BitVec.ofNat 32 (valueOfBytes b))
    | some (.failed c _) => .error ⟨0x17, c, va, s.core.via⟩
    | some .awaited => .ok 0
    | none => .ok 0
  | .ok l => match badAt s.mem l with
    | some _ => .error ⟨0x17, 0x11, va, s.core.via⟩
    | none => .ok (BitVec.ofNat 32 (readLoc s.mem l 4))

/-! ### Illegal instruction (R75) -/

/-- What `uaddr` holds of an instruction's words: the word, and its prefix above it. -/
def reportWords (w : Word32) (p : Option Word32) : Word := (p.getD 0) ++ w

/-- The PC lies in the captured range of the frame on top of the loop stack (R159). -/
def State.inFrame (s : State) : Bool :=
  match s.loops with
  | e :: _ => e.kind == .frame && decide (e.start.toNat + 8 ≤ s.pc.toNat) && decide (s.pc.toNat ≤ e.last.toNat)
  | [] => false

/-- `uaddr` of illegal instruction at `i`: the words as they stand in memory, which in a frame are not staggered. -/
def State.illegalAddr (s : State) (i : Instr) : Word :=
  match encode i with
  | [w] => if s.inFrame then (match s.fetchWord s.pc with
      | .ok w' => reportWords w' none
      | .error _ => reportWords w none) else reportWords w none
  | [p, w] => if isRepf p then reportWords p none
    else if s.inFrame then (match s.fetchWord (s.pc + 4) with
      | .ok w' => reportWords w' (some p)
      | .error _ => reportWords w (some p)) else reportWords w (some p)
  | _ => 0

/-- Illegal instruction with detail `d` at `i` when the condition holds. -/
def State.illegalIf (s : State) (i : Instr) (b : Bool) (d : BitVec 8) : Except Halt Unit :=
  if b then raiseAt 0x01 d (s.illegalAddr i) else .ok ()

/-- An instruction of a thread that does not own the vector state of the core raises vector-unit owned (R311) (DEDUCED, log entry 25): before
the checks that depend on vector state, and after an illegal instruction that its words alone make (DESIGN CHOICE, log entry 100). -/
def State.needVec (s : State) : Except Halt Unit :=
  raiseIf (s.core.sup.mode == .user && s.core.sup.vown != s.core.me.image) 0x14 0 0

/-- A prefixed instruction whose prefix is the last word of a loop body (R71) (DEDUCED, log entry 30). -/
def State.prefixAtEnd (s : State) : Bool := s.loops.any fun e => e.kind == .loop && e.last == s.pc

end Sys2Proof.Machine
end

