-- ==== Sys2Proof/Machine/Loop.lean ====
section
/-! DEFINITION. Hardware loops and the repeat frame (R152 to R159). -/

namespace Sys2Proof.Machine

/-- The loop stack holds six entries (R27). -/
def loopDepth : Nat := 6

/-- `loop` (R153). A count of 0 goes past the body on a full stack too, where R153's two sentences overlap (DESIGN CHOICE, log entry 88). -/
def execLoop (c : Reg) (n : BitVec 16) (s : State) : Host.Outcome State Fault Refusal :=
  let body : Word := 4 * n.setWidth 64
  if s.x c = 0 then .next ((s.setPc (s.pc + 4 + body)).setVia 0)
  else if loopDepth ≤ s.loops.length then outcome s (raise 0x0C 0x01)
  else .next (((s.setLoops ({ kind := .loop, start := s.pc + 4, last := s.pc + body, remaining := s.x c, index := 0 } :: s.loops)).setPc
    (s.pc + 4)).setVia 0)

/-- `brkl` (R155). At the end word of the entry that it pops it completes in sequence, so that R154 tests the new top. -/
def execBrkl (s : State) : Host.Outcome State Fault Refusal :=
  match s.loops with
  | [] => outcome s (raise 0x0C 0x02)
  | e :: rest => .next (if e.last = s.pc then (s.setLoops rest).complete 4 else (s.setLoops rest).jump (e.last + 4))

/-- `lidx` (R155). -/
def execLidx (d : Reg) (level : BitVec 3) (s : State) : Host.Outcome State Fault Refusal :=
  .next ((s.setX d (match s.loops[level.toNat]? with
    | some e => e.index
    | none => BitVec.allOnes 64)).complete 4)

/-- The strides, window and stages that `repf` gives its frame (R156). -/
structure FrameInfo where
  sd : Nat
  sa : Nat
  sb : Nat
  window : Nat
  stages : List Nat
  deriving DecidableEq, Repr

/-- The stages of `m` captured instructions in the stage map. -/
def stagesOf (map : Word32) (m : Nat) : List Nat := (List.range m).map fun j => map.toNat / 4 ^ j % 4

/-- The frame of a `repf` (R156). -/
def frameInfo (m : BitVec 4) (sd sa sb : BitVec 2) (wz : BitVec 3) (map : Word32) : FrameInfo :=
  { sd := sd.toNat, sa := sa.toNat, sb := sb.toNat, window := 2 ^ wz.toNat, stages := stagesOf map (m.toNat + 1) }

/-- S of R159. -/
def FrameInfo.depth (i : FrameInfo) : Nat := 1 + i.stages.foldl max 0

/-- The staggered specifier g' (R158). -/
def stagger (window q stride g : Nat) : Nat := g - g % window + (g % window + q * stride) % window

/-- R158 on a specifier. -/
def VSpec.stagger (window q stride : Nat) : VSpec → VSpec
  | .v n => .v (BitVec.ofNat 6 (Machine.stagger window q stride n.toNat))
  | .o n => .o n
  | .l0 => .l0
  | .l1 => .l1

/-- R158 on field b. -/
def VB.stagger (window q stride : Nat) : VB → VB
  | .vv s => .vv (VSpec.stagger window q stride s)
  | .vs r => .vs r
  | .vi i => .vi i

/-- The `v` register of a specifier. -/
def VSpec.num : VSpec → List (BitVec 6)
  | .v n => [n]
  | .o _ => []
  | .l0 => []
  | .l1 => []

/-- The `v` register of field b. -/
def VB.num : VB → List (BitVec 6)
  | .vv s => VSpec.num s
  | .vs _ => []
  | .vi _ => []

/-- The `v` registers that a vector instruction names, for R37. -/
def vregsOf : Instr → List (BitVec 6)
  | .add _ _ _ => []
  | .sub _ _ _ => []
  | .mul _ _ _ => []
  | .mulhI _ _ _ => []
  | .mulhN _ _ _ => []
  | .divI _ _ _ => []
  | .divN _ _ _ => []
  | .remI _ _ _ => []
  | .remN _ _ _ => []
  | .and _ _ _ => []
  | .or _ _ _ => []
  | .xor _ _ _ => []
  | .shl _ _ _ => []
  | .shr _ _ _ => []
  | .sra _ _ _ => []
  | .sltI _ _ _ => []
  | .sltN _ _ _ => []
  | .minI _ _ _ => []
  | .maxI _ _ _ => []
  | .minN _ _ _ => []
  | .maxN _ _ _ => []
  | .clz _ _ => []
  | .ctz _ _ => []
  | .popc _ _ => []
  | .sext _ _ _ => []
  | .zext _ _ _ => []
  | .addi _ _ _ => []
  | .andi _ _ _ => []
  | .ori _ _ _ => []
  | .xori _ _ _ => []
  | .shli _ _ _ => []
  | .shri _ _ _ => []
  | .srai _ _ _ => []
  | .lui _ _ => []
  | .ldI8 _ _ _ _ _ => []
  | .ldI16 _ _ _ _ _ => []
  | .ldI32 _ _ _ _ _ => []
  | .ldI64 _ _ _ _ _ => []
  | .ldN8 _ _ _ _ _ => []
  | .ldN16 _ _ _ _ _ => []
  | .ldN32 _ _ _ _ _ => []
  | .st8 _ _ _ _ _ => []
  | .st16 _ _ _ _ _ => []
  | .st32 _ _ _ _ _ => []
  | .st64 _ _ _ _ _ => []
  | .brEq _ _ _ => []
  | .brNe _ _ _ => []
  | .brLt _ _ _ => []
  | .brGe _ _ _ => []
  | .brLtn _ _ _ => []
  | .brGen _ _ _ => []
  | .bpT _ _ => []
  | .bpF _ _ => []
  | .jal _ _ => []
  | .jalr _ _ _ => []
  | .fadd _ _ _ _ => []
  | .fsub _ _ _ _ => []
  | .fmul _ _ _ _ => []
  | .fdiv _ _ _ _ => []
  | .fsqrt _ _ _ => []
  | .fmacc _ _ _ _ => []
  | .fmin _ _ _ => []
  | .fmax _ _ _ => []
  | .fabs _ _ => []
  | .fneg _ _ => []
  | .fcvtFX _ _ _ _ => []
  | .fcvtXF _ _ _ _ => []
  | .fmovX _ _ => []
  | .fmovF _ _ => []
  | .fcmp _ _ _ _ => []
  | .fclass _ _ => []
  | .pand _ _ _ => []
  | .por _ _ _ => []
  | .pxor _ _ _ => []
  | .pnot _ _ => []
  | .ppack _ => []
  | .punpk _ => []
  | .pset _ _ => []
  | .vfadd _ d a b => VSpec.num d ++ VSpec.num a ++ VB.num b
  | .vfsub _ d a b => VSpec.num d ++ VSpec.num a ++ VB.num b
  | .vfmul _ d a b => VSpec.num d ++ VSpec.num a ++ VB.num b
  | .vfdiv _ d a b => VSpec.num d ++ VSpec.num a ++ VB.num b
  | .vfmin _ d a b => VSpec.num d ++ VSpec.num a ++ VB.num b
  | .vfmax _ d a b => VSpec.num d ++ VSpec.num a ++ VB.num b
  | .vfcopysign _ d a b => VSpec.num d ++ VSpec.num a ++ VB.num b
  | .vfaddp _ d a b => VSpec.num d ++ VSpec.num a ++ VB.num b
  | .vfnaddp _ d a b => VSpec.num d ++ VSpec.num a ++ VB.num b
  | .vfsubd _ d a b => VSpec.num d ++ VSpec.num a ++ VB.num b
  | .vfsubp _ d a b => VSpec.num d ++ VSpec.num a ++ VB.num b
  | .vfsqrt _ d a => VSpec.num d ++ VSpec.num a
  | .vfrsqrt _ d a => VSpec.num d ++ VSpec.num a
  | .vfrecip _ d a => VSpec.num d ++ VSpec.num a
  | .vfexp2 _ d a => VSpec.num d ++ VSpec.num a
  | .vflog2 _ d a => VSpec.num d ++ VSpec.num a
  | .vftanh _ d a => VSpec.num d ++ VSpec.num a
  | .vfsig _ d a => VSpec.num d ++ VSpec.num a
  | .vfrelu _ d a => VSpec.num d ++ VSpec.num a
  | .vfabs _ d a => VSpec.num d ++ VSpec.num a
  | .vfneg _ d a => VSpec.num d ++ VSpec.num a
  | .vfround _ d a _ => VSpec.num d ++ VSpec.num a
  | .vadd _ d a b => VSpec.num d ++ VSpec.num a ++ VB.num b
  | .vsub _ d a b => VSpec.num d ++ VSpec.num a ++ VB.num b
  | .vmul _ d a b => VSpec.num d ++ VSpec.num a ++ VB.num b
  | .vmulh _ d a b => VSpec.num d ++ VSpec.num a ++ VB.num b
  | .vand _ d a b => VSpec.num d ++ VSpec.num a ++ VB.num b
  | .vor _ d a b => VSpec.num d ++ VSpec.num a ++ VB.num b
  | .vxor _ d a b => VSpec.num d ++ VSpec.num a ++ VB.num b
  | .vshl _ d a b => VSpec.num d ++ VSpec.num a ++ VB.num b
  | .vshr _ d a b => VSpec.num d ++ VSpec.num a ++ VB.num b
  | .vsra _ d a b => VSpec.num d ++ VSpec.num a ++ VB.num b
  | .vmin _ d a b => VSpec.num d ++ VSpec.num a ++ VB.num b
  | .vmax _ d a b => VSpec.num d ++ VSpec.num a ++ VB.num b
  | .viota _ d => VSpec.num d
  | .vfcmp _ _ _ a b => VSpec.num a ++ VB.num b
  | .vcmp _ _ _ a b => VSpec.num a ++ VB.num b
  | .kand _ _ _ _ => []
  | .kor _ _ _ _ => []
  | .kxor _ _ _ _ => []
  | .knot _ _ _ => []
  | .kpop _ _ _ => []
  | .kfirst _ _ _ => []
  | .kmovX _ _ _ _ => []
  | .kmovKMask _ _ a => VSpec.num a
  | .kmovKVector _ d _ => VSpec.num d
  | .vcvt _ _ d a _ _ => VSpec.num d ++ VSpec.num a
  | .vsumO _ d a _ => VSpec.num d ++ VSpec.num a
  | .vsumF _ d a _ => VSpec.num d ++ VSpec.num a
  | .vmaxr _ d a _ => VSpec.num d ++ VSpec.num a
  | .vminr _ d a _ => VSpec.num d ++ VSpec.num a
  | .vscanO _ d a _ => VSpec.num d ++ VSpec.num a
  | .vperm _ d a b => VSpec.num d ++ VSpec.num a ++ VSpec.num b
  | .vslideup _ d a _ => VSpec.num d ++ VSpec.num a
  | .vslidedn _ d a _ => VSpec.num d ++ VSpec.num a
  | .vcompress _ d a => VSpec.num d ++ VSpec.num a
  | .vexpand _ d a => VSpec.num d ++ VSpec.num a
  | .vbcast _ d a _ => VSpec.num d ++ VSpec.num a
  | .vmov _ d a => VSpec.num d ++ VSpec.num a
  | .vsplat _ d _ => VSpec.num d
  | .dseedRad _ d _ => VSpec.num d
  | .dzero _ d a => VSpec.num d ++ VSpec.num a
  | .dget _ d a _ => VSpec.num d ++ VSpec.num a
  | .dput _ d a _ => VSpec.num d ++ VSpec.num a
  | .dmask _ d _ => VSpec.num d
  | .vld _ _ v _ _ _ _ => VSpec.num v
  | .vldS _ _ v _ _ _ _ _ => VSpec.num v
  | .vld2d _ _ v _ _ _ _ _ => VSpec.num v
  | .vldX _ _ v _ _ vi _ => VSpec.num v ++ [vi]
  | .vldQ _ v _ _ _ _ => VSpec.num v
  | .vrs _ count v _ _ _ => [v] ++ [v + count.setWidth 6]
  | .vst _ _ v _ _ _ => VSpec.num v
  | .vstS _ _ v _ _ _ _ => VSpec.num v
  | .vst2d _ _ v _ _ _ _ => VSpec.num v
  | .vstX _ _ v _ _ vi _ => VSpec.num v ++ [vi]
  | .vstQ _ v _ _ _ _ => VSpec.num v
  | .vsv _ count v _ _ _ => [v] ++ [v + count.setWidth 6]
  | .vamoAdd _ d vi _ _ _ => [d] ++ [vi]
  | .vamoMin _ d vi _ _ _ => [d] ++ [vi]
  | .vamoMax _ d vi _ _ _ => [d] ++ [vi]
  | .vamoSwap _ d vi _ _ _ => [d] ++ [vi]
  | .vamoCas _ d vi _ _ _ => [d] ++ [vi]
  | .amoAdd _ _ _ _ _ _ => []
  | .amoMin _ _ _ _ _ _ => []
  | .amoMax _ _ _ _ _ _ => []
  | .amoSwap _ _ _ _ _ _ => []
  | .amoCas _ _ _ _ _ _ => []
  | .mredAdd _ d vi _ _ _ => [d] ++ [vi]
  | .mredMin _ d vi _ _ _ => [d] ++ [vi]
  | .mredMax _ d vi _ _ _ => [d] ++ [vi]
  | .mxCfg _ _ _ => []
  | .mxZero _ _ => []
  | .mxLdw _ _ _ _ => []
  | .mxSeedw _ _ => []
  | .mxSeedwClr => []
  | .mxStep _ _ _ _ _ => []
  | .mxStepf _ _ _ _ _ => []
  | .mxCommit => []
  | .mxWait _ => []
  | .mxRd v _ _ _ => VSpec.num v
  | .mxWr _ v _ _ => VSpec.num v
  | .cpNd _ => []
  | .cpLin _ _ _ _ => []
  | .qFence _ => []
  | .qFenceW _ => []
  | .cpStat _ _ => []
  | .fence _ _ => []
  | .barInit _ _ _ => []
  | .barArr _ _ _ => []
  | .barWait _ _ => []
  | .barTest _ _ _ => []
  | .waita _ _ _ _ => []
  | .nodeSub _ _ => []
  | .loop _ _ => []
  | .brkl => []
  | .lidx _ _ => []
  | .repf _ _ _ _ _ _ _ => []
  | .mile _ => []
  | .itBind _ _ => []
  | .itWait _ => []
  | .itStat _ _ => []
  | .clProp _ _ _ _ => []
  | .clObj _ _ => []
  | .clWait _ _ _ => []
  | .clStat _ _ _ _ => []
  | .clHold _ _ => []
  | .clFree _ _ => []
  | .mcSt _ _ _ _ => []
  | .mcLdr v _ _ _ _ => [v]
  | .tokSet _ _ _ => []
  | .tokClr _ => []
  | .fabStat _ _ => []
  | .optCard _ => []
  | .optWait _ => []
  | .optStep _ => []
  | .optStat _ _ _ => []
  | .optRout _ _ => []
  | .setvl _ _ _ => []
  | .setshape _ _ => []
  | .vframe _ => []
  | .stread _ _ => []
  | .stwrite _ _ => []
  | .stset _ _ => []
  | .stclr _ _ => []
  | .inncall _ => []
  | .dbgtrap _ => []
  | .eret => []
  | .tlbInv _ _ => []
  | .halt => []
  | .speculationResolve => []
  | .scalarValueReturn => []
  | .registerFillComplete => []
  | .issueWaitRelease => []
  | .threadWake => []
  | .threadRetire => []
  | .nodeComplete => []
  | .dispatchThread => []
  | .priorityAging => []
  | .quantumExpiry => []
  | .preemptionLanding => []
  | .iterationOverrun => []
  | .timingError => []
  | .mxCfgPerform => []
  | .mxZeroPerform => []
  | .mxLdwPerform => []
  | .mxSeedwPerform => []
  | .mxStepPerform => []
  | .batchComplete => []
  | .waybillStart => []
  | .waybillComplete => []
  | .cpLinPerform => []
  | .cardStart => []
  | .cardComplete => []
  | .routineInstall => []
  | .stepIncrement => []
  | .atomicApply => []
  | .porterMoveStart => []
  | .fetchComplete => []
  | .evictComplete => []
  | .dropComplete => []
  | .cxlLinkDown => []
  | .fabricPacketArrival => []
  | .fabricReplyArrival => []
  | .fabricAttemptTimeout => []
  | .abortFlit => []
  | .sequenceExpiry => []
  | .fabricLinkDown => []
  | .fabricLinkUp => []
  | .mcStStart => []
  | .multicastBankAccept => []
  | .multicastBranchForward => []
  | .acknowledgementArrival => []
  | .ftimeReceived => []
  | .ftimeLoss => []
  | .proposalReceived => []
  | .objectionReceived => []
  | .breachNoticeReceived => []
  | .breachNoticeOriginate => []
  | .heldObjectionDiscard => []
  | .claimClose => []
  | .claimForget => []
  | .submit => []
  | .submitReread => []
  | .hostRegisterWrite => []
  | .place => []
  | .group => []
  | .context => []
  | .pool => []
  | .gtable => []
  | .window => []
  | .grant => []
  | .retire => []
  | .tokmap => []
  | .attest => []
  | .measure => []
  | .boot => []
  | .functionLevelReset => []
  | .dieClockLower => []
  | .illegalInstruction => []
  | .preemptionRequest => []
  | .sleepingThreadSwitchOut => []
  | .noclaim => []
  | .uncorrectableError => []
  | .hostWrite => []
  | .hostRegisterRead => []
  | .pinComplete => []
  | .dieClockRaise => []

/-- The captured instruction as iteration q runs it (R158): only fields that hold `v` specifiers are staggered. -/
def staggered (i : FrameInfo) (q : Nat) : Instr → Instr
  | .add d a b => .add d a b
  | .sub d a b => .sub d a b
  | .mul d a b => .mul d a b
  | .mulhI d a b => .mulhI d a b
  | .mulhN d a b => .mulhN d a b
  | .divI d a b => .divI d a b
  | .divN d a b => .divN d a b
  | .remI d a b => .remI d a b
  | .remN d a b => .remN d a b
  | .and d a b => .and d a b
  | .or d a b => .or d a b
  | .xor d a b => .xor d a b
  | .shl d a b => .shl d a b
  | .shr d a b => .shr d a b
  | .sra d a b => .sra d a b
  | .sltI d a b => .sltI d a b
  | .sltN d a b => .sltN d a b
  | .minI d a b => .minI d a b
  | .maxI d a b => .maxI d a b
  | .minN d a b => .minN d a b
  | .maxN d a b => .maxN d a b
  | .clz d a => .clz d a
  | .ctz d a => .ctz d a
  | .popc d a => .popc d a
  | .sext d a w => .sext d a w
  | .zext d a w => .zext d a w
  | .addi d a imm => .addi d a imm
  | .andi d a imm => .andi d a imm
  | .ori d a imm => .ori d a imm
  | .xori d a imm => .xori d a imm
  | .shli d a sh => .shli d a sh
  | .shri d a sh => .shri d a sh
  | .srai d a sh => .srai d a sh
  | .lui d imm => .lui d imm
  | .ldI8 d a sc ord off => .ldI8 d a sc ord off
  | .ldI16 d a sc ord off => .ldI16 d a sc ord off
  | .ldI32 d a sc ord off => .ldI32 d a sc ord off
  | .ldI64 d a sc ord off => .ldI64 d a sc ord off
  | .ldN8 d a sc ord off => .ldN8 d a sc ord off
  | .ldN16 d a sc ord off => .ldN16 d a sc ord off
  | .ldN32 d a sc ord off => .ldN32 d a sc ord off
  | .st8 d a sc ord off => .st8 d a sc ord off
  | .st16 d a sc ord off => .st16 d a sc ord off
  | .st32 d a sc ord off => .st32 d a sc ord off
  | .st64 d a sc ord off => .st64 d a sc ord off
  | .brEq a b off => .brEq a b off
  | .brNe a b off => .brNe a b off
  | .brLt a b off => .brLt a b off
  | .brGe a b off => .brGe a b off
  | .brLtn a b off => .brLtn a b off
  | .brGen a b off => .brGen a b off
  | .bpT p off => .bpT p off
  | .bpF p off => .bpF p off
  | .jal d off => .jal d off
  | .jalr d a off => .jalr d a off
  | .fadd d a b rm => .fadd d a b rm
  | .fsub d a b rm => .fsub d a b rm
  | .fmul d a b rm => .fmul d a b rm
  | .fdiv d a b rm => .fdiv d a b rm
  | .fsqrt d a rm => .fsqrt d a rm
  | .fmacc d a b rm => .fmacc d a b rm
  | .fmin d a b => .fmin d a b
  | .fmax d a b => .fmax d a b
  | .fabs d a => .fabs d a
  | .fneg d a => .fneg d a
  | .fcvtFX d a t rm => .fcvtFX d a t rm
  | .fcvtXF d a t rm => .fcvtXF d a t rm
  | .fmovX d a => .fmovX d a
  | .fmovF d a => .fmovF d a
  | .fcmp d a b c => .fcmp d a b c
  | .fclass d a => .fclass d a
  | .pand d a b => .pand d a b
  | .por d a b => .por d a b
  | .pxor d a b => .pxor d a b
  | .pnot d a => .pnot d a
  | .ppack d => .ppack d
  | .punpk a => .punpk a
  | .pset d val => .pset d val
  | .vfadd p d a b => .vfadd p (VSpec.stagger i.window q i.sd d) (VSpec.stagger i.window q i.sa a) (VB.stagger i.window q i.sb b)
  | .vfsub p d a b => .vfsub p (VSpec.stagger i.window q i.sd d) (VSpec.stagger i.window q i.sa a) (VB.stagger i.window q i.sb b)
  | .vfmul p d a b => .vfmul p (VSpec.stagger i.window q i.sd d) (VSpec.stagger i.window q i.sa a) (VB.stagger i.window q i.sb b)
  | .vfdiv p d a b => .vfdiv p (VSpec.stagger i.window q i.sd d) (VSpec.stagger i.window q i.sa a) (VB.stagger i.window q i.sb b)
  | .vfmin p d a b => .vfmin p (VSpec.stagger i.window q i.sd d) (VSpec.stagger i.window q i.sa a) (VB.stagger i.window q i.sb b)
  | .vfmax p d a b => .vfmax p (VSpec.stagger i.window q i.sd d) (VSpec.stagger i.window q i.sa a) (VB.stagger i.window q i.sb b)
  | .vfcopysign p d a b => .vfcopysign p (VSpec.stagger i.window q i.sd d) (VSpec.stagger i.window q i.sa a) (VB.stagger i.window q i.sb b)
  | .vfaddp p d a b => .vfaddp p (VSpec.stagger i.window q i.sd d) (VSpec.stagger i.window q i.sa a) (VB.stagger i.window q i.sb b)
  | .vfnaddp p d a b => .vfnaddp p (VSpec.stagger i.window q i.sd d) (VSpec.stagger i.window q i.sa a) (VB.stagger i.window q i.sb b)
  | .vfsubd p d a b => .vfsubd p (VSpec.stagger i.window q i.sd d) (VSpec.stagger i.window q i.sa a) (VB.stagger i.window q i.sb b)
  | .vfsubp p d a b => .vfsubp p (VSpec.stagger i.window q i.sd d) (VSpec.stagger i.window q i.sa a) (VB.stagger i.window q i.sb b)
  | .vfsqrt p d a => .vfsqrt p (VSpec.stagger i.window q i.sd d) (VSpec.stagger i.window q i.sa a)
  | .vfrsqrt p d a => .vfrsqrt p (VSpec.stagger i.window q i.sd d) (VSpec.stagger i.window q i.sa a)
  | .vfrecip p d a => .vfrecip p (VSpec.stagger i.window q i.sd d) (VSpec.stagger i.window q i.sa a)
  | .vfexp2 p d a => .vfexp2 p (VSpec.stagger i.window q i.sd d) (VSpec.stagger i.window q i.sa a)
  | .vflog2 p d a => .vflog2 p (VSpec.stagger i.window q i.sd d) (VSpec.stagger i.window q i.sa a)
  | .vftanh p d a => .vftanh p (VSpec.stagger i.window q i.sd d) (VSpec.stagger i.window q i.sa a)
  | .vfsig p d a => .vfsig p (VSpec.stagger i.window q i.sd d) (VSpec.stagger i.window q i.sa a)
  | .vfrelu p d a => .vfrelu p (VSpec.stagger i.window q i.sd d) (VSpec.stagger i.window q i.sa a)
  | .vfabs p d a => .vfabs p (VSpec.stagger i.window q i.sd d) (VSpec.stagger i.window q i.sa a)
  | .vfneg p d a => .vfneg p (VSpec.stagger i.window q i.sd d) (VSpec.stagger i.window q i.sa a)
  | .vfround p d a rm => .vfround p (VSpec.stagger i.window q i.sd d) (VSpec.stagger i.window q i.sa a) rm
  | .vadd p d a b => .vadd p (VSpec.stagger i.window q i.sd d) (VSpec.stagger i.window q i.sa a) (VB.stagger i.window q i.sb b)
  | .vsub p d a b => .vsub p (VSpec.stagger i.window q i.sd d) (VSpec.stagger i.window q i.sa a) (VB.stagger i.window q i.sb b)
  | .vmul p d a b => .vmul p (VSpec.stagger i.window q i.sd d) (VSpec.stagger i.window q i.sa a) (VB.stagger i.window q i.sb b)
  | .vmulh p d a b => .vmulh p (VSpec.stagger i.window q i.sd d) (VSpec.stagger i.window q i.sa a) (VB.stagger i.window q i.sb b)
  | .vand p d a b => .vand p (VSpec.stagger i.window q i.sd d) (VSpec.stagger i.window q i.sa a) (VB.stagger i.window q i.sb b)
  | .vor p d a b => .vor p (VSpec.stagger i.window q i.sd d) (VSpec.stagger i.window q i.sa a) (VB.stagger i.window q i.sb b)
  | .vxor p d a b => .vxor p (VSpec.stagger i.window q i.sd d) (VSpec.stagger i.window q i.sa a) (VB.stagger i.window q i.sb b)
  | .vshl p d a b => .vshl p (VSpec.stagger i.window q i.sd d) (VSpec.stagger i.window q i.sa a) (VB.stagger i.window q i.sb b)
  | .vshr p d a b => .vshr p (VSpec.stagger i.window q i.sd d) (VSpec.stagger i.window q i.sa a) (VB.stagger i.window q i.sb b)
  | .vsra p d a b => .vsra p (VSpec.stagger i.window q i.sd d) (VSpec.stagger i.window q i.sa a) (VB.stagger i.window q i.sb b)
  | .vmin p d a b => .vmin p (VSpec.stagger i.window q i.sd d) (VSpec.stagger i.window q i.sa a) (VB.stagger i.window q i.sb b)
  | .vmax p d a b => .vmax p (VSpec.stagger i.window q i.sd d) (VSpec.stagger i.window q i.sa a) (VB.stagger i.window q i.sb b)
  | .viota p d => .viota p (VSpec.stagger i.window q i.sd d)
  | .vfcmp p c kd a b => .vfcmp p c kd (VSpec.stagger i.window q i.sa a) (VB.stagger i.window q i.sb b)
  | .vcmp p c kd a b => .vcmp p c kd (VSpec.stagger i.window q i.sa a) (VB.stagger i.window q i.sb b)
  | .kand p d a b => .kand p d a b
  | .kor p d a b => .kor p d a b
  | .kxor p d a b => .kxor p d a b
  | .knot p d a => .knot p d a
  | .kpop p d a => .kpop p d a
  | .kfirst p d a => .kfirst p d a
  | .kmovX p d a b => .kmovX p d a b
  | .kmovKMask p d a => .kmovKMask p d (VSpec.stagger i.window q i.sa a)
  | .kmovKVector p d a => .kmovKVector p (VSpec.stagger i.window q i.sd d) a
  | .vcvt p t d a src rm => .vcvt p t (VSpec.stagger i.window q i.sd d) (VSpec.stagger i.window q i.sa a) src rm
  | .vsumO p d a seg => .vsumO p (VSpec.stagger i.window q i.sd d) (VSpec.stagger i.window q i.sa a) seg
  | .vsumF p d a seg => .vsumF p (VSpec.stagger i.window q i.sd d) (VSpec.stagger i.window q i.sa a) seg
  | .vmaxr p d a seg => .vmaxr p (VSpec.stagger i.window q i.sd d) (VSpec.stagger i.window q i.sa a) seg
  | .vminr p d a seg => .vminr p (VSpec.stagger i.window q i.sd d) (VSpec.stagger i.window q i.sa a) seg
  | .vscanO p d a seg => .vscanO p (VSpec.stagger i.window q i.sd d) (VSpec.stagger i.window q i.sa a) seg
  | .vperm p d a b => .vperm p (VSpec.stagger i.window q i.sd d) (VSpec.stagger i.window q i.sa a) (VSpec.stagger i.window q i.sb b)
  | .vslideup p d a b => .vslideup p (VSpec.stagger i.window q i.sd d) (VSpec.stagger i.window q i.sa a) b
  | .vslidedn p d a b => .vslidedn p (VSpec.stagger i.window q i.sd d) (VSpec.stagger i.window q i.sa a) b
  | .vcompress p d a => .vcompress p (VSpec.stagger i.window q i.sd d) (VSpec.stagger i.window q i.sa a)
  | .vexpand p d a => .vexpand p (VSpec.stagger i.window q i.sd d) (VSpec.stagger i.window q i.sa a)
  | .vbcast p d a b => .vbcast p (VSpec.stagger i.window q i.sd d) (VSpec.stagger i.window q i.sa a) b
  | .vmov p d a => .vmov p (VSpec.stagger i.window q i.sd d) (VSpec.stagger i.window q i.sa a)
  | .vsplat p d b => .vsplat p (VSpec.stagger i.window q i.sd d) b
  | .dseedRad p d x => .dseedRad p (VSpec.stagger i.window q i.sd d) x
  | .dzero p d a => .dzero p (VSpec.stagger i.window q i.sd d) (VSpec.stagger i.window q i.sa a)
  | .dget p d a b => .dget p (VSpec.stagger i.window q i.sd d) (VSpec.stagger i.window q i.sa a) b
  | .dput p d a b => .dput p (VSpec.stagger i.window q i.sd d) (VSpec.stagger i.window q i.sa a) b
  | .dmask p d x => .dmask p (VSpec.stagger i.window q i.sd d) x
  | .vld p t v base bnd ff loc => .vld p t v base bnd ff loc
  | .vldS p t v base bnd ff xs loc => .vldS p t v base bnd ff xs loc
  | .vld2d p t v base bnd ff xs loc => .vld2d p t v base bnd ff xs loc
  | .vldX p t v base bnd vi loc => .vldX p t v base bnd vi loc
  | .vldQ p v base ff xs loc => .vldQ p v base ff xs loc
  | .vrs p count v base slot loc => .vrs p count v base slot loc
  | .vst p t v base bnd loc => .vst p t v base bnd loc
  | .vstS p t v base bnd xs loc => .vstS p t v base bnd xs loc
  | .vst2d p t v base bnd xs loc => .vst2d p t v base bnd xs loc
  | .vstX p t v base bnd vi loc => .vstX p t v base bnd vi loc
  | .vstQ p v base val xs loc => .vstQ p v base val xs loc
  | .vsv p count v base slot loc => .vsv p count v base slot loc
  | .vamoAdd p d vi base t loc => .vamoAdd p d vi base t loc
  | .vamoMin p d vi base t loc => .vamoMin p d vi base t loc
  | .vamoMax p d vi base t loc => .vamoMax p d vi base t loc
  | .vamoSwap p d vi base t loc => .vamoSwap p d vi base t loc
  | .vamoCas p d vi base t loc => .vamoCas p d vi base t loc
  | .amoAdd d a b t ord sc => .amoAdd d a b t ord sc
  | .amoMin d a b t ord sc => .amoMin d a b t ord sc
  | .amoMax d a b t ord sc => .amoMax d a b t ord sc
  | .amoSwap d a b t ord sc => .amoSwap d a b t ord sc
  | .amoCas d a b t ord sc => .amoCas d a b t ord sc
  | .mredAdd p d vi base t loc => .mredAdd p d vi base t loc
  | .mredMin p d vi base t loc => .mredMin p d vi base t loc
  | .mredMax p d vi base t loc => .mredMax p d vi base t loc
  | .mxCfg rows cols img => .mxCfg rows cols img
  | .mxZero t b => .mxZero t b
  | .mxLdw k b s t => .mxLdw k b s t
  | .mxSeedw j off => .mxSeedw j off
  | .mxSeedwClr => .mxSeedwClr
  | .mxStep t a k d ty => .mxStep t a k d ty
  | .mxStepf t a k d ty => .mxStepf t a k d ty
  | .mxCommit => .mxCommit
  | .mxWait n => .mxWait n
  | .mxRd v t ta r => .mxRd v t ta r
  | .mxWr t v r ta => .mxWr t v r ta
  | .cpNd w => .cpNd w
  | .cpLin d s n c => .cpLin d s n c
  | .qFence mask => .qFence mask
  | .qFenceW mask => .qFenceW mask
  | .cpStat d sel => .cpStat d sel
  | .fence kind sc => .fence kind sc
  | .barInit b n sc => .barInit b n sc
  | .barArr d b rlx => .barArr d b rlx
  | .barWait b t => .barWait b t
  | .barTest d b t => .barTest d b t
  | .waita a b sc c => .waita a b sc c
  | .nodeSub d r => .nodeSub d r
  | .loop c n => .loop c n
  | .brkl => .brkl
  | .lidx d level => .lidx d level
  | .repf c m sd sa sb wz map => .repf c m sd sa sb wz map
  | .mile a => .mile a
  | .itBind a n => .itBind a n
  | .itWait i => .itWait i
  | .itStat d i => .itStat d i
  | .clProp h key val g => .clProp h key val g
  | .clObj h g => .clObj h g
  | .clWait d h g => .clWait d h g
  | .clStat d h sel g => .clStat d h sel g
  | .clHold key g => .clHold key g
  | .clFree key g => .clFree key g
  | .mcSt g a k lenc => .mcSt g a k lenc
  | .mcLdr v s g op t => .mcLdr v s g op t
  | .tokSet i t w => .tokSet i t w
  | .tokClr i => .tokClr i
  | .fabStat d sel => .fabStat d sel
  | .optCard c => .optCard c
  | .optWait n => .optWait n
  | .optStep c => .optStep c
  | .optStat d s sel => .optStat d s sel
  | .optRout i a => .optRout i a
  | .setvl d a w => .setvl d a w
  | .setshape n k => .setshape n k
  | .vframe n => .vframe n
  | .stread d sreg => .stread d sreg
  | .stwrite a sreg => .stwrite a sreg
  | .stset a sreg => .stset a sreg
  | .stclr a sreg => .stclr a sreg
  | .inncall n => .inncall n
  | .dbgtrap n => .dbgtrap n
  | .eret => .eret
  | .tlbInv a kind => .tlbInv a kind
  | .halt => .halt
  | .speculationResolve => .speculationResolve
  | .scalarValueReturn => .scalarValueReturn
  | .registerFillComplete => .registerFillComplete
  | .issueWaitRelease => .issueWaitRelease
  | .threadWake => .threadWake
  | .threadRetire => .threadRetire
  | .nodeComplete => .nodeComplete
  | .dispatchThread => .dispatchThread
  | .priorityAging => .priorityAging
  | .quantumExpiry => .quantumExpiry
  | .preemptionLanding => .preemptionLanding
  | .iterationOverrun => .iterationOverrun
  | .timingError => .timingError
  | .mxCfgPerform => .mxCfgPerform
  | .mxZeroPerform => .mxZeroPerform
  | .mxLdwPerform => .mxLdwPerform
  | .mxSeedwPerform => .mxSeedwPerform
  | .mxStepPerform => .mxStepPerform
  | .batchComplete => .batchComplete
  | .waybillStart => .waybillStart
  | .waybillComplete => .waybillComplete
  | .cpLinPerform => .cpLinPerform
  | .cardStart => .cardStart
  | .cardComplete => .cardComplete
  | .routineInstall => .routineInstall
  | .stepIncrement => .stepIncrement
  | .atomicApply => .atomicApply
  | .porterMoveStart => .porterMoveStart
  | .fetchComplete => .fetchComplete
  | .evictComplete => .evictComplete
  | .dropComplete => .dropComplete
  | .cxlLinkDown => .cxlLinkDown
  | .fabricPacketArrival => .fabricPacketArrival
  | .fabricReplyArrival => .fabricReplyArrival
  | .fabricAttemptTimeout => .fabricAttemptTimeout
  | .abortFlit => .abortFlit
  | .sequenceExpiry => .sequenceExpiry
  | .fabricLinkDown => .fabricLinkDown
  | .fabricLinkUp => .fabricLinkUp
  | .mcStStart => .mcStStart
  | .multicastBankAccept => .multicastBankAccept
  | .multicastBranchForward => .multicastBranchForward
  | .acknowledgementArrival => .acknowledgementArrival
  | .ftimeReceived => .ftimeReceived
  | .ftimeLoss => .ftimeLoss
  | .proposalReceived => .proposalReceived
  | .objectionReceived => .objectionReceived
  | .breachNoticeReceived => .breachNoticeReceived
  | .breachNoticeOriginate => .breachNoticeOriginate
  | .heldObjectionDiscard => .heldObjectionDiscard
  | .claimClose => .claimClose
  | .claimForget => .claimForget
  | .submit => .submit
  | .submitReread => .submitReread
  | .hostRegisterWrite => .hostRegisterWrite
  | .place => .place
  | .group => .group
  | .context => .context
  | .pool => .pool
  | .gtable => .gtable
  | .window => .window
  | .grant => .grant
  | .retire => .retire
  | .tokmap => .tokmap
  | .attest => .attest
  | .measure => .measure
  | .boot => .boot
  | .functionLevelReset => .functionLevelReset
  | .dieClockLower => .dieClockLower
  | .illegalInstruction => .illegalInstruction
  | .preemptionRequest => .preemptionRequest
  | .sleepingThreadSwitchOut => .sleepingThreadSwitchOut
  | .noclaim => .noclaim
  | .uncorrectableError => .uncorrectableError
  | .hostWrite => .hostWrite
  | .hostRegisterRead => .hostRegisterRead
  | .pinComplete => .pinComplete
  | .dieClockRaise => .dieClockRaise

/-- An instruction that a frame may capture (R157): majors 0x08 to 0x0F, without a trap mark. -/
def capturable (w : Word32) (pfx : Option Word32) : Bool :=
  decide (0x08 ≤ (major w).toNat) && decide ((major w).toNat ≤ 0x0F)
    && (match pfx with
      | none => true
      | some p => bits p 20 3 == 0)

/-- The captured instructions from address `a` on: for each its address, its instruction if the words are one, and whether
R157 lets a frame capture it (DEDUCED, log entry 79). -/
def State.captured (s : State) (a : Word) : Nat → Except Exc (List (Word × Option Instr × Bool))
  | 0 => .ok []
  | n + 1 =>
    match s.fetchWord a with
    | .error e => .error e
    | .ok w =>
      if isPrefix w then
        match s.fetchWord (a + 4) with
        | .error e => .error e
        | .ok w2 => match s.captured (a + 8) n with
          | .error e => .error e
          | .ok rest => .ok ((a, (match decode w w2 with | .ok i => some i | .illegal _ _ => none), capturable w2 (some w)) :: rest)
      else match s.captured (a + 4) n with
        | .error e => .error e
        | .ok rest => .ok ((a, (match decode w 0 with | .ok i => some i | .illegal _ _ => none), capturable w none) :: rest)

/-- Bytes of a captured instruction. -/
def capturedLen (a : Word) (next : Word) : Word := next - a

/-- The address after the captured range, from the last captured instruction. -/
def State.afterCaptured (s : State) : List (Word × Option Instr × Bool) → Word
  | [] => s.pc + 8
  | [(a, _, _)] => (match s.fetchWord a with
    | .ok w => if isPrefix w then a + 8 else a + 4
    | .error _ => a + 4)
  | _ :: rest => s.afterCaptured rest

/-- An FmtV word with the specifiers of its fields d, a and, in the VV form, b staggered for iteration `q` (R158). -/
def staggerWord (i : FrameInfo) (q : Nat) (w : Word32) : Word32 :=
  let g (stride : Nat) (f : BitVec 7) : BitVec 7 := if f.toNat < 64 then BitVec.ofNat 7 (stagger i.window q stride f.toNat) else f
  bits w 21 11 ++ g i.sd (bits w 14 7) ++ g i.sa (bits w 7 7) ++ (if bits w 25 2 == 0 then g i.sb (bits w 0 7) else bits w 0 7)

/-- The `v` registers that the words at `a`, which are no instruction, name in iteration `q`. -/
def State.strayRegs (s : State) (i : FrameInfo) (q : Nat) (a : Word) : List (BitVec 6) :=
  let named (w next : Word32) : List (BitVec 6) := match decode w next with | .ok ins => vregsOf ins | .illegal _ l => l
  match s.fetchWord a with
  | .error _ => []
  | .ok w =>
    if isPrefix w then (match s.fetchWord (a + 4) with
      | .error _ => []
      | .ok w2 => named w (staggerWord i q w2))
    else named (staggerWord i q w) 0

/-- The `v` registers that a captured instruction names in iteration `q` (R158). -/
def State.namedAt (s : State) (i : FrameInfo) (q : Nat) (x : Word × Option Instr × Bool) : List (BitVec 6) :=
  match x.2.1 with
  | some ins => vregsOf (staggered i q ins)
  | none => s.strayRegs i q x.1

/-- Some staggered `v` register lies at or above N in an iteration that the frame runs (R157). -/
def State.staggersBeyond (s : State) (i : FrameInfo) (c : Nat) (l : List (Word × Option Instr × Bool)) : Bool :=
  (List.range (min c i.window)).any fun q => l.any fun x => (s.namedAt i q x).any fun v => decide (s.core.vec.shapeN ≤ v.toNat)

/-- The index among the captured instructions of the one at `pc`, or their number when there is none. -/
def indexAt (pc : Word) : List (Word × Option Instr × Bool) → Nat
  | [] => 0
  | (a, _, _) :: rest => if a = pc then 0 else 1 + indexAt pc rest

/-- Instruction j runs in replay h for count c: 0 ≤ h − s_j < c (R159). -/
def activeAt (i : FrameInfo) (c h j : Nat) : Bool :=
  match i.stages[j]? with
  | some st => decide (st ≤ h) && decide (h - st < c)
  | none => false

/-- The first instruction of a replay at or after `j` that runs, with its address. -/
def nextActive (i : FrameInfo) (c h : Nat) : Nat → List (Word × Option Instr × Bool) → Option Word
  | _, [] => none
  | j, (a, _, _) :: rest => if activeAt i c h j then some a else nextActive i c h (j + 1) rest

/-- Where the frame goes on after the captured instructions before index `j` of replay `h`: to the next one that runs, in this
replay or a later one, or out of the frame (R159). At least one instruction runs in each of the next S + 1 replays or none
is left, so that fuel S + 1 is enough. -/
def frameNext (i : FrameInfo) (c : Nat) (l : List (Word × Option Instr × Bool)) : Nat → Nat → Nat → Option (Word × Nat)
  | 0, _, _ => none
  | fuel + 1, h, j =>
    if c + i.depth - 1 ≤ h then none
    else match nextActive i c h j (l.drop j) with
      | some a => some (a, h)
      | none => frameNext i c l fuel (h + 1) 0

/-- The `repf` words of the frame on top and what they capture (R159: re-read from Top.start). -/
def State.frameOf (s : State) (e : LoopEntry) : Except Exc (FrameInfo × List (Word × Option Instr × Bool)) :=
  match s.fetchWord e.start, s.fetchWord (e.start + 4) with
  | .error x, _ => .error x
  | _, .error x => .error x
  | .ok w, .ok m =>
    let n := (bits w 12 4).toNat + 1
    match s.captured (e.start + 8) n with
    | .error x => .error x
    | .ok l => .ok (frameInfo (bits w 12 4) (bits w 10 2) (bits w 8 2) (bits w 6 2) (bits w 3 3) m, l)

/-- After a captured instruction has completed with the PC behind it, or right after the frame is pushed: on to the next one
that runs, or out of the frame, whose completion counts as that of its last captured word (R159) (DEDUCED, log entry 79). -/
def State.settle (s : State) : State :=
  match s.loops with
  | [] => s
  | e :: rest =>
    if e.kind = .frame ∧ e.start.toNat + 8 ≤ s.pc.toNat ∧ s.pc.toNat ≤ e.last.toNat + 4 then
      match s.frameOf e with
      | .error _ => s
      | .ok (i, l) =>
        match frameNext i e.remaining.toNat l (i.depth + 2) e.index.toNat (indexAt s.pc l) with
        | some (a, h) => ((s.setLoops ({ e with index := word h } :: rest)).setPc a).setLooped (word h != e.index)
        | none => ((s.setLoops rest).setPc e.last |>.complete 4).setLooped true
    else s

/-- `repf` (R157, R159): the checks at issue, then the frame is pushed and the first captured instruction that runs is next. A frame with count 0 runs
nothing, and its end does not count for R154 as the completion of the last captured word (DESIGN CHOICE, log entry 114). -/
def execRepf (c : Reg) (m : BitVec 4) (sd sa sb : BitVec 2) (wz : BitVec 3) (map : Word32) (s : State) :
    Host.Outcome State Fault Refusal :=
  let ins := Instr.repf c m sd sa sb wz map
  let i := frameInfo m sd sa sb wz map
  outcome s do
    let l ← liftE (s.captured (s.pc + 8) (m.toNat + 1))
    s.illegalIf ins (l.any (fun x => !x.2.2) || s.staggersBeyond i (s.x c).toNat l) 0x06
    let after := s.afterCaptured l
    if loopDepth ≤ s.loops.length then raise 0x0C 0x01
    else if s.x c = 0 then .ok ((s.setPc after).setVia 0)
    else
      let e : LoopEntry := { kind := .frame, start := s.pc, last := after - 4, remaining := s.x c, index := 0 }
      .ok (((s.setLoops (e :: s.loops)).setPc (s.pc + 8)).setVia 0).settle

end Sys2Proof.Machine
end

