-- ==== Sys2Proof/Machine/Issue.lean ====
section
/-! DEFINITION. Issue: fetching and decoding the instruction at the PC, staggering it in a frame, the wait for pending `x`
registers (R38), and what the end of an issue counts (R306). -/

namespace Sys2Proof.Machine

/-- The `x` register of an integer operand b. -/
def VB.xreg : VB → List Reg
  | .vv _ => []
  | .vs r => [r]
  | .vi _ => []

/-- The `x` register of an operand b. -/
def XB.xreg : XB → List Reg
  | .vs r => [r]
  | .vi _ => []

/-- `vsplat` has a floating-point type, so that its VS operand is an `f` register (R132). -/
def splatFp (p : Option VPfx) : Bool :=
  match p with
  | none => true
  | some q => match q.ty with
    | none => true
    | some t => t.isFp

/-- The `x` registers that an instruction reads or writes, for R38. -/
def xregsOf : Instr → List Reg
  | .add d a b => [d] ++ [a] ++ [b]
  | .sub d a b => [d] ++ [a] ++ [b]
  | .mul d a b => [d] ++ [a] ++ [b]
  | .mulhI d a b => [d] ++ [a] ++ [b]
  | .mulhN d a b => [d] ++ [a] ++ [b]
  | .divI d a b => [d] ++ [a] ++ [b]
  | .divN d a b => [d] ++ [a] ++ [b]
  | .remI d a b => [d] ++ [a] ++ [b]
  | .remN d a b => [d] ++ [a] ++ [b]
  | .and d a b => [d] ++ [a] ++ [b]
  | .or d a b => [d] ++ [a] ++ [b]
  | .xor d a b => [d] ++ [a] ++ [b]
  | .shl d a b => [d] ++ [a] ++ [b]
  | .shr d a b => [d] ++ [a] ++ [b]
  | .sra d a b => [d] ++ [a] ++ [b]
  | .sltI d a b => [d] ++ [a] ++ [b]
  | .sltN d a b => [d] ++ [a] ++ [b]
  | .minI d a b => [d] ++ [a] ++ [b]
  | .maxI d a b => [d] ++ [a] ++ [b]
  | .minN d a b => [d] ++ [a] ++ [b]
  | .maxN d a b => [d] ++ [a] ++ [b]
  | .clz d a => [d] ++ [a]
  | .ctz d a => [d] ++ [a]
  | .popc d a => [d] ++ [a]
  | .sext d a _ => [d] ++ [a]
  | .zext d a _ => [d] ++ [a]
  | .addi d a _ => [d] ++ [a]
  | .andi d a _ => [d] ++ [a]
  | .ori d a _ => [d] ++ [a]
  | .xori d a _ => [d] ++ [a]
  | .shli d a _ => [d] ++ [a]
  | .shri d a _ => [d] ++ [a]
  | .srai d a _ => [d] ++ [a]
  | .lui d _ => [d]
  | .ldI8 d a _ _ _ => [d] ++ [a]
  | .ldI16 d a _ _ _ => [d] ++ [a]
  | .ldI32 d a _ _ _ => [d] ++ [a]
  | .ldI64 d a _ _ _ => [d] ++ [a]
  | .ldN8 d a _ _ _ => [d] ++ [a]
  | .ldN16 d a _ _ _ => [d] ++ [a]
  | .ldN32 d a _ _ _ => [d] ++ [a]
  | .st8 d a _ _ _ => [d] ++ [a]
  | .st16 d a _ _ _ => [d] ++ [a]
  | .st32 d a _ _ _ => [d] ++ [a]
  | .st64 d a _ _ _ => [d] ++ [a]
  | .brEq a b _ => [a] ++ [b]
  | .brNe a b _ => [a] ++ [b]
  | .brLt a b _ => [a] ++ [b]
  | .brGe a b _ => [a] ++ [b]
  | .brLtn a b _ => [a] ++ [b]
  | .brGen a b _ => [a] ++ [b]
  | .bpT _ _ => []
  | .bpF _ _ => []
  | .jal d _ => [d]
  | .jalr d a _ => [d] ++ [a]
  | .fadd _ _ _ _ => []
  | .fsub _ _ _ _ => []
  | .fmul _ _ _ _ => []
  | .fdiv _ _ _ _ => []
  | .fsqrt _ _ _ => []
  | .fmacc _ _ _ _ => []
  | .fmin _ _ _ => []
  | .fmax _ _ _ => []
  | .fabs _ _ => []
  | .fneg _ _ => []
  | .fcvtFX _ a _ _ => [a]
  | .fcvtXF d _ _ _ => [d]
  | .fmovX d _ => [d]
  | .fmovF _ a => [a]
  | .fcmp _ _ _ _ => []
  | .fclass d _ => [d]
  | .pand _ _ _ => []
  | .por _ _ _ => []
  | .pxor _ _ _ => []
  | .pnot _ _ => []
  | .ppack d => [d]
  | .punpk a => [a]
  | .pset _ _ => []
  | .vfadd _ _ _ _ => []
  | .vfsub _ _ _ _ => []
  | .vfmul _ _ _ _ => []
  | .vfdiv _ _ _ _ => []
  | .vfmin _ _ _ _ => []
  | .vfmax _ _ _ _ => []
  | .vfcopysign _ _ _ _ => []
  | .vfaddp _ _ _ _ => []
  | .vfnaddp _ _ _ _ => []
  | .vfsubd _ _ _ _ => []
  | .vfsubp _ _ _ _ => []
  | .vfsqrt _ _ _ => []
  | .vfrsqrt _ _ _ => []
  | .vfrecip _ _ _ => []
  | .vfexp2 _ _ _ => []
  | .vflog2 _ _ _ => []
  | .vftanh _ _ _ => []
  | .vfsig _ _ _ => []
  | .vfrelu _ _ _ => []
  | .vfabs _ _ _ => []
  | .vfneg _ _ _ => []
  | .vfround _ _ _ _ => []
  | .vadd _ _ _ b => VB.xreg b
  | .vsub _ _ _ b => VB.xreg b
  | .vmul _ _ _ b => VB.xreg b
  | .vmulh _ _ _ b => VB.xreg b
  | .vand _ _ _ b => VB.xreg b
  | .vor _ _ _ b => VB.xreg b
  | .vxor _ _ _ b => VB.xreg b
  | .vshl _ _ _ b => VB.xreg b
  | .vshr _ _ _ b => VB.xreg b
  | .vsra _ _ _ b => VB.xreg b
  | .vmin _ _ _ b => VB.xreg b
  | .vmax _ _ _ b => VB.xreg b
  | .viota _ _ => []
  | .vfcmp _ _ _ _ _ => []
  | .vcmp _ _ _ _ b => VB.xreg b
  | .kand _ _ _ _ => []
  | .kor _ _ _ _ => []
  | .kxor _ _ _ _ => []
  | .knot _ _ _ => []
  | .kpop _ d _ => [d]
  | .kfirst _ d _ => [d]
  | .kmovX _ d _ b => [d] ++ [b]
  | .kmovKMask _ _ _ => []
  | .kmovKVector _ _ _ => []
  | .vcvt _ _ _ _ _ _ => []
  | .vsumO _ _ _ _ => []
  | .vsumF _ _ _ _ => []
  | .vmaxr _ _ _ _ => []
  | .vminr _ _ _ _ => []
  | .vscanO _ _ _ _ => []
  | .vperm _ _ _ _ => []
  | .vslideup _ _ _ b => XB.xreg b
  | .vslidedn _ _ _ b => XB.xreg b
  | .vcompress _ _ _ => []
  | .vexpand _ _ _ => []
  | .vbcast _ _ _ b => XB.xreg b
  | .vmov _ _ _ => []
  | .vsplat p _ b => (if splatFp p then [] else XB.xreg b)
  | .dseedRad _ _ x => [x]
  | .dzero _ _ _ => []
  | .dget _ _ _ b => XB.xreg b
  | .dput _ _ _ b => XB.xreg b
  | .dmask _ _ x => [x]
  | .vld _ _ _ base _ _ _ => [base]
  | .vldS _ _ _ base _ _ xs _ => [base] ++ [xs]
  | .vld2d _ _ _ base _ _ xs _ => [base] ++ [xs, xs + 1, xs + 2]
  | .vldX _ _ _ base _ _ _ => [base]
  | .vldQ _ _ base _ xs _ => [base] ++ [xs]
  | .vrs _ _ _ base _ _ => [base]
  | .vst _ _ _ base _ _ => [base]
  | .vstS _ _ _ base _ xs _ => [base] ++ [xs]
  | .vst2d _ _ _ base _ xs _ => [base] ++ [xs, xs + 1, xs + 2]
  | .vstX _ _ _ base _ _ _ => [base]
  | .vstQ _ _ base _ xs _ => [base] ++ [xs]
  | .vsv _ _ _ base _ _ => [base]
  | .vamoAdd _ _ _ base _ _ => [base]
  | .vamoMin _ _ _ base _ _ => [base]
  | .vamoMax _ _ _ base _ _ => [base]
  | .vamoSwap _ _ _ base _ _ => [base]
  | .vamoCas _ _ _ base _ _ => [base]
  | .amoAdd d a b _ _ _ => [d] ++ [a] ++ [b]
  | .amoMin d a b _ _ _ => [d] ++ [a] ++ [b]
  | .amoMax d a b _ _ _ => [d] ++ [a] ++ [b]
  | .amoSwap d a b _ _ _ => [d] ++ [a] ++ [b]
  | .amoCas d a b _ _ _ => [d] ++ [a] ++ [b]
  | .mredAdd _ _ _ base _ _ => [base]
  | .mredMin _ _ _ base _ _ => [base]
  | .mredMax _ _ _ base _ _ => [base]
  | .mxCfg _ _ _ => []
  | .mxZero _ _ => []
  | .mxLdw k b s _ => [k] ++ [b] ++ [s]
  | .mxSeedw j _ => [j]
  | .mxSeedwClr => []
  | .mxStep _ a k _ _ => [a] ++ [k.setWidth 5]
  | .mxStepf _ a k _ _ => [a] ++ [k.setWidth 5]
  | .mxCommit => []
  | .mxWait _ => []
  | .mxRd _ _ _ r => [r]
  | .mxWr _ _ r _ => [r]
  | .cpNd w => [w]
  | .cpLin d s n c => [d] ++ [s] ++ [n] ++ [c]
  | .qFence _ => []
  | .qFenceW _ => []
  | .cpStat d _ => [d]
  | .fence _ _ => []
  | .barInit b n _ => [b] ++ [n]
  | .barArr d b _ => [d] ++ [b]
  | .barWait b t => [b] ++ [t]
  | .barTest d b t => [d] ++ [b] ++ [t]
  | .waita a b _ _ => [a] ++ [b]
  | .nodeSub d r => [d] ++ [r]
  | .loop c _ => [c]
  | .brkl => []
  | .lidx d _ => [d]
  | .repf c _ _ _ _ _ _ => [c]
  | .mile a => [a]
  | .itBind a n => [a] ++ [n]
  | .itWait i => [i]
  | .itStat d i => [d] ++ [i]
  | .clProp h key val _ => [h] ++ [key] ++ [val]
  | .clObj h _ => [h]
  | .clWait d h _ => [d] ++ [h]
  | .clStat d h _ _ => [d] ++ [h]
  | .clHold key _ => [key]
  | .clFree key _ => [key]
  | .mcSt g a k _ => [g, g + 1] ++ [a] ++ [k]
  | .mcLdr _ s g _ _ => [s] ++ [g, g + 1]
  | .tokSet i t w => [i] ++ [t] ++ [w]
  | .tokClr i => [i]
  | .fabStat d _ => [d]
  | .optCard c => [c]
  | .optWait _ => []
  | .optStep c => [c]
  | .optStat d s _ => [d] ++ [s]
  | .optRout i a => [i] ++ [a]
  | .setvl d a _ => [d] ++ [a]
  | .setshape _ _ => []
  | .vframe _ => [3]
  | .stread d _ => [d]
  | .stwrite a _ => [a]
  | .stset a _ => [a]
  | .stclr a _ => [a]
  | .inncall _ => []
  | .dbgtrap _ => []
  | .eret => []
  | .tlbInv a _ => [a]
  | .halt => []
  | .speculationResolve => []
  | .scalarValueReturn => []
  | .registerFillComplete => []
  | .issueWaitRelease => []
  | .threadWake => []
  | .threadRetire => []
  | .nodeComplete => []
  | .dispatchThread => []
  | .priorityAging => []
  | .quantumExpiry => []
  | .preemptionLanding => []
  | .iterationOverrun => []
  | .timingError => []
  | .mxCfgPerform => []
  | .mxZeroPerform => []
  | .mxLdwPerform => []
  | .mxSeedwPerform => []
  | .mxStepPerform => []
  | .batchComplete => []
  | .waybillStart => []
  | .waybillComplete => []
  | .cpLinPerform => []
  | .cardStart => []
  | .cardComplete => []
  | .routineInstall => []
  | .stepIncrement => []
  | .atomicApply => []
  | .porterMoveStart => []
  | .fetchComplete => []
  | .evictComplete => []
  | .dropComplete => []
  | .cxlLinkDown => []
  | .fabricPacketArrival => []
  | .fabricReplyArrival => []
  | .fabricAttemptTimeout => []
  | .abortFlit => []
  | .sequenceExpiry => []
  | .fabricLinkDown => []
  | .fabricLinkUp => []
  | .mcStStart => []
  | .multicastBankAccept => []
  | .multicastBranchForward => []
  | .acknowledgementArrival => []
  | .ftimeReceived => []
  | .ftimeLoss => []
  | .proposalReceived => []
  | .objectionReceived => []
  | .breachNoticeReceived => []
  | .breachNoticeOriginate => []
  | .heldObjectionDiscard => []
  | .claimClose => []
  | .claimForget => []
  | .submit => []
  | .submitReread => []
  | .hostRegisterWrite => []
  | .place => []
  | .group => []
  | .context => []
  | .pool => []
  | .gtable => []
  | .window => []
  | .grant => []
  | .retire => []
  | .tokmap => []
  | .attest => []
  | .measure => []
  | .boot => []
  | .functionLevelReset => []
  | .dieClockLower => []
  | .illegalInstruction => []
  | .preemptionRequest => []
  | .sleepingThreadSwitchOut => []
  | .noclaim => []
  | .uncorrectableError => []
  | .hostWrite => []
  | .hostRegisterRead => []
  | .pinComplete => []
  | .dieClockRaise => []

/-- An `x` register that the instruction names has a value pending (R38). -/
def State.xWaits (s : State) (i : Instr) : Bool := (xregsOf i).any fun r => r != 0 && s.core.xpend.getLsbD r.toNat

/-- The `x` register that an instruction writes; where it reads that register too, `xregsOf` names it once more or it is not listed here. -/
def xdest : Instr → List Reg
  | .st8 _ _ _ _ _ => [] | .st16 _ _ _ _ _ => [] | .st32 _ _ _ _ _ => [] | .st64 _ _ _ _ _ => []
  | .cpLin _ _ _ _ => []
  | .add d _ _ => [d] | .sub d _ _ => [d] | .mul d _ _ => [d] | .mulhI d _ _ => [d] | .mulhN d _ _ => [d] | .divI d _ _ => [d]
  | .divN d _ _ => [d] | .remI d _ _ => [d] | .remN d _ _ => [d] | .and d _ _ => [d] | .or d _ _ => [d] | .xor d _ _ => [d]
  | .shl d _ _ => [d] | .shr d _ _ => [d] | .sra d _ _ => [d] | .sltI d _ _ => [d] | .sltN d _ _ => [d] | .minI d _ _ => [d]
  | .maxI d _ _ => [d] | .minN d _ _ => [d] | .maxN d _ _ => [d] | .clz d _ => [d] | .ctz d _ => [d] | .popc d _ => [d]
  | .sext d _ _ => [d] | .zext d _ _ => [d] | .addi d _ _ => [d] | .andi d _ _ => [d] | .ori d _ _ => [d] | .xori d _ _ => [d]
  | .shli d _ _ => [d] | .shri d _ _ => [d] | .srai d _ _ => [d] | .lui d _ => [d]
  | .ldI8 d _ _ _ _ => [d] | .ldI16 d _ _ _ _ => [d] | .ldI32 d _ _ _ _ => [d] | .ldI64 d _ _ _ _ => [d]
  | .ldN8 d _ _ _ _ => [d] | .ldN16 d _ _ _ _ => [d] | .ldN32 d _ _ _ _ => [d]
  | .jal d _ => [d] | .jalr d _ _ => [d] | .fcvtXF d _ _ _ => [d] | .fmovX d _ => [d] | .fclass d _ => [d] | .ppack d => [d]
  | .kpop _ d _ => [d] | .kfirst _ d _ => [d] | .kmovX _ d _ _ => [d] | .cpStat d _ => [d]
  | .barArr d _ _ => [d] | .barTest d _ _ => [d] | .nodeSub d _ => [d] | .lidx d _ => [d] | .itStat d _ => [d]
  | .clProp h _ _ _ => [h] | .clWait d _ _ => [d] | .clStat d _ _ _ => [d] | .mcLdr _ s _ _ _ => [s] | .fabStat d _ => [d]
  | .optStat d _ _ => [d] | .setvl d _ _ => [d] | .stread d _ => [d]
  | .amoAdd d _ _ _ _ _ => [d] | .amoMin d _ _ _ _ _ => [d] | .amoMax d _ _ _ _ _ => [d] | .amoSwap d _ _ _ _ _ => [d]
  | _ => []

/-- The `x` registers that an instruction reads. -/
def xreads (i : Instr) : List Reg := (xdest i).foldl (fun l r => l.erase r) (xregsOf i)

/-- What the first read of a register whose pending value failed raises (R359). -/
def State.xFails (s : State) (i : Instr) : Option Exc := (xreads i).findSome? fun r => (s.core.xfail.find? fun q => q.1 == r).map (·.2)

/-- The instruction that the words at the PC are, or the step that raises illegal instruction for them. -/
def instrOf (w next : Word32) : Instr :=
  match decode w next with
  | .ok i => i
  | .illegal _ _ => .illegalInstruction

/-- Fetch at the PC (R58, R66, R156). -/
def State.fetchInstr (s : State) : Except Exc Instr :=
  match s.fetchWord s.pc with
  | .error e => .error e
  | .ok w =>
    if needsSecond w then
      match s.fetchWord (s.pc + 4) with
      | .error e => .error e
      | .ok n => .ok (instrOf w n)
    else .ok (instrOf w 0)

/-- The instruction to run at the PC: as fetched, or in the captured range of a frame as R158 staggers it for this replay. -/
def State.atPc (s : State) : Except Exc Instr :=
  match s.fetchInstr with
  | .error e => .error e
  | .ok i =>
    if s.inFrame then
      match s.loops with
      | [] => .ok i
      | e :: _ => match s.frameOf e with
        | .error x => .error x
        | .ok (fi, l) => .ok (staggered fi (e.index.toNat - fi.stages.getD (indexAt s.pc l) 0) i)
    else .ok i

/-- The instruction left the PC: it neither waits nor sleeps. -/
def State.issued (s : State) : Bool := s.core.run != .waiting && s.core.run != .asleep

/-- Before an instruction: the core runs, its translation of the PC is cached, and no exception was delivered just now; in supervisor mode, the
delivery to the innkeeper stands until it returns (R307). What it stores, the program of this core stores. -/
def State.begin (s : State) : State :=
  (((s.touch s.pc).setRun .running).mapCore fun c => { c with atTrap := c.atTrap && s.core.sup.mode == .supervisor, looped := false }).mapMem
    fun m => { m with writer := some s.core.id }

/-- An instruction of user mode has issued: `qcount` and the age of a pending request move on (R306, R308) (DEDUCED, log entry 62). -/
def State.countIssue (s : State) : State :=
  if s.core.sup.mode = .user then
    (s.mapSt fun t => { t with qcount := t.qcount + 1 }).mapCore fun c => { c with request := c.request.map (· + 1) }
  else s

/-- The instruction that issued in mode `m` has raised an exception, whose delivery changes nothing else (R283, R286) (DEDUCED, log entry 62). -/
def State.trapped (m : Mode) (s : State) : Bool := m == .user && (s.core.atTrap || s.core.sup.mode == .supervisor)

/-- After an instruction that issued in mode `m`: counting, and, when it was captured by a frame, the frame goes on (R159). -/
def State.finish (m : Mode) (framed : Bool) (s : State) : State :=
  if !s.issued || s.trapped m then s
  else
    let t := if m = .user then s.countIssue else s
    if framed then t.settle else t

end Sys2Proof.Machine
end

