-- ==== Sys2Proof/Machine/Operands.lean ====
section
/-! DEFINITION. Vector operands: element types, lengths (R43, R44), planes and lanes, format tags (R46 to R49), full and empty
registers (R50 to R52), masks (R53), and every form of operand b (R64, R65, R69, R115). -/

namespace Sys2Proof.Machine

/-! ### Element types (R62) -/

/-- Bytes of an element; LNS6 has no whole bytes. -/
def ETy.bytes : ETy → Nat
  | .f32 => 4 | .f16 => 2 | .bf16 => 2 | .lns6 => 0
  | .i8 => 1 | .i16 => 2 | .i32 => 4 | .i64 => 8 | .n8 => 1 | .n16 => 2 | .n32 => 4 | .n64 => 8

/-- Bits of an element. -/
def ETy.bits (t : ETy) : Nat := 8 * ETy.bytes t

/-- The format that a tag gives a type (R46): n types carry the format of the i type of their width. -/
def ETy.fmt : ETy → Fmt
  | .f32 => .f32 | .f16 => .f16 | .bf16 => .bf16 | .lns6 => .f32
  | .i8 => .i8 | .i16 => .i16 | .i32 => .i32 | .i64 => .i64 | .n8 => .i8 | .n16 => .i16 | .n32 => .i32 | .n64 => .i64

/-- The floating-point format of a type. -/
def ETy.ffmt : ETy → FFmt
  | .f16 => .f16 | .bf16 => .bf16
  | .f32 => .f32 | .lns6 => .f32
  | .i8 => .f32 | .i16 => .f32 | .i32 => .f32 | .i64 => .f32 | .n8 => .f32 | .n16 => .f32 | .n32 => .f32 | .n64 => .f32

/-- Signed integer types. -/
def ETy.signed : ETy → Bool
  | .i8 => true | .i16 => true | .i32 => true | .i64 => true
  | .f32 => false | .f16 => false | .bf16 => false | .lns6 => false
  | .n8 => false | .n16 => false | .n32 => false | .n64 => false

/-- Bits of one element of a format: a mask image has one (R46). -/
def Fmt.bits : Fmt → Nat
  | .void => 1 | .f32 => 32 | .f16 => 16 | .bf16 => 16 | .i8 => 8 | .i16 => 16 | .i32 => 32 | .i64 => 64 | .mask => 1

/-- Code of a format (R46). -/
def Fmt.code : Fmt → BitVec 4
  | .void => 0 | .f32 => 1 | .f16 => 2 | .bf16 => 3 | .i8 => 4 | .i16 => 5 | .i32 => 6 | .i64 => 7 | .mask => 8

/-- Tangent planes of a bundle code (R46). -/
def Bundle.planes : Bundle → Nat
  | .w0 => 0 | .w1 => 1 | .w2 => 2 | .w4 => 4 | .w8 => 8 | .w16 => 16

/-- The bundle code of a width; the widths of R46 are the only ones that occur. -/
def Bundle.ofPlanes (n : Nat) : Bundle :=
  if n = 0 then .w0 else if n = 1 then .w1 else if n = 2 then .w2 else if n ≤ 4 then .w4 else if n ≤ 8 then .w8 else .w16

/-- Code of a bundle width (R46). -/
def Bundle.code : Bundle → BitVec 3
  | .w0 => 0 | .w1 => 1 | .w2 => 2 | .w4 => 3 | .w8 => 4 | .w16 => 5

/-- A tag as 16 bits (R46). -/
def Tag.bits (t : Tag) : BitVec 16 := 0#8 ++ BitVec.ofBool t.full ++ Bundle.code t.bundle ++ Fmt.code t.fmt

/-- A full tag. -/
def Tag.of (fmt : Fmt) (w : Nat) : Tag := { full := true, bundle := Bundle.ofPlanes w, fmt := fmt }

/-! ### Shape (R43, R44) -/

/-- The vector length. -/
abbrev State.vl (s : State) : Nat := s.core.vec.vl

/-- Element groups per main register, G (R43). -/
def groups (n k : Nat) : Nat := 1024 / (n * (1 + k))

/-- Number of main registers, N (DEDUCED, log entry 66). -/
abbrev State.nregs (s : State) : Nat := s.core.vec.shapeN

/-- Tangent planes of the shape, k. -/
abbrev State.planes (s : State) : Nat := s.core.vec.shapeK

/-- `mvl`: G × EG (R44). -/
def State.mvl (s : State) : Nat := groups s.nregs s.planes * s.part.eg

/-- MVL in elements of `w` bytes (R44). -/
def State.mvlOf (s : State) (w : Nat) : Nat := s.mvl * 4 / w

/-! ### Planes and lanes -/

/-- Element `e` of `w` bits of a plane. -/
def elem (w p e : Nat) : Nat := (p >>> (w * e)) % 2 ^ w

/-- One element with its tangent slots. -/
structure Lane where
  val : Nat
  tan : List Nat
  deriving DecidableEq, Repr

/-- The plane with `l` as its first elements and the rest of `old` (R41). -/
def pack (w : Nat) : List Nat → Nat → Nat
  | [], old => old
  | v :: rest, old => v % 2 ^ w + 2 ^ w * pack w rest (old >>> w)

/-- Plane `i` of a register: 0 holds the values, 1 + i tangent i; a plane that is not there reads as zero. -/
def VReg.plane (r : VReg) (i : Nat) : Nat := r.planes.getD i 0

/-- Tangent planes that a register carries. -/
def VReg.width (r : VReg) : Nat := Bundle.planes r.tag.bundle

/-- The first `n` lanes of a register with elements of `w` bits. -/
def VReg.lanes (r : VReg) (w n : Nat) : List Lane :=
  (List.range n).map fun e => ⟨elem w (r.plane 0) e, (List.range r.width).map fun i => elem w (r.plane (i + 1)) e⟩

/-- A tangent slot; a slot at or above the bundle width reads +0.0 (R49). -/
def Lane.slot (l : Lane) (i : Nat) : Nat := l.tan.getD i 0

/-- A lane with exactly `n` slots. -/
def Lane.widen (l : Lane) (n : Nat) : Lane := ⟨l.val, (List.range n).map l.slot⟩

/-- The lane of zeros with `n` slots. -/
def Lane.zero (n : Nat) : Lane := ⟨0, List.replicate n 0⟩

/-- A register written with lanes of `w` bits at its first elements and `n` tangent planes, over the contents `old` (R41). -/
def VReg.write (old : VReg) (tag : Tag) (w n : Nat) (l : List Lane) : VReg :=
  { tag := tag, planes := pack w (l.map (·.val)) (old.plane 0) ::
      (List.range n).map fun i => pack w (l.map fun x => x.slot i) (if i < old.width then old.plane (i + 1) else 0),
    failed := none }

/-! ### Register access -/

/-- The contents of a vector specifier. -/
def State.vreg (s : State) : VSpec → VReg
  | .v n => s.core.vec.v.get n.toFin
  | .o n => s.core.vec.o.get n.toFin
  | .l0 => s.core.vec.l0
  | .l1 => s.core.vec.l1

/-- Write a vector register, without a push. -/
def State.setVreg (s : State) (d : VSpec) (r : VReg) : State :=
  s.mapVec fun c => match d with
    | .v n => { c with v := c.v.set n.toNat r n.isLt }
    | .o n => { c with o := c.o.set n.toNat r n.isLt }
    | .l0 => { c with l0 := r }
    | .l1 => { c with l1 := r }

/-- Mask `k[m]`; `k0` reads as all ones (R36). -/
def State.k (s : State) (m : BitVec 3) (e : Nat) : Bool := if m = 0 then true else (s.core.vec.k.get m.toFin).testBit e

/-- The low `n` bits of mask `k[m]`. -/
def State.kBits (s : State) (m : BitVec 3) (n : Nat) : Nat := if m = 0 then 2 ^ n - 1 else s.core.vec.k.get m.toFin % 2 ^ n

/-- Write mask `k[m]`. -/
def State.setK (s : State) (m : BitVec 3) (v : Nat) : State := s.mapVec fun c => { c with k := c.k.set m.toNat v m.isLt }

/-- What a prefix says of the mask: its number and whether it zeroes. -/
structure MaskOf where
  mask : BitVec 3
  zero : Bool
  deriving DecidableEq, Repr

/-- No mask. -/
def MaskOf.none : MaskOf := ⟨0, false⟩

/-- The mask of an FmtV prefix. -/
def maskOf : Option VPfx → MaskOf
  | none => .none
  | some p => ⟨p.mask, p.zero⟩

/-- The mask of an FmtM prefix. -/
def maskOfM : Option MPfx → MaskOf
  | none => .none
  | some p => ⟨p.mask, p.zero⟩

/-- The instruction merges: it carries a mask and does not zero (R116). -/
def MaskOf.merges (m : MaskOf) : Bool := m.mask != 0 && !m.zero

/-- Which elements below `vl` are active (R53). -/
def State.active (s : State) (m : MaskOf) : List Bool := (List.range s.vl).map fun e => m.mask == 0 || s.k m.mask e

/-- Indexes of the active elements, counted from `e`. -/
def activeIdx (e : Nat) : List Bool → List Nat
  | [] => []
  | b :: rest => if b then e :: activeIdx (e + 1) rest else activeIdx (e + 1) rest

/-! ### Checks at issue (R47, R117) -/

/-- An instruction that may name vector registers, as its checks need it: prefixed, masked, and the bytes of each element type
that it reads or writes. -/
structure Form where
  ins : Instr
  prefixed : Bool
  masked : Bool
  widths : List Nat
  deriving DecidableEq, Repr

/-- `vl` exceeds the capacity for a width (R117). -/
def State.tooLong (s : State) (masked : Bool) (w : Nat) : Bool :=
  w != 0 && decide (s.mvlOf w < s.vl) || (w == 1 && masked && decide (s.mvlOf 2 < s.vl))

/-- The checks of vector-unit ownership (R311) and illegal instruction (R37, R71, R117) that depend on the state, in this
order (DESIGN CHOICE, log entry 100); `more` is a further condition of detail 0x06. -/
def State.vecIllegal (s : State) (f : Form) (more : Bool) : Except Halt Unit := do
  s.needVec
  s.illegalIf f.ins ((vregsOf f.ins).any fun n => decide (s.nregs ≤ n.toNat)) 0x03
  s.illegalIf f.ins (f.prefixed && s.prefixAtEnd) 0x05
  s.illegalIf f.ins (more || f.widths.any (s.tooLong f.masked)) 0x06

/-- A source register: a vector specifier with the format that the instruction names, or an `f` register. `plain` is a vector whose bundle width
takes no part in R49: an index register (R132, R170) and the source of `dput` (R137). -/
inductive SrcReg where
  | vec (r : VSpec) (fmt : Fmt)
  | plain (r : VSpec) (fmt : Fmt)
  | flt (r : Reg)
  deriving DecidableEq, Repr

/-- A source with its operand number in a tag report: 0 d, 1 a, 2 b (R48). -/
structure Source where
  num : BitVec 2
  reg : SrcReg
  deriving DecidableEq, Repr

/-- The tag of a source. -/
def State.tagOf (s : State) : SrcReg → Tag
  | .vec r _ => (s.vreg r).tag
  | .plain r _ => (s.vreg r).tag
  | .flt r => (s.f r).tag

/-- Bundle width of a source in R49. -/
def State.sourceWidth (s : State) : SrcReg → Nat
  | .vec r _ => Bundle.planes (s.vreg r).tag.bundle
  | .plain _ _ => 0
  | .flt r => Bundle.planes (s.f r).tag.bundle

/-- A format-tag mismatch with an operand and a reason (R48). -/
def tagExc {α : Type} (num : BitVec 2) (reason : BitVec 6) : Except Halt α := raise 0x03 (num ++ reason)

/-- An `o` register. -/
def VSpec.isO : VSpec → Bool
  | .v _ => false | .o _ => true | .l0 => false | .l1 => false

/-- The format check of a source (reason 0x01). -/
def SrcReg.fmtOk (t : Tag) : SrcReg → Bool
  | .vec _ f => t.fmt == f
  | .plain _ f => t.fmt == f
  | .flt _ => true

/-- The source is an `o` register. -/
def SrcReg.isO : SrcReg → Bool
  | .vec r _ => VSpec.isO r
  | .plain r _ => VSpec.isO r
  | .flt _ => false

/-- Capacity of an `o` register for the widest type of a list of widths (R39). -/
def oCapacity (widths : List Nat) : Nat := if widths.contains 8 then 192 else 384

/-- The destination of a bundled result has room only for k planes. -/
def limited : Option VSpec → Bool
  | none => false
  | some d => !VSpec.isO d

/-- The tag checks of the sources in order (R47 to R49): `w` is the first nonzero bundle width met so far. Returns the width of
R49 (DEDUCED, log entry 7). -/
def State.checkSources (s : State) (cap : Nat) (counts : Bool) (dest : Option VSpec) : Nat → List Source → Except Halt Nat
  | w, [] => .ok w
  | w, c :: rest =>
    let t := s.tagOf c.reg
    let b := if counts then s.sourceWidth c.reg else 0
    if t.fmt = .void then tagExc c.num 0x03
    else if !SrcReg.fmtOk t c.reg then tagExc c.num 0x01
    else if SrcReg.isO c.reg && decide (cap < s.vl) then tagExc c.num 0x08
    else if b != 0 && w != 0 && b != w then tagExc c.num 0x02
    else if w == 0 && limited dest && decide (s.planes < b) then tagExc c.num 0x05
    else s.checkSources cap counts dest (if w = 0 then b else w) rest

/-- The tag checks of the destination for a result of bundle width `w` (R39, R48). -/
def State.checkDest (s : State) (cap w : Nat) (d : VSpec) : Except Halt Unit :=
  if VSpec.isO d && decide (cap < s.vl) then tagExc 3 0x08
  else if !VSpec.isO d && decide (s.planes < w) then tagExc 3 0x05
  else if VSpec.isO d && w != 0 then tagExc 3 0x04
  else .ok ()

/-- All tag checks (R47): sources, then the destination. `fixed` is the result width where the entry gives it. -/
def State.checkTags (s : State) (widths : List Nat) (counts : Bool) (srcs : List Source) (dest : Option VSpec) (fixed : Option Nat) :
    Except Halt Nat := do
  let cap := oCapacity widths
  let w ← s.checkSources cap counts dest 0 srcs
  let w := fixed.getD w
  match dest with
  | none => .ok w
  | some d => do
    s.checkDest cap w d
    .ok w

/-- A vector register as a source: trapping when it is empty and trap-marked, with the detail of register empty (R51). -/
structure Reads where
  reg : VSpec
  trap : Bool
  detail : BitVec 8
  deriving DecidableEq, Repr

/-- The register is empty. -/
def State.empty (s : State) (r : VSpec) : Bool := (s.vreg r).tag.fmt != .void && !(s.vreg r).tag.full

/-- Register empty for a trap-marked source; then the report of a failed source, and the wait for an empty one (R51, R52,
R292). -/
def State.awaitSources (s : State) (l : List Reads) : Except Halt Unit :=
  match l.find? fun r => r.trap && s.empty r.reg with
  | some r => raise 0x04 r.detail
  | none =>
    match l.findSome? fun r => (s.vreg r.reg).failed with
    | some e => .error (.exc e)
    | none => if l.any fun r => s.empty r.reg then .error .wait else .ok ()

/-- A register is still being filled, and no failure of it stands. -/
def VReg.filling (r : VReg) : Bool := r.tag.fmt != .void && !r.tag.full && r.failed.isNone

/-- A command writes elements of tiles (R202). -/
def MxBody.writes : MxBody → Bool
  | .zero _ _ => true
  | .step _ => true
  | .cfg _ _ _ => false
  | .ldw _ _ _ _ _ => false
  | .seedw _ => false
  | .commit _ => false

/-- The engine goes on only after an MX instruction or `halt`: a fault is pending, or it holds its stop point (R207). -/
def Mx.stands (m : Mx) : Bool := m.fault.isSome || m.holds

/-- An earlier instruction has elements still to write (R50): a fill, or a matrix command that writes tiles. Those of an engine that stands at a
fault, which only a later MX instruction sets going again, are not waited for (DESIGN CHOICE, log entry 123). -/
def Vec.unwritten (v : Vec) : Bool :=
  v.v.toList.any VReg.filling || v.o.toList.any VReg.filling || v.l0.filling || v.l1.filling
    || (!v.mx.stands && v.mx.queue.any fun c => c.body.writes)

/-- The lane barrier (R128): no source element is read until every earlier instruction has written every element that it writes. -/
def State.laneBarrier (s : State) : Except Halt Unit := if s.core.vec.unwritten then .error .wait else .ok ()

/-- A write waits for a register that is still being filled (R52). -/
def State.awaitDest (s : State) (d : VSpec) : Except Halt Unit :=
  if s.empty d && (s.vreg d).failed.isNone then .error .wait else .ok ()

/-! ### Operand b (R64, R65, R69, R115) -/

/-- The FP32 bits of a mini-float (R65). -/
def miniFloat (b : BitVec 7) : Nat :=
  let m := bits b 0 3; let e := bits b 3 3
  let v : FVal := if e == 0 then .fin (b.getLsbD 6) m.toNat (-6) else .fin (b.getLsbD 6) (m.toNat + 8) (e.toNat - 7)
  (roundVal .f32 .rne v).1

/-- The FP32 bits of a floating-point VI operand: a mini-float, or the long immediate under a prefix (R69). -/
def immFloat (p : Option VPfx) (b : BitVec 7) : Nat :=
  match p with
  | none => miniFloat b
  | some q => (q.imm ++ b ++ 0#10 : Word32).toNat

/-- The integer of a VI operand read as signed (R64, R69). -/
def immInt (p : Option VPfx) (b : BitVec 7) : Int :=
  match p with
  | none => b.toInt
  | some q => longImm q.imm b

/-- An FP32 scalar in the element format: RNE, no flag; FP32 bits are taken unchanged (R115). -/
def toElement (t : ETy) (v : Nat) : Nat :=
  if t = .f32 then v else (cvtFF .f32 (ETy.ffmt t) .rne v).1

/-- The value and the slots of an `f` register as a lane of the element format (R115). -/
def FReg.lane (r : FReg) (t : ETy) : Lane :=
  { val := toElement t r.val.toNat,
    tan := (List.range (Bundle.planes r.tag.bundle)).map fun i => toElement t (r.tan.getD i 0).toNat }

/-- The type of an FmtV instruction (R70). -/
def typeOf (dflt : ETy) (p : Option VPfx) : ETy := (p.bind (·.ty)).getD dflt

/-- The sources of operand b of a floating-point func. -/
def VB.fsource (t : ETy) : VB → List Source
  | .vv r => [⟨2, .vec r (ETy.fmt t)⟩]
  | .vs r => [⟨2, .flt r⟩]
  | .vi _ => []

/-- The sources of operand b of an integer func. -/
def VB.isource (t : ETy) : VB → List Source
  | .vv r => [⟨2, .vec r (ETy.fmt t)⟩]
  | .vs _ => []
  | .vi _ => []

/-- Operand b as a register that may be empty. -/
def VB.reads (trap : Bool) : VB → List Reads
  | .vv r => [⟨r, trap, 2⟩]
  | .vs _ => []
  | .vi _ => []

/-- Trap marks of a prefix: a, b, d. -/
def trapA (p : Option VPfx) : Bool := (p.map (·.ta)).getD false
/-- The tb bit. -/
def trapB (p : Option VPfx) : Bool := (p.map (·.tb)).getD false
/-- The td bit. -/
def trapD (p : Option VPfx) : Bool := (p.map (·.td)).getD false

/-- The lanes of operand b of a floating-point func (R115). -/
def State.flanes (s : State) (p : Option VPfx) (t : ETy) : VB → List Lane
  | .vv r => (s.vreg r).lanes (ETy.bits t) s.vl
  | .vs r => List.replicate s.vl ((s.f r).lane t)
  | .vi i => List.replicate s.vl ⟨toElement t (immFloat p i), []⟩

/-- The low bits of an integer as an element. -/
def lowBits (w : Nat) (i : Int) : Nat := (i % 2 ^ w).toNat

/-- The values of operand b of an integer func (R115). -/
def State.ivals (s : State) (p : Option VPfx) (t : ETy) : VB → List Nat
  | .vv r => ((s.vreg r).lanes (ETy.bits t) s.vl).map (·.val)
  | .vs r => List.replicate s.vl ((s.x r).toNat % 2 ^ ETy.bits t)
  | .vi i => List.replicate s.vl (lowBits (ETy.bits t) (immInt p i))

/-- The rounding mode of an instruction (R61, R90). -/
def State.rmode (s : State) : Rm → RMode
  | .rne => .rne | .rtz => .rtz | .rdn => .rdn | .rup => .rup
  | .dyn =>
    let m := bits s.st.fcsr 0 3
    if m == 1 then .rtz else if m == 2 then .rdn else if m == 3 then .rup else .rne

end Sys2Proof.Machine
end

