-- ==== Sys2Proof/Machine/Cfg.lean ====
section
/-! DEFINITION. Vector configuration: `setvl` and `setshape` (R45, R160, R161) and `vframe` (R274). -/

namespace Sys2Proof.Machine

/-- Bytes of an element of the width that `setvl` names (R160). -/
def SetvlW.bytes : SetvlW → Nat
  | .w32 => 4 | .w16 => 2 | .w8 => 1 | .w64 => 8

/-- Write `vl`. -/
def State.setVl (s : State) (n : Nat) : State := s.mapVec fun c => { c with vl := n }

/-- `setvl` (R161). -/
def execSetvl (d a : Reg) (w : SetvlW) (s : State) : Host.Outcome State Fault Refusal :=
  outcome s do
    s.needVec
    let n := min (s.x a).toNat (s.mvlOf (SetvlW.bytes w))
    .ok (((s.setVl n).setX d (word n)).complete 4)

/-- Some `v` or `o` register is still being filled (R45). -/
def State.filling (s : State) : Bool :=
  (s.core.vec.v.toList ++ s.core.vec.o.toList).any fun r => r.tag.fmt != .void && !r.tag.full && r.failed.isNone

/-- A void register whose storage, from the free value `n` on, holds what the new bank layout leaves there (DESIGN CHOICE, log entry 27). -/
def VReg.free (n : Nat) : VReg := { tag := .void, planes := (List.range 17).map fun i => Config.freePlane (17 * n + i), failed := none }

/-- Void registers with free contents, by rising free value (DESIGN CHOICE, log entry 27). -/
def freeRegs (n : Nat) (k : Nat) : Vector VReg k := Vector.ofFn fun i => VReg.free (n + i.val)

/-- The vector registers, masks, length and shape that `setshape` leaves (R45). -/
def State.reshape (s : State) (n k : Nat) : State :=
  { s.mapVec fun c => { c with
      v := freeRegs s.free 64, o := freeRegs (s.free + 64) 16, l0 := VReg.free (s.free + 80), l1 := VReg.free (s.free + 81)
      k := Vector.replicate 8 0, shapeN := n, shapeK := k, vl := 0 } with free := s.free + 82 }

/-- `setshape` (R45, R161): it waits until every fill has completed. -/
def execSetshape (n : BitVec 7) (k : BitVec 5) (s : State) : Host.Outcome State Fault Refusal :=
  outcome s do
    s.needVec
    if s.filling then .error .wait else .ok ((s.reshape n.toNat k.toNat).complete 4)

/-- Bytes of a stack slot, S (R272). -/
def State.slotBytes (s : State) : Nat := groups s.nregs s.planes * s.part.eg * 4 * (1 + s.planes) + 64

/-- `vsp`: `x3`. -/
def vsp : Reg := 3

/-- `vframe` (R274): the new value is exact. -/
def execVframe (n : BitVec 13) (s : State) : Host.Outcome State Fault Refusal :=
  let new : Int := (s.x vsp).toNat - n.toInt * s.slotBytes
  let addr := BitVec.ofInt 64 new
  outcome s do
    s.needVec
    raiseIf (decide (new < s.st.stklim.toNat)) 0x0C 0x03 addr
    raiseIf (decide (new < s.core.me.stackLo.toNat) || decide ((s.core.me.stackHi.toNat : Int) < new)) 0x0C 0x04 addr
    .ok ((s.setX vsp addr).complete 4)

end Sys2Proof.Machine
end

