-- ==== Sys2Proof/Machine/Crypto.lean ====
section
/-! DEFINITION. The check code of records (R16, R405), SHAKE256 (R409 to R411) and KMAC256 (R352) on lists of bytes. -/

namespace Sys2Proof.Machine

/-! ### CRC-32C (R16) -/

/-- One bit of the reflected polynomial of CRC-32C. -/
def crcBit (c : BitVec 32) : BitVec 32 := if c.getLsbD 0 then (c >>> 1) ^^^ 0x82F63B78 else c >>> 1

/-- One byte enters the register. -/
def crcByte (c : BitVec 32) (b : Byte) : BitVec 32 :=
  crcBit (crcBit (crcBit (crcBit (crcBit (crcBit (crcBit (crcBit (c ^^^ b.setWidth 32))))))))

/-- CRC-32C of a list of bytes. -/
def crc32c (l : List Byte) : BitVec 32 := ~~~(l.foldl crcByte 0xFFFFFFFF)

/-- The check code of a record whose code lies at `off` and counts as zero there. -/
def recordCrc (l : List Byte) (off : Nat) : BitVec 32 := crc32c (l.take off ++ List.replicate 4 0 ++ l.drop (off + 4))

/-! ### Keccak-f[1600]

FIPS 202, which SHAKE256 (R409 to R411) and KMAC256 (R352) name. A state is 25 lanes; lane (x, y) is number 5 y + x. Offsets and round
constants come from the recurrences of FIPS 202, not from tables. -/

/-- Lane (x, y), by coordinates modulo 5. -/
def laneAt (a : List Word) (x y : Nat) : Word := a.getD (5 * (y % 5) + x % 5) 0

/-- A state by what each lane holds. -/
def lanesBy (f : Nat → Nat → Word) : List Word := (List.range 25).map fun i => f (i % 5) (i / 5)

/-- The walk of step ρ from lane (x, y) on, `n` lanes of it, the first being the walk's number `t`: each lane with the triangular number by
which it turns. -/
def rhoWalk : Nat → Nat → Nat → Nat → List (Nat × Nat)
  | 0, _, _, _ => []
  | n + 1, t, x, y => (5 * y + x, (t + 1) * (t + 2) / 2 % 64) :: rhoWalk n (t + 1) y ((2 * x + 3 * y) % 5)

/-- Bits by which step ρ turns lane (x, y); lane (0, 0) is not on the walk. -/
def rhoTurn (x y : Nat) : Nat := ((rhoWalk 24 0 1 0).lookup (5 * y + x)).getD 0

/-- Step θ: each lane takes the parity of the column before it and that of the next, turned by one bit. -/
def theta (a : List Word) : List Word :=
  let parity (x : Nat) : Word := (List.range 5).foldl (fun w y => w ^^^ laneAt a x y) 0
  lanesBy fun x y => laneAt a x y ^^^ (parity (x + 4) ^^^ (parity (x + 1)).rotateLeft 1)

/-- Steps ρ and π: lane (x, y) comes, turned, from lane (x + 3 y, x). -/
def rhoPi (a : List Word) : List Word := lanesBy fun x y => (laneAt a (x + 3 * y) x).rotateLeft (rhoTurn ((x + 3 * y) % 5) x)

/-- Step χ. -/
def chi (a : List Word) : List Word := lanesBy fun x y => laneAt a x y ^^^ (~~~laneAt a (x + 1) y &&& laneAt a (x + 2) y)

/-- One move of the shift register of step ι, of polynomial x^8 + x^6 + x^5 + x^4 + 1. -/
def iotaShift (r : Byte) : Byte := (r <<< 1) ^^^ (if r.getLsbD 7 then 0x71 else 0)

/-- Seven moves of the register from `r`: the bits at 2 ^ j - 1 of a round constant, and the register after. -/
def iotaBits (r : Byte) : Word × Byte :=
  (List.range 7).foldl (fun (w, r) j => (if r.getLsbD 0 then w ||| (1#64 <<< (2 ^ j - 1)) else w, iotaShift r)) (0, r)

/-- `n` rounds, with the register of step ι at `r`. -/
def keccakRounds : Nat → Byte → List Word → List Word
  | 0, _, a => a
  | n + 1, r, a =>
    let (rc, r') := iotaBits r
    let b := chi (rhoPi (theta a))
    keccakRounds n r' (b.set 0 (laneAt b 0 0 ^^^ rc))

/-- The permutation of 24 rounds. -/
def keccakF (a : List Word) : List Word := keccakRounds 24 1 a

/-! ### The sponge with a rate of 136 bytes -/

/-- A block of bytes taken into a state: byte `i` meets bits 8 × (i mod 8) up of lane i / 8. -/
def intoState (a : List Word) (block : List Byte) : List Word :=
  lanesBy fun x y => laneAt a x y ^^^ word64 ((block.drop (8 * (5 * y + x))).take 8)
where
  /-- The bytes of a lane, least first. -/
  word64 : List Byte → Word
    | [] => 0
    | b :: rest => b.setWidth 64 ||| (word64 rest <<< 8)

/-- Byte `i` of a state. -/
def stateByte (a : List Word) (i : Nat) : Byte := (a.getD (i / 8) 0 >>> (8 * (i % 8))).setWidth 8

/-- The message with the domain byte `d` after it and the last bit of the rate set. -/
def padded (l : List Byte) (d : Byte) : List Byte :=
  let zeros := (136 - (l.length + 1) % 136) % 136
  let p := l ++ d :: List.replicate zeros 0
  p.set (p.length - 1) (p.getD (p.length - 1) 0 ||| 0x80)

/-- `n` blocks of a padded message are taken in. -/
def takeIn : Nat → List Byte → List Word → List Word
  | 0, _, a => a
  | n + 1, l, a => takeIn n (l.drop 136) (keccakF (intoState a (l.take 136)))

/-- `n` bytes given out from a state, the first of which is byte `i` of the rate. -/
def giveOut : Nat → Nat → List Word → List Byte
  | 0, _, _ => []
  | n + 1, i, a => if i < 136 then stateByte a i :: giveOut n (i + 1) a else let b := keccakF a; stateByte b 0 :: giveOut n 1 b

/-- The sponge: `n` bytes. -/
def sponge136 (l : List Byte) (d : Byte) (n : Nat) : List Byte :=
  let p := padded l d
  giveOut n 0 (takeIn (p.length / 136) p (List.replicate 25 0))

/-- SHAKE256: `n` bytes. -/
def shake256 (l : List Byte) (n : Nat) : List Byte := sponge136 l 0x1F n

/-! ### KMAC256 (R352, NIST SP 800-185) -/

/-- The ASCII bytes of a string. -/
def ascii (s : String) : List Byte := s.toList.map fun c => BitVec.ofNat 8 c.toNat

/-- Big-endian bytes of a number without leading zeros, at least one, from at most 8. -/
def beBytes : Nat → Nat → List Byte
  | 0, _ => []
  | k + 1, n => if n < 256 then [BitVec.ofNat 8 n] else beBytes k (n / 256) ++ [BitVec.ofNat 8 n]

/-- left_encode. -/
def leftEncode (n : Nat) : List Byte := let b := beBytes 8 n; BitVec.ofNat 8 b.length :: b

/-- right_encode. -/
def rightEncode (n : Nat) : List Byte := let b := beBytes 8 n; b ++ [BitVec.ofNat 8 b.length]

/-- encode_string. -/
def encodeString (l : List Byte) : List Byte := leftEncode (8 * l.length) ++ l

/-- bytepad to a multiple of 136. -/
def bytepad136 (l : List Byte) : List Byte :=
  let x := leftEncode 136 ++ l
  x ++ List.replicate ((136 - x.length % 136) % 136) 0

/-- KMAC256 of `m` under key `k` and customization `c`, of `n` bytes. -/
def kmac256 (k m : List Byte) (n : Nat) (c : List Byte) : List Byte :=
  sponge136 (bytepad136 (encodeString (ascii "KMAC") ++ encodeString c) ++ bytepad136 (encodeString k) ++ m ++ rightEncode (8 * n)) 0x04 n

end Sys2Proof.Machine
end

