-- ==== Sys2Proof/Machine/Lns.lean ====
section
/-! DEFINITION. LNS6 (R94 to R98): codes, decoding, products and the quantisation of a block. Logarithms are compared exactly, through
fourth and eighth powers. -/

namespace Sys2Proof.Machine

/-- F(f), FP32 bits (R95). -/
def lnsFraction (f : Nat) : Nat :=
  if f = 0 then 0x3F800000 else if f = 1 then 0x3F9837F0 else if f = 2 then 0x3FB504F3 else 0x3FD744FD

/-- A block read with scale 0 decodes as if it were 1 (R94). -/
def lnsScale (e : Nat) : Nat := if e = 0 then 1 else e

/-- ± F(f) × 2^(q + ex) with n = 4q + f, exactly. -/
def lnsExact (neg : Bool) (n ex : Int) : FVal :=
  match FFmt.f32.val (lnsFraction (n % 4).toNat) with
  | .fin _ m e => .fin neg m (e + n / 4 + ex)
  | .inf b => .inf b
  | .nan s => .nan s

/-- Sign bit and magnitude code of a code (R94). -/
def lnsNeg (c : Nat) : Bool := c / 32 % 2 == 1
/-- Magnitude code. -/
def lnsMag (c : Nat) : Nat := c % 32

/-- A code in a block of scale `e` as an exact value (R94, R95). -/
def lnsVal (e c : Nat) : FVal :=
  if e = 0xFF then .nan false
  else if lnsMag c = 0 then (if lnsNeg c then .nan false else .fin false 0 0)
  else lnsExact (lnsNeg c) ((lnsMag c : Int) - 16) ((lnsScale e : Int) - 127)

/-- A code decoded to FP32 (R95); decoding sets no flag. -/
def lnsDecode (e c : Nat) : Nat := (roundVal .f32 .rne (lnsVal e c)).1

/-- The exact product of two codes (R96). -/
def lnsProduct (ea ca eb cb : Nat) : FVal :=
  let a := lnsVal ea ca; let b := lnsVal eb cb
  if a.isNan || b.isNan then .nan false
  else
    let neg := lnsNeg ca != lnsNeg cb
    if lnsMag ca = 0 ∨ lnsMag cb = 0 then .fin neg 0 0
    else lnsExact neg ((lnsMag ca : Int) - 16 + ((lnsMag cb : Int) - 16)) ((lnsScale ea : Int) + lnsScale eb - 254)

/-- ⌈log2 x − 15/4⌉ for x = m × 2^e (R97 step 1). -/
def lnsCeil (m : Nat) (e : Int) : Int := e + ((bitLen (m ^ 4 - 1) : Int) - 15 + 3) / 4

/-- The integer nearest to 4 log2 x for x = m × 2^e (R97 step 2). -/
def lnsNearest (m : Nat) (e : Int) : Int := ((bitLen (2 * m ^ 8) : Int) - 1) / 2 + 4 * e

/-- The value is finite. -/
def FVal.isFin : FVal → Bool
  | .fin _ _ _ => true | .inf _ => false | .nan _ => false

/-- |a| < |b| for finite values. -/
def belowMag (a b : FVal) : Bool :=
  match a, b with
  | .fin _ m1 e1, .fin _ m2 e2 => let e := min e1 e2; decide (m1 * 2 ^ (e1 - e).toNat < m2 * 2 ^ (e2 - e).toNat)
  | _, _ => false

/-- The finite value of largest magnitude. -/
def lnsMax (l : List FVal) : FVal := l.foldl (fun a x => if x.isFin && belowMag a x then x else a) (.fin false 0 0)

/-- The scale of a block without a NaN (R97 step 1, R98). -/
def lnsScaleOf (l : List FVal) : Nat :=
  let inf := l.any fun x => !x.isFin
  match lnsMax l with
  | .fin _ m e => if m = 0 then (if inf then 0xFE else 0x7F) else (max 1 (min 0xFE (127 + lnsCeil m e))).toNat
  | .inf _ => 0xFE
  | .nan _ => 0xFF

/-- The code of an element in a block of scale `ex`, with its flags (R97 steps 2 to 5, R98). -/
def lnsCode (ex : Nat) (x : FVal) : Nat × Flags :=
  match x with
  | .nan _ => (0x20, fNV)
  | .inf n => ((if n then 32 else 0) + 31, fOF)
  | .fin n m e =>
    if m = 0 then (0, 0)
    else
      let c := 16 + lnsNearest m e - 4 * ((ex : Int) - 127)
      let s := if n then 32 else 0
      if 31 < c then (s + 31, fOF ||| fNX)
      else if c < 1 then (0, fUF ||| fNX)
      else
        let code := s + c.toNat
        (code, flagIf (!eqVal (FFmt.f32.val (lnsDecode ex code)) x) fNX)

/-- A block of FP32 elements quantised: scale, codes and flags (R97, R98) (DEDUCED, log entry 17). -/
def lnsBlock (l : List Nat) : Nat × List Nat × Flags :=
  let v := l.map fun b => FFmt.f32.val b
  if v.any (·.isNan) then (0xFF, l.map fun _ => 0x20, fNV)
  else
    let ex := lnsScaleOf v
    let c := v.map (lnsCode ex)
    (ex, c.map (·.1), c.foldl (fun f x => f ||| x.2) 0)

/-- Codes packed into the 192 bits of a block (R94). -/
def lnsPack : List Nat → Nat
  | [] => 0
  | c :: rest => c % 64 + 64 * lnsPack rest

/-- Code `i` of a packed block. -/
def lnsAt (p i : Nat) : Nat := (p >>> (6 * i)) % 64

end Sys2Proof.Machine
end

