-- ==== Sys2Proof/Machine/Request.lean ====
section
/-! DEFINITION. The requester's side of a fabric window: the token table entry of a page (R349), packets (R355, R356), and the wait
for earlier stores (R360). -/

namespace Sys2Proof.Machine

/-- The fabric changed by `f`. -/
def State.mapFab (s : State) (f : Fab → Fab) : State := { s with fab := f s.fab }

/-- A valid token table entry (R348). -/
def State.token (s : State) (i : Nat) : Option TokEntry := (s.fab.tokens.find? fun x => x.1 == i).map (·.2)

/-- Window offset of a virtual address through an entry (R349). -/
def TokEntry.offset (e : TokEntry) (va : Word) : Word := va - (e.lbase.setWidth 64 <<< 16)

/-- An element of an access to a fabric window: its index, address, token table entry number and row (R356), and the bytes that it
sends. -/
structure Piece where
  e : Nat
  va : Word
  win : Nat
  row : Nat
  data : List Byte
  deriving DecidableEq, Repr

/-- Pieces cut into packets: at most 256 elements, one token table entry, one row (R356). `acc` is the packet being gathered,
latest first. -/
def packetize : List Piece → List Piece → List (List Piece)
  | acc, [] => if acc.isEmpty then [] else [acc.reverse]
  | acc, x :: rest =>
    match acc with
    | [] => packetize [x] rest
    | y :: _ =>
      if y.win = x.win ∧ y.row = x.row ∧ acc.length < 256 then packetize (x :: acc) rest
      else acc.reverse :: packetize [x] rest

/-- Base-2 logarithm of an element size. -/
def log2Size (w : Nat) : Nat := if w = 1 then 0 else if w = 2 then 1 else if w = 4 then 2 else 3

/-- Successive addresses differ by `d` (DEDUCED, log entry 11). -/
def evenly (d : Word) : List Piece → Bool
  | [] => true
  | [_] => true
  | x :: y :: rest => (y.va - x.va == d) && evenly d (y :: rest)

/-- What a packet asks for: kind, element size, and the operation and type code of an atomic. -/
structure Ask where
  kind : BitVec 8
  size : Nat
  op : BitVec 4
  opTy : BitVec 4
  /-- base of the indexes of an indexed access (R356) -/
  base : Option Word
  /-- order and scope of the access (R229), and what it passes on (R231) -/
  order : Order
  scope : Scope
  passes : List Passed
  deriving DecidableEq, Repr

/-- A weak access of elements. -/
def Ask.weak (kind : BitVec 8) (size : Nat) (base : Option Word) : Ask := ⟨kind, size, 0, 0, base, .wk, .sys, []⟩

/-- A link of the path to a target through a port and a stage node is reported down (R346). -/
def State.pathDown (s : State) (port : BitVec 5) (node : BitVec 8) (target : Nat) : Bool :=
  s.fab.down.contains port || s.fab.downFar.contains (node, BitVec.ofNat 16 target)

/-- The path of attempt `n` to a target is the alternate one (R346): every second attempt, unless a link of one path is down. -/
def State.takesAlternate (s : State) (target n : Nat) : Bool :=
  if s.pathDown (Config.primaryPort target) (Config.primaryNode target) target then true
  else if s.pathDown (Config.alternatePort target) (Config.alternateNode target) target then false else n % 2 == 1

/-- The packet of some pieces, the first of which is `x` (R355, R356). Pieces that are not evenly spaced, which a mask leaves, go as
indexes (DEDUCED, log entry 11). -/
def State.packet (s : State) (a : Ask) (t : TokEntry) (x : Piece) (l : List Piece) : Packet :=
  let step := match l with
    | y :: z :: _ => z.va - y.va
    | _ => BitVec.ofNat 64 a.size
  let indexed := a.base.isSome || !evenly step l
  let b := a.base.getD x.va
  { kind := a.kind, esize := log2Size a.size, indexed := indexed, alternate := s.takesAlternate t.target.toNat 0, attempt := 0,
    requester := Config.packageNumber.setWidth 16, target := t.target.setWidth 16, count := l.length, op := a.op, opTy := a.opTy,
    core := BitVec.ofNat 16 s.core.id, seq := s.core.seq, token := t.token,
    offset := t.offset (if indexed then b else x.va), stride := if indexed then 0 else step,
    indexes := if indexed then l.map fun y => y.va - b else [], data := l.flatMap (·.data), status := 0, members := [], order := a.order, scope := a.scope }

/-- One packet leaves the core. -/
def State.sendPacket (s : State) (a : Ask) (use : List Nat → Use) (l : List Piece) : State :=
  match l with
  | [] => s
  | x :: _ =>
    match s.token x.win with
    | none => s
    | some t =>
      let r : Req := { core := s.core.id, handle := s.core.me.handle, wid := s.core.me.wid, packet := s.packet a t x l,
                       use := use (l.map (·.e)), addr := x.va, pc := s.pc, win := some x.win, sent := s.ftime, passes := a.passes }
      (s.mapFab fun f => { f with reqs := f.reqs ++ [r] }).mapCore fun c => { c with seq := c.seq + 1 }

/-- All packets of an access leave the core, in order. -/
def State.send (s : State) (a : Ask) (use : List Nat → Use) (l : List Piece) : State :=
  (packetize [] l).foldl (fun s l => s.sendPacket a use l) s

/-- NOTOKEN for a piece whose token table entry is not valid (R349, R369) (DEDUCED, log entry 80). -/
def State.needTokens (s : State) (l : List Piece) : Except Halt Unit :=
  match l.find? fun x => (s.token x.win).isNone with
  | some x => raiseAt 0x15 0x06 x.va
  | none => .ok ()

/-- Code of a status (R341). -/
def MStatus.code : MStatus → BitVec 7
  | .ok => 0 | .absent => 1 | .revoked => 2 | .expired => 3 | .bounds => 4 | .data => 5

/-! ### Order among the packets of a thread (R358, R230) -/

/-- A packet writes at its target. -/
def Packet.writes (p : Packet) : Bool := p.kind == 1 || p.kind == 2

/-- Window offsets of the elements of a packet. -/
def Packet.offsets (p : Packet) : List Word :=
  if p.indexed then p.indexes.map fun i => p.offset + i else (List.range p.count).map fun i => p.offset + word i * p.stride

/-- Bytes of an element. -/
def Packet.size (p : Packet) : Nat := 2 ^ p.esize

/-- Two packets touch a common byte of one target (R358). The requester does not know where windows lie, so that two windows of a target may
share any byte (DEDUCED, log entry 96). -/
def Packet.shares (p q : Packet) : Bool :=
  p.target == q.target && (bits p.token 48 16 != bits q.token 48 16 ||
    (Packet.offsets p).any fun a => (Packet.offsets q).any fun b => decide (a.toNat < b.toNat + (Packet.size q))
      && decide (b.toNat < a.toNat + (Packet.size p)))

/-- A request is held behind an earlier one of its thread that touches a byte of it, when one of the two writes: R358, R230, R178. -/
def heldBehind : List Req → Req → Bool
  | [], _ => false
  | q :: rest, r =>
    if q = r then false
    else (q.handle == r.handle && q.wid == r.wid && (Packet.writes q.packet || Packet.writes r.packet) && Packet.shares q.packet r.packet) || heldBehind rest r

/-! ### Accesses whose answer is awaited (R349) -/

/-- Who makes an access: a thread at its core and PC, or a command of its queues by the command's region. -/
structure FarBy where
  core : Nat
  handle : Nat
  wid : Nat
  pc : Word
  cmd : Option Nat
  deriving DecidableEq, Repr

/-- The instruction at the PC of the resident thread. -/
def State.byMe (s : State) : FarBy := ⟨s.core.id, s.core.me.handle, s.core.me.wid, s.pc, none⟩

/-- The sequence number of a core's next packet. -/
def State.seqOf (s : State) (core : Nat) : BitVec 32 :=
  if s.core.id = core then s.core.seq else ((s.parked.find? fun c => c.id == core).map (·.seq)).getD 0

/-- The kind of an access to a fabric window as a whole (R355). -/
inductive FarKind where
  | read | write
  /-- an atomic add (R225) -/
  | add
  deriving DecidableEq, Repr

/-- Order and scope of such an access (R229), and what it passes on (R231). -/
structure FarOrd where
  order : Order
  scope : Scope
  passes : List Passed
  deriving DecidableEq, Repr

/-- A weak access. -/
def FarOrd.weak : FarOrd := ⟨.wk, .sys, []⟩

/-- The packet of an access of `size` bytes at `va`, as elements of at most 8 bytes (R355). -/
def State.farPacket (s : State) (core : Nat) (t : TokEntry) (k : FarKind) (o : FarOrd) (va : Word) (size : Nat) (data : List Byte) : Packet :=
  let w := min size 8
  { kind := if k = .read then 0 else if k = .write then 1 else 2, esize := log2Size w, indexed := false,
    alternate := s.takesAlternate t.target.toNat 0, attempt := 0,
    requester := Config.packageNumber.setWidth 16, target := t.target.setWidth 16, count := size / w, op := 0, opTy := if k = .add then 1 else 0,
    core := BitVec.ofNat 16 core, seq := s.seqOf core, token := t.token, offset := t.offset va, stride := BitVec.ofNat 64 w, indexes := [],
    data := data, status := 0, members := [], order := o.order, scope := o.scope }

/-- An access leaves as a packet (R349); one through an entry that is not valid has failed. -/
def State.farSend (s : State) (b : FarBy) (k : FarKind) (o : FarOrd) (win : Nat) (va : Word) (size : Nat) (data : List Byte) : State :=
  let acc (a : FarAns) : FarAcc := ⟨b.handle, b.wid, b.cmd, k != .read, va, size, a, []⟩
  match s.token win with
  | none => s.mapFab fun f => { f with far := f.far ++ [acc (.failed 0x15 0x06)] }
  | some t =>
    let r : Req := { core := b.core, handle := b.handle, wid := b.wid, packet := s.farPacket b.core t k o va size data, use := .far b.cmd (k != .read),
                     addr := va, pc := b.pc, win := some win, sent := s.ftime, passes := o.passes }
    (s.mapFab fun f => { f with reqs := f.reqs ++ [r], far := f.far ++ [acc .awaited] }).onCore b.core fun c => { c with seq := c.seq + 1 }

/-- The answer to an access comes. -/
def State.farReply (s : State) (r : Req) (cmd : Option Nat) (write : Bool) (a : FarAns) : State :=
  s.mapFab fun f => { f with far := f.far.map fun x =>
    if x.handle = r.handle ∧ x.wid = r.wid ∧ x.cmd = cmd ∧ x.write = write ∧ x.va = r.addr ∧ x.ans = .awaited then
      { x with ans := a, read := r.read } else x }

/-- What a thread's instruction, or one of its commands, has sent is used up. -/
def State.dropFar (s : State) (handle wid : Nat) (cmd : Option Nat) : State :=
  s.mapFab fun f => { f with far := f.far.filter fun x => !(x.handle == handle && x.wid == wid && x.cmd == cmd) }

/-- The `size` bytes at `va` in a fabric window, as an instruction that needs them in issue reads them: it waits for them, and their failure is
fabric error, or the data error that their packet met (R349, R359, R290). -/
def State.farLoad (s : State) (o : FarOrd) (win : Nat) (va : Word) (size : Nat) : Except Halt Nat := do
  s.needTokens [{ e := 0, va := va, win := win, row := 0, data := [] }]
  match s.farAns s.core.me.handle s.core.me.wid none false va size with
  | some (.data l) => .ok (valueOfBytes l)
  | some (.failed k c) => .error (.exc ⟨k, c, va, s.pc⟩)
  | some .awaited => .error .wait
  | none => .error (.waitAs (s.farSend s.byMe .read o win va size []))

/-- An outstanding request of the resident thread. -/
def State.mine (s : State) (r : Req) : Bool := r.handle == s.core.me.handle && r.wid == s.core.me.wid

/-- The releases that the answered read of an instruction found (R231). -/
def State.farRead (s : State) (va : Word) (size : Nat) : List Pub :=
  ((s.fab.far.find? fun x => x.handle == s.core.me.handle && x.wid == s.core.me.wid && x.cmd == none && !x.write && x.va == va && x.size == size).map
    (·.read)).getD []

/-- A thread that issued on core `core` synchronises, at scope `sc`, with those of the releases that a request of its own found in this package whose
scopes are mutually inclusive with it: the request is at the package (R227, R229, R231). -/
def State.acquireFar (s : State) (core handle wid : Nat) (sc : Scope) (l : List Pub) : State :=
  let l := s.heard atPackage sc l
  (s.mapMem fun m => closeHeard m l).hear core handle wid (passedOn l) []

/-- A store or an atomic of a thread's own, not of its commands (R360). -/
def Req.ownStore (r : Req) : Bool :=
  Packet.writes r.packet && match r.use with
    | .far _ _ => false | .line _ _ => false | .member _ _ => false
    | .store => true | .lanes _ _ _ _ => true | .scalar _ _ _ => true | .quant _ _ _ => true

/-- The wait of R360 for earlier stores and atomics to fabric windows, then the report of the earliest that failed, which leaves the
others to be reported (DEDUCED, log entry 10). -/
def State.drainFabric (s : State) : Except Halt Unit :=
  if s.fab.reqs.any fun r => s.mine r && r.ownStore then .error .wait
  else match s.fab.fails.find? fun x => x.handle == s.core.me.handle && x.wid == s.core.me.wid with
    | none => .ok ()
    | some x => .error (.partly x.exc (s.mapFab fun f => { f with fails := f.fails.erase x }))

/-- The wait for every earlier store and atomic of the thread, before a release or an engine command (R240, R261, R360) (DEDUCED, log entry 32). -/
def State.settleStores (s : State) : Except Halt Unit := do
  s.drainOps
  s.drainFabric

end Sys2Proof.Machine
end

