-- ==== Sys2Proof/Machine/Smem.lean ====
section
/-! DEFINITION. Scalar loads and stores (R169) with their orders and scopes (R228 to R235). -/

namespace Sys2Proof.Machine

/-- Effective address of a scalar access of `size` bytes (R169). -/
def State.smemAddr (s : State) (a : Reg) (size : Nat) (off : BitVec 7) : Word :=
  s.x a + off.signExtend 64 * BitVec.ofNat 64 size

/-- The read of a scalar load at its place: the value and the state after the access. -/
def State.loadOrdered (s : State) (va : Word) (l : Loc) (size : Nat) (o : Order) (sc : Scope) : Except Halt (Nat × State) := do
  let r ← liftE (loadLoc s.part s.mem (s.agent (Order.strong o) sc) l size va)
  let s : State := { s with mem := r.2 }
  let s := if Order.acquires o then s.acquire sc (pubsAt s.mem l size)
    else if o = Order.rlx then s.mapCore fun c => { c with loaded := c.loaded ++ pubsAt s.mem l size } else s
  .ok (r.1, if Order.syncs o then s.sync else s)

/-- A value of `size` bytes widened to 64 bits (R169). -/
def widen (sgn : Bool) (size : Nat) (v : Nat) : Word :=
  if sgn then BitVec.ofInt 64 (intOf true (8 * size) v) else word (v % 2 ^ (8 * size))

/-- The value of `x[r]` has yet to return (R38) (DEDUCED, log entry 84). -/
def State.pend (s : State) (r : Reg) : State :=
  if r = 0 then s else s.mapCore fun c => { c with xpend := c.xpend ||| (1#32 <<< r.toNat), xfail := c.xfail.filter fun q => q.1 != r }

/-- The piece of a scalar access to a fabric window. -/
def scalarPiece (va : Word) (win : Nat) (data : List Byte) : Piece := { e := 0, va := va, win := win, row := 0, data := data }

/-- The low `n` bytes of a number, least first. -/
def bytesOf (v : Nat) : Nat → List Byte
  | 0 => []
  | n + 1 => BitVec.ofNat 8 v :: bytesOf (v / 256) n

/-- A scalar access of an order that releases waits for earlier stores and atomics (R360). -/
def State.releaseFabric (s : State) (o : Order) : Except Halt Unit :=
  match o with
  | .rel => s.settleStores
  | .sc => s.settleStores
  | .wk => .ok ()
  | .rlx => .ok ()
  | .acq => .ok ()

/-- A scalar load of `size` bytes (R169). A value from HBM or a fabric window returns later (R38, R359). -/
def State.scalarLoad (s : State) (d a : Reg) (sc : Scope) (o : Order) (off : BitVec 7) (size : Nat) (sgn : Bool) :
    Except Halt State := do
  let va := s.smemAddr a size off
  s.releaseFabric o
  let l ← s.locate va size .load
  s.awaitChain l size
  let s := s.touch va
  match l with
  | .fabric win _ => do
    let x := scalarPiece va win []
    s.needTokens [x]
    let s := (s.send ⟨0, size, 0, 0, none, o, sc, []⟩ (fun _ => .scalar d size sgn) [x]).pend d
    .ok ((if Order.syncs o then s.sync else s).complete 4)
  | .spad _ => do
    let (v, s) ← s.loadOrdered va l size o sc
    .ok ((s.setX d (widen sgn size v)).complete 4)
  | _ => do
    let (v, s) ← s.loadOrdered va l size o sc
    .ok (((s.setX d (widen sgn size v)).pend d).complete 4)

/-- A scalar store of the low `size` bytes of `x[d]` (R169). -/
def State.scalarStore (s : State) (d a : Reg) (sc : Scope) (o : Order) (off : BitVec 7) (size : Nat) : Except Halt State := do
  let va := s.smemAddr a size off
  s.releaseFabric o
  let l ← s.locate va size .store
  s.awaitChain l size
  let s := s.touch va
  match l with
  | .fabric win _ => do
    let x := scalarPiece va win (bytesOf (s.x d).toNat size)
    s.needTokens [x]
    let s := s.send ⟨1, size, 0, 0, none, o, sc, if Order.strong o then s.passes sc (Order.releases o) else []⟩ (fun _ => .store) [x]
    .ok ((if Order.syncs o then s.sync else s).complete 4)
  | _ => do
    let m ← liftE (storeLoc s.part s.mem (s.agent (Order.strong o) sc) l size (s.x d).toNat va)
    let s : State := { s with mem := m }
    let s := if Order.strong o then s.publish l size sc (Order.releases o) else s
    .ok ((if Order.syncs o then s.sync else s).complete 4)

/-- `ld.i8` (R169). -/
def execLdI8 (d a : Reg) (sc : Scope) (ord : Order) (off : BitVec 7) (s : State) : Host.Outcome State Fault Refusal :=
  outcome s (s.scalarLoad d a sc ord off 1 true)

/-- `ld.i16` (R169). -/
def execLdI16 (d a : Reg) (sc : Scope) (ord : Order) (off : BitVec 7) (s : State) : Host.Outcome State Fault Refusal :=
  outcome s (s.scalarLoad d a sc ord off 2 true)

/-- `ld.i32` (R169). -/
def execLdI32 (d a : Reg) (sc : Scope) (ord : Order) (off : BitVec 7) (s : State) : Host.Outcome State Fault Refusal :=
  outcome s (s.scalarLoad d a sc ord off 4 true)

/-- `ld.i64` (R169). -/
def execLdI64 (d a : Reg) (sc : Scope) (ord : Order) (off : BitVec 7) (s : State) : Host.Outcome State Fault Refusal :=
  outcome s (s.scalarLoad d a sc ord off 8 false)

/-- `ld.n8` (R169). -/
def execLdN8 (d a : Reg) (sc : Scope) (ord : Order) (off : BitVec 7) (s : State) : Host.Outcome State Fault Refusal :=
  outcome s (s.scalarLoad d a sc ord off 1 false)

/-- `ld.n16` (R169). -/
def execLdN16 (d a : Reg) (sc : Scope) (ord : Order) (off : BitVec 7) (s : State) : Host.Outcome State Fault Refusal :=
  outcome s (s.scalarLoad d a sc ord off 2 false)

/-- `ld.n32` (R169). -/
def execLdN32 (d a : Reg) (sc : Scope) (ord : Order) (off : BitVec 7) (s : State) : Host.Outcome State Fault Refusal :=
  outcome s (s.scalarLoad d a sc ord off 4 false)

/-- `st.8` (R169). -/
def execSt8 (d a : Reg) (sc : Scope) (ord : Order) (off : BitVec 7) (s : State) : Host.Outcome State Fault Refusal :=
  outcome s (s.scalarStore d a sc ord off 1)

/-- `st.16` (R169). -/
def execSt16 (d a : Reg) (sc : Scope) (ord : Order) (off : BitVec 7) (s : State) : Host.Outcome State Fault Refusal :=
  outcome s (s.scalarStore d a sc ord off 2)

/-- `st.32` (R169). -/
def execSt32 (d a : Reg) (sc : Scope) (ord : Order) (off : BitVec 7) (s : State) : Host.Outcome State Fault Refusal :=
  outcome s (s.scalarStore d a sc ord off 4)

/-- `st.64` (R169). -/
def execSt64 (d a : Reg) (sc : Scope) (ord : Order) (off : BitVec 7) (s : State) : Host.Outcome State Fault Refusal :=
  outcome s (s.scalarStore d a sc ord off 8)

end Sys2Proof.Machine
end

