-- ==== Sys2Proof/Machine/Flags.lean ====
section
/-! DEFINITION. Flags and traps of arithmetic: `fcsr` (R57, R91), FP trap (R92), `tflags` (R107), `dhealth` (R108) and tangent
trap (R109), and the end of a vector instruction in the frame of R118 with the push of R40. -/

namespace Sys2Proof.Machine

/-- A computed element with the flags of its value and of each tangent slot. -/
structure Res where
  val : Nat
  tan : List Nat
  fl : Flags
  tfl : List Flags
  deriving DecidableEq, Repr

/-- A result without flags. -/
def Res.plain (l : Lane) : Res := ⟨l.val, l.tan, 0, []⟩

/-- The lane of a result (DEDUCED, log entry 9). -/
def Res.lane (r : Res) : Lane := ⟨r.val, r.tan⟩

/-- Tangent flags NV, DZ, OF and UF of one direction (R107): no NX. -/
def kinds (f : Flags) : BitVec 4 := bits f 1 4

/-- The flags of a list joined. -/
def joinFlags (l : List Flags) : Flags := l.foldl (· ||| ·) 0

/-- The flags of direction `i` over results. -/
def dirFlags (l : List Res) (i : Nat) : BitVec 4 := kinds (joinFlags (l.map fun r => r.tfl.getD i 0))

/-- `tflags` bits of a list of directions from `i` up (R57). -/
def tflagBits (l : List Res) : Nat → Word
  | 0 => 0
  | n + 1 => (dirFlags l n).setWidth 64 <<< (4 * n) ||| tflagBits l n

/-- Tangent slot bits that are a NaN or an infinity of a format (R108). -/
def spoils (f : FFmt) (b : Nat) : Bool := (f.val b).special

/-- `dhealth` bits below `n` of lanes, of the planes in `which` (R108). -/
def spoiled (f : FFmt) (which : BitVec 16) (l : List Lane) : Nat → Word
  | 0 => 0
  | n + 1 =>
    (if which.getLsbD n && l.any fun x => spoils f (x.slot n) then 1#64 <<< n else 0) ||| spoiled f which l n

/-- The FP trap enables (R57). -/
def State.fpEnables (s : State) : Flags := bits s.st.fcsr 8 5

/-- The tangent trap enables (R57). -/
def State.tanEnables (s : State) : BitVec 4 := s.st.tctl

/-- Set sticky flags of `fcsr` (R91). -/
def State.addFlags (s : State) (f : Flags) : State :=
  s.mapSt fun t => { t with fcsr := t.fcsr ||| (f.setWidth 13 <<< 3) }

/-- FP trap when a flag whose enable is set would be set (R92); `addr` is the element. -/
def State.fpTrap (s : State) (f : Flags) (addr : Nat) : Except Halt Unit :=
  if f &&& s.fpEnables != 0 then raiseAt 0x0F (0#3 ++ f) (BitVec.ofNat 64 addr) else .ok ()

/-- The lowest direction below `n`, counted from `i`, in which an enabled kind arose. -/
def trapDir (en : BitVec 4) (l : List Res) (i : Nat) : Nat → Option Nat
  | 0 => none
  | n + 1 => if dirFlags l i &&& en != 0 then some i else trapDir en l (i + 1) n

/-- Tangent trap (R109); `l` are the results of the active elements with their indices. -/
def State.tanTrap (s : State) (n : Nat) (l : List (Nat × Res)) : Except Halt Unit :=
  match trapDir s.tanEnables (l.map (·.2)) 0 n with
  | none => .ok ()
  | some i =>
    let at? := l.find? fun x => kinds (x.2.tfl.getD i 0) &&& s.tanEnables != 0
    raiseAt 0x10 (BitVec.ofNat 4 i ++ dirFlags (l.map (·.2)) i) (BitVec.ofNat 64 ((at?.map (·.1)).getD 0))

/-- The lowest index whose value raised an enabled flag. -/
def trapElem (en : Flags) (l : List (Nat × Res)) : Nat :=
  ((l.find? fun x => x.2.fl &&& en != 0).map (·.1)).getD 0

/-- The push of R40: `l1` takes `l0`, `l0` takes the result. -/
def State.push (s : State) (r : VReg) : State := s.mapVec fun c => { c with l1 := c.l0, l0 := r }

/-- Write the result of a pushing instruction: to `l0`, and to `d` when it is another register (R40, R41). -/
def State.pushTo (s : State) (d : VSpec) (r : VReg) : State :=
  let s' := s.push r
  if d = .l0 then s' else s'.setVreg d r

/-- The contents that lie under a result: of `l0` nothing (R41). -/
def State.under (s : State) (d : VSpec) : VReg := if d = .l0 then .void else s.vreg d

/-- R118's choice for one element. -/
def mergeLane (zero act : Bool) (w : Nat) (res old : Lane) : Lane :=
  if act then res.widen w else if zero then Lane.zero w else old.widen w

/-- What an instruction in the frame of R118 writes. -/
structure Write where
  dest : VSpec
  fmt : Fmt
  /-- bundle width of the result -/
  w : Nat
  mask : MaskOf
  /-- planes watched for `dhealth` (R108) -/
  watch : BitVec 16
  deriving DecidableEq, Repr

/-- The float format whose NaNs and infinities `dhealth` watches. -/
def Fmt.ffmt : Fmt → FFmt
  | .f16 => .f16 | .bf16 => .bf16
  | .void => .f32 | .f32 => .f32 | .i8 => .f32 | .i16 => .f32 | .i32 => .f32 | .i64 => .f32 | .mask => .f32

/-- The end of the frame of R118: traps, flags, the push and the write of the destination. `res` has one result for each element
below `vl`; those of inactive elements are not used. -/
def State.commit (s : State) (o : Write) (res : List Res) : Except Halt State := do
  s.awaitDest o.dest
  let bitsW := Fmt.bits o.fmt
  let act := s.active o.mask
  let on := ((List.range s.vl).zip res |>.zip act).filterMap fun x => if x.2 then some x.1 else none
  let fl := joinFlags (on.map fun x => x.2.fl)
  s.fpTrap fl (trapElem s.fpEnables on)
  s.tanTrap o.w on
  let old := (s.vreg o.dest).lanes bitsW s.vl
  let lanes := ((res.map Res.lane).zip (old.zip act)).map fun x => mergeLane o.mask.zero x.2.2 o.w x.1 x.2.1
  let hurt := spoiled (Fmt.ffmt o.fmt) o.watch (on.map fun x => Res.lane x.2) o.w
  let s' := (s.addFlags fl).mapSt fun t =>
    { t with tflags := t.tflags ||| tflagBits (on.map (·.2)) o.w, dhealth := t.dhealth ||| hurt }
  .ok (s'.pushTo o.dest ((s.under o.dest).write (Tag.of o.fmt o.w) bitsW o.w lanes))

end Sys2Proof.Machine
end

