-- ==== Sys2Proof/Machine/Trans.lean ====
section
/-! DEFINITION. The correctly rounded functions of R104: exp2, log2, tanh and logistic. Each is computed to `tp` fractional bits,
far beyond what the rounding of any element format can tell apart, with the results that a format represents exactly, and
arguments so small that the result lies next to such a value, taken apart first (DESIGN CHOICE, log entry 20). -/

namespace Sys2Proof.Machine

/-- Fractional bits of the working precision. -/
def tp : Nat := 320

/-- 2^tp. -/
def tOne : Nat := 2 ^ tp

/-- Product of two fixed-point numbers. -/
def fmul (a b : Nat) : Nat := a * b / tOne

/-- Σ z^(2k+1) / (2k+1) over `n` terms from term `k`, with `p` = z^(2k+1) and `z2` = z². -/
def atanhSum (z2 : Nat) : Nat → Nat → Nat → Nat
  | 0, _, _ => 0
  | n + 1, k, p => p / (2 * k + 1) + atanhSum z2 n (k + 1) (fmul p z2)

/-- ln(1 + u) for 1 ≤ m = 1 + u < 2 as num / den: 2 atanh((m − 1) / (m + 1)). -/
def lnFix (num den : Nat) : Nat :=
  let z := (num - den) * tOne / (num + den)
  2 * atanhSum (fmul z z) 110 0 z

/-- ln 2. -/
def ln2Fix : Nat := lnFix 2 1

/-- Σ x^k / k! over `n` terms from term `k`, with `p` = x^(k−1) / (k−1)!. -/
def expSum (x : Nat) : Nat → Nat → Nat → Nat
  | 0, _, p => p
  | n + 1, k, p => p + expSum x n (k + 1) (fmul p x / k)

/-- 2^f for a fixed-point fraction 0 ≤ f < 1. -/
def exp2Fix (f : Nat) : Nat := expSum (fmul f ln2Fix) 90 1 tOne

/-- m × 2^e as a fixed-point number, rounded down. -/
def toFix (m : Nat) (e : Int) : Nat := if 0 ≤ e + tp then m * 2 ^ (e + tp).toNat else m / 2 ^ (-(e + tp)).toNat

/-- (−1)^neg × (v + something below 1) × 2^e rounded, for an inexact result. -/
def inexactMag (f : FFmt) (rm : RMode) (neg : Bool) (v : Nat) (e : Int) : Nat × Flags := roundMag f rm neg v e true

/-- A result just above (−1)^neg × m × 2^e. -/
def justAbove (f : FFmt) (rm : RMode) (neg : Bool) (m : Nat) (e : Int) : Nat × Flags :=
  roundMag f rm neg (m * 2 ^ 200) (e - 200) true

/-- A result just below (−1)^neg × m × 2^e. -/
def justBelow (f : FFmt) (rm : RMode) (neg : Bool) (m : Nat) (e : Int) : Nat × Flags :=
  roundMag f rm neg (m * 2 ^ 200 - 1) (e - 200) true

/-- Position of the leading bit of m × 2^e. -/
def topOf (m : Nat) (e : Int) : Int := e + bitLen m - 1

/-- 2^x rounded, with its flags (DESIGN CHOICE, log entry 20). -/
def exp2Val (f : FFmt) (rm : RMode) (x : FVal) : Nat × Flags :=
  match x with
  | .nan s => (f.nan, flagIf s fNV)
  | .inf n => (if n then 0 else f.inf, 0)
  | .fin n m e =>
    if m = 0 then roundVal f rm .one
    else if 16 ≤ topOf m e then
      (if n then roundMag f rm false (2 ^ 200) (-1000000) true else roundMag f rm false 1 1000000 false)
    else if topOf m e < -100 then (if n then justBelow f rm false 1 0 else justAbove f rm false 1 0)
    else
      let v := toFix m e
      let i : Int := if n then -((v / tOne : Nat) : Int) - (if v % tOne = 0 then 0 else 1) else (v / tOne : Nat)
      let fr := if n then (if v % tOne = 0 then 0 else tOne - v % tOne) else v % tOne
      if fr = 0 then roundMag f rm false 1 i false else inexactMag f rm false (exp2Fix fr) (i - tp)

/-- log2 x rounded, with its flags (DESIGN CHOICE, log entry 20). -/
def log2Val (f : FFmt) (rm : RMode) (x : FVal) : Nat × Flags :=
  match x with
  | .nan s => (f.nan, flagIf s fNV)
  | .inf n => if n then (f.nan, fNV) else (f.inf, 0)
  | .fin n m e =>
    if m = 0 then (f.sign + f.inf, fDZ)
    else if n then (f.nan, fNV)
    else
      let t := topOf m e
      let den := 2 ^ (bitLen m - 1)
      if m = den then roundVal f rm (.fin (decide (t < 0)) t.natAbs 0)
      else
        let frac : Int := (lnFix m den * tOne / ln2Fix : Nat)
        let v : Int := t * (tOne : Nat) + frac
        inexactMag f rm (decide (v < 0)) (if v < 0 then v.natAbs - 1 else v.natAbs) (-(tp : Int))

/-- e^(−y) for a fixed-point y, as a mantissa of `tp` fractional bits in [1, 2) and an exponent. -/
def expNeg (y : Nat) : Nat × Int :=
  let w := y * tOne / ln2Fix
  let i := w / tOne
  let fr := w % tOne
  if fr = 0 then (tOne, -(i : Int)) else (exp2Fix (tOne - fr), -(i : Int) - 1)

/-- tanh x rounded, with its flags. -/
def tanhVal (f : FFmt) (rm : RMode) (x : FVal) : Nat × Flags :=
  match x with
  | .nan s => (f.nan, flagIf s fNV)
  | .inf n => roundVal f rm (.fin n 1 0)
  | .fin n m e =>
    if m = 0 then roundVal f rm (.fin n 0 0)
    else if topOf m e < -60 then justBelow f rm n m e
    else if 7 ≤ topOf m e then justBelow f rm n 1 0
    else
      let y := toFix m e
      let (a, i) := expNeg (2 * y)
      let q := a / 2 ^ (-i).toNat + 1
      inexactMag f rm n ((tOne - q) * tOne / (tOne + q)) (-(tp : Int))

/-- 1 / (1 + e^(−x)) rounded, with its flags. -/
def logisticVal (f : FFmt) (rm : RMode) (x : FVal) : Nat × Flags :=
  match x with
  | .nan s => (f.nan, flagIf s fNV)
  | .inf n => if n then (0, 0) else roundVal f rm .one
  | .fin n m e =>
    if m = 0 then roundVal f rm (.fin false 1 (-1))
    else if topOf m e < -100 then (if n then justBelow f rm false 1 (-1) else justAbove f rm false 1 (-1))
    else if 8 ≤ topOf m e then
      (if n then roundMag f rm false (2 ^ 200) (-1000000) true else justBelow f rm false 1 0)
    else
      let (a, i) := expNeg (toFix m e)
      let q := a / 2 ^ (-i).toNat + 1
      if n then
        -- e^(−y) / (1 + e^(−y)), kept relative to its own exponent
        inexactMag f rm false (a * tOne / (tOne + q)) (i - tp)
      else inexactMag f rm false (tOne * tOne / (tOne + q)) (-(tp : Int))

end Sys2Proof.Machine
end

