-- ==== Sys2Proof/Machine/Elem.lean ====
section
/-! DEFINITION. One element of a floating-point instruction: the value operations and their tangent rules (R104, R105), shared
by the lanes and the scalar FP unit. -/

namespace Sys2Proof.Machine

/-- The operations of R104's table. -/
inductive FOp where
  | add | sub | mul | div | min | max | copysign
  /-- RN(c + σ·a·b) with c = −d when `negC` and σ = −1 when `negP` (R122) -/
  | ma (negC negP : Bool)
  | sqrt | rsqrt | recip | exp2 | log2 | tanh | logistic | relu | abs | neg | round
  deriving DecidableEq, Repr

/-- Sum of two elements. -/
def fAdd (f : FFmt) (rm : RMode) (a b : Nat) : Nat × Flags := addVal f rm (f.val a) (f.val b)
/-- Difference of two elements: a + (−b) (R90). -/
def fSub (f : FFmt) (rm : RMode) (a b : Nat) : Nat × Flags := addVal f rm (f.val a) (f.val b).flip
/-- Product of two elements. -/
def fMul (f : FFmt) (rm : RMode) (a b : Nat) : Nat × Flags := mulVal f rm (f.val a) (f.val b)
/-- Quotient of two elements. -/
def fDiv (f : FFmt) (rm : RMode) (a b : Nat) : Nat × Flags := divVal f rm (f.val a) (f.val b)
/-- c + a·b of elements, rounded once. -/
def fFma (f : FFmt) (rm : RMode) (c a b : Nat) : Nat × Flags := fmaVal f rm (f.val c) (f.val a) (f.val b)

/-- An element with its sign bit inverted when the condition holds. -/
def negIf (f : FFmt) (b : Bool) (x : Nat) : Nat := if b then f.negBits x else x

/-- The bits of ±2^e. -/
def power (f : FFmt) (neg : Bool) (e : Int) : Nat := (roundVal f .rne (.fin neg 1 e)).1

/-- RN(x × LN2) with LN2 the FP32 constant of R104 (DEDUCED, log entry 21). -/
def fLn2 (f : FFmt) (rm : RMode) (x : Nat) : Nat × Flags := mulVal f rm (f.val x) (FFmt.f32.val 0x3F317218)

/-- minimumNumber or maximumNumber of two elements, and whether b is the one returned (R104). -/
def fPick (f : FFmt) (mx : Bool) (a b : Nat) : Nat × Flags × Bool :=
  match pickVal mx (f.val a) (f.val b) with
  | (none, fl) => (f.nan, fl, false)
  | (some true, fl) => (a, fl, false)
  | (some false, fl) => (b, fl, true)

/-- a > 0. -/
def positive (f : FFmt) (a : Nat) : Bool := !(f.val a).isNan && !(f.val a).isZero && !(f.val a).neg

/-- The value of an element (R121 to R124). -/
def valueOf (f : FFmt) (rm : RMode) (op : FOp) (a b d : Nat) : Nat × Flags :=
  match op with
  | .add => fAdd f rm a b
  | .sub => fSub f rm a b
  | .mul => fMul f rm a b
  | .div => fDiv f rm a b
  | .min => let r := fPick f false a b; (r.1, r.2.1)
  | .max => let r := fPick f true a b; (r.1, r.2.1)
  | .copysign => (f.absBits a + (if f.signBit b then f.sign else 0), 0)
  | .ma nc np => fFma f rm (negIf f nc d) (negIf f np a) b
  | .sqrt => sqrtVal f rm (f.val a)
  | .rsqrt => rsqrtVal f rm (f.val a)
  | .recip => recipVal f rm (f.val a)
  | .exp2 => exp2Val f rm (f.val a)
  | .log2 => log2Val f rm (f.val a)
  | .tanh => tanhVal f rm (f.val a)
  | .logistic => logisticVal f rm (f.val a)
  | .relu => if (f.val a).isNan then (f.nan, flagIf (f.val a).isSig fNV) else (if positive f a then a else 0, 0)
  | .abs => (f.absBits a, 0)
  | .neg => (f.negBits a, 0)
  | .round => let r := roundIntegral f rm a; (r.1, r.2 &&& ~~~fNX)

/-- Operands of one element: values, slot-i tangents, and whether a and b are bundled. -/
structure Args where
  a : Nat
  b : Nat
  d : Nat
  da : Nat
  db : Nat
  dd : Nat
  bundledA : Bool
  bundledB : Bool
  deriving DecidableEq, Repr

/-- A result followed by a step that reads it, with the flags of both (DEDUCED, log entry 6). -/
def andThen (r : Nat × Flags) (g : Nat → Nat × Flags) : Nat × Flags := let q := g r.1; (q.1, r.2 ||| q.2)

/-- Tangent slot of an element whose value is `v` (R104) (DEDUCED, log entry 6). A signalling NaN that `min`, `max` or `relu` only selects sets
no flag (DESIGN CHOICE, log entry 91). -/
def tangentOf (f : FFmt) (rm : RMode) (op : FOp) (v : Nat) (x : Args) : Nat × Flags :=
  match op with
  | .add => fAdd f rm x.da x.db
  | .sub => fSub f rm x.da x.db
  | .mul =>
    if x.bundledA && x.bundledB then andThen (fMul f rm x.da x.b) fun t => fFma f rm t x.a x.db
    else if x.bundledA then fMul f rm x.da x.b
    else fMul f rm x.db x.a
  | .div => andThen (fFma f rm x.da (f.negBits v) x.db) fun t => fDiv f rm t x.b
  | .min => (if (fPick f false x.a x.b).2.2 then x.db else x.da, 0)
  | .max => (if (fPick f true x.a x.b).2.2 then x.db else x.da, 0)
  | .copysign => (negIf f (f.signBit v != f.signBit x.a) x.da, 0)
  | .ma nc np => andThen (fFma f rm (negIf f nc x.dd) (negIf f np x.da) x.b) fun t => fFma f rm t (negIf f np x.a) x.db
  | .sqrt => andThen (fMul f rm (power f false 1) v) fun t => fDiv f rm x.da t
  | .rsqrt => andThen (fMul f rm v v) fun t => andThen (fMul f rm t v) fun t => andThen (fMul f rm (power f true (-1)) t) fun t =>
      fMul f rm t x.da
  | .recip => andThen (fMul f rm v v) fun t => fMul f rm (f.negBits t) x.da
  | .exp2 => andThen (fLn2 f rm v) fun t => fMul f rm t x.da
  | .log2 => andThen (fLn2 f rm x.a) fun t => fDiv f rm x.da t
  | .tanh => andThen (fFma f rm (power f false 0) (f.negBits v) v) fun t => fMul f rm t x.da
  | .logistic => andThen (fFma f rm v (f.negBits v) v) fun t => fMul f rm t x.da
  | .relu => (if positive f x.a then x.da else 0, 0)
  | .abs => (negIf f (f.signBit x.a) x.da, 0)
  | .neg => (f.negBits x.da, 0)
  | .round => (0, 0)

/-- One element with `w` tangent slots (R104, R105). -/
def element (f : FFmt) (rm : RMode) (op : FOp) (w : Nat) (bundledA bundledB : Bool) (a b d : Lane) : Res :=
  let v := valueOf f rm op a.val b.val d.val
  if (f.val v.1).isNan then ⟨v.1, List.replicate w f.nan, v.2, []⟩
  else
    let t := (List.range w).map fun i =>
      tangentOf f rm op v.1 ⟨a.val, b.val, d.val, a.slot i, b.slot i, d.slot i, bundledA, bundledB⟩
    ⟨v.1, t.map (·.1), v.2, t.map (·.2)⟩

end Sys2Proof.Machine
end

