-- ==== Sys2Proof/Machine/Vfp.lean ====
section
/-! DEFINITION. Floating-point vector arithmetic: majors 0x08, 0x09 and 0x0A (R121 to R124) and conversions (R125 to R127), in the
frame of R118. -/

namespace Sys2Proof.Machine

/-- Bytes of an instruction with or without a prefix. -/
def vlen (p : Option VPfx) : Nat := if p.isSome then 8 else 4

/-- Destination d as a source (R116). -/
def dSource (reads : Bool) (d : VSpec) (fmt : Fmt) : List Source := if reads then [⟨0, .vec d fmt⟩] else []

/-- Destination d as a register that may be empty. -/
def dReads (reads : Bool) (d : VSpec) (trap : Bool) : List Reads := if reads then [⟨d, trap, 3⟩] else []

/-- Bundle width of operand b. -/
def State.bWidth (s : State) : VB → Nat
  | .vv r => (s.vreg r).width
  | .vs r => Bundle.planes (s.f r).tag.bundle
  | .vi _ => 0

/-- An element operation over lanes of a, b and d. -/
def lanes3 (g : Lane → Lane → Lane → Res) (a b d : List Lane) : List Res :=
  ((a.zip b).zip d).map fun x => g x.1.1 x.1.2 x.2

/-- A floating-point instruction of two or three operands (R121, R122). `acc` says that d is an operand. -/
def State.floatOp (s : State) (i : Instr) (p : Option VPfx) (d a : VSpec) (b : VB) (op : FOp) (acc : Bool) : Except Halt State := do
  let t := typeOf .f32 p
  let m := maskOf p
  let reads := acc || m.merges
  s.vecIllegal ⟨i, p.isSome, m.mask != 0, [ETy.bytes t]⟩ false
  let w ← s.checkTags [ETy.bytes t] true ([⟨1, .vec a (ETy.fmt t)⟩] ++ VB.fsource t b ++ dSource reads d (ETy.fmt t)) (some d) none
  s.awaitSources ([⟨a, trapA p, 1⟩] ++ VB.reads (trapB p) b ++ dReads reads d (trapD p))
  let ra := s.vreg a
  let g := element (ETy.ffmt t) (s.rmode .dyn) op w (ra.width != 0) (s.bWidth b != 0)
  let res := lanes3 g (ra.lanes (ETy.bits t) s.vl) (s.flanes p t b) ((s.vreg d).lanes (ETy.bits t) s.vl)
  let s' ← s.commit ⟨d, ETy.fmt t, w, m, 0xFFFF⟩ res
  .ok (s'.complete (vlen p))

/-- A floating-point function of one operand (R123, R124). -/
def State.floatFun (s : State) (i : Instr) (p : Option VPfx) (d a : VSpec) (op : FOp) (rm : Rm) : Except Halt State := do
  let t := typeOf .f32 p
  let m := maskOf p
  s.vecIllegal ⟨i, p.isSome, m.mask != 0, [ETy.bytes t]⟩ false
  let w ← s.checkTags [ETy.bytes t] true ([⟨1, .vec a (ETy.fmt t)⟩] ++ dSource m.merges d (ETy.fmt t)) (some d) none
  s.awaitSources ([⟨a, trapA p, 1⟩] ++ dReads m.merges d (trapD p))
  let ra := s.vreg a
  let g := fun x => element (ETy.ffmt t) (s.rmode rm) op w (ra.width != 0) false x (Lane.zero 0) (Lane.zero 0)
  let s' ← s.commit ⟨d, ETy.fmt t, w, m, 0xFFFF⟩ ((ra.lanes (ETy.bits t) s.vl).map g)
  .ok (s'.complete (vlen p))

/-! ### VFP (R121) -/

/-- `vfadd` (R121). -/
def execVfadd (p : Option VPfx) (d a : VSpec) (b : VB) (s : State) : Host.Outcome State Fault Refusal :=
  outcome s (s.floatOp (.vfadd p d a b) p d a b .add false)

/-- `vfsub` (R121). -/
def execVfsub (p : Option VPfx) (d a : VSpec) (b : VB) (s : State) : Host.Outcome State Fault Refusal :=
  outcome s (s.floatOp (.vfsub p d a b) p d a b .sub false)

/-- `vfmul` (R121). -/
def execVfmul (p : Option VPfx) (d a : VSpec) (b : VB) (s : State) : Host.Outcome State Fault Refusal :=
  outcome s (s.floatOp (.vfmul p d a b) p d a b .mul false)

/-- `vfdiv` (R121). -/
def execVfdiv (p : Option VPfx) (d a : VSpec) (b : VB) (s : State) : Host.Outcome State Fault Refusal :=
  outcome s (s.floatOp (.vfdiv p d a b) p d a b .div false)

/-- `vfmin` (R121). -/
def execVfmin (p : Option VPfx) (d a : VSpec) (b : VB) (s : State) : Host.Outcome State Fault Refusal :=
  outcome s (s.floatOp (.vfmin p d a b) p d a b .min false)

/-- `vfmax` (R121). -/
def execVfmax (p : Option VPfx) (d a : VSpec) (b : VB) (s : State) : Host.Outcome State Fault Refusal :=
  outcome s (s.floatOp (.vfmax p d a b) p d a b .max false)

/-- `vfcopysign` (R121). -/
def execVfcopysign (p : Option VPfx) (d a : VSpec) (b : VB) (s : State) : Host.Outcome State Fault Refusal :=
  outcome s (s.floatOp (.vfcopysign p d a b) p d a b .copysign false)

/-! ### VFMA (R122) -/

/-- `vfaddp` (R122). -/
def execVfaddp (p : Option VPfx) (d a : VSpec) (b : VB) (s : State) : Host.Outcome State Fault Refusal :=
  outcome s (s.floatOp (.vfaddp p d a b) p d a b (.ma false false) true)

/-- `vfnaddp` (R122). -/
def execVfnaddp (p : Option VPfx) (d a : VSpec) (b : VB) (s : State) : Host.Outcome State Fault Refusal :=
  outcome s (s.floatOp (.vfnaddp p d a b) p d a b (.ma true true) true)

/-- `vfsubd` (R122). -/
def execVfsubd (p : Option VPfx) (d a : VSpec) (b : VB) (s : State) : Host.Outcome State Fault Refusal :=
  outcome s (s.floatOp (.vfsubd p d a b) p d a b (.ma true false) true)

/-- `vfsubp` (R122). -/
def execVfsubp (p : Option VPfx) (d a : VSpec) (b : VB) (s : State) : Host.Outcome State Fault Refusal :=
  outcome s (s.floatOp (.vfsubp p d a b) p d a b (.ma false true) true)

/-! ### VFUN (R123, R124) -/

/-- `vfsqrt` (R123). -/
def execVfsqrt (p : Option VPfx) (d a : VSpec) (s : State) : Host.Outcome State Fault Refusal :=
  outcome s (s.floatFun (.vfsqrt p d a) p d a .sqrt .dyn)

/-- `vfrsqrt` (R123). -/
def execVfrsqrt (p : Option VPfx) (d a : VSpec) (s : State) : Host.Outcome State Fault Refusal :=
  outcome s (s.floatFun (.vfrsqrt p d a) p d a .rsqrt .dyn)

/-- `vfrecip` (R123). -/
def execVfrecip (p : Option VPfx) (d a : VSpec) (s : State) : Host.Outcome State Fault Refusal :=
  outcome s (s.floatFun (.vfrecip p d a) p d a .recip .dyn)

/-- `vfexp2` (R123). -/
def execVfexp2 (p : Option VPfx) (d a : VSpec) (s : State) : Host.Outcome State Fault Refusal :=
  outcome s (s.floatFun (.vfexp2 p d a) p d a .exp2 .dyn)

/-- `vflog2` (R123). -/
def execVflog2 (p : Option VPfx) (d a : VSpec) (s : State) : Host.Outcome State Fault Refusal :=
  outcome s (s.floatFun (.vflog2 p d a) p d a .log2 .dyn)

/-- `vftanh` (R123). -/
def execVftanh (p : Option VPfx) (d a : VSpec) (s : State) : Host.Outcome State Fault Refusal :=
  outcome s (s.floatFun (.vftanh p d a) p d a .tanh .dyn)

/-- `vfsig` (R123). -/
def execVfsig (p : Option VPfx) (d a : VSpec) (s : State) : Host.Outcome State Fault Refusal :=
  outcome s (s.floatFun (.vfsig p d a) p d a .logistic .dyn)

/-- `vfrelu` (R123). -/
def execVfrelu (p : Option VPfx) (d a : VSpec) (s : State) : Host.Outcome State Fault Refusal :=
  outcome s (s.floatFun (.vfrelu p d a) p d a .relu .dyn)

/-- `vfabs` (R123). -/
def execVfabs (p : Option VPfx) (d a : VSpec) (s : State) : Host.Outcome State Fault Refusal :=
  outcome s (s.floatFun (.vfabs p d a) p d a .abs .dyn)

/-- `vfneg` (R123). -/
def execVfneg (p : Option VPfx) (d a : VSpec) (s : State) : Host.Outcome State Fault Refusal :=
  outcome s (s.floatFun (.vfneg p d a) p d a .neg .dyn)

/-- `vfround` (R124). -/
def execVfround (p : Option VPfx) (d a : VSpec) (rm : Rm) (s : State) : Host.Outcome State Fault Refusal :=
  outcome s (s.floatFun (.vfround p d a rm) p d a .round rm)

/-! ### VCVT (R125 to R127) -/

/-- An element converted between types (R93). -/
def convert (dst src : ETy) (rm : RMode) (v : Nat) : Nat × Flags :=
  if dst.isFp then
    if src.isFp then cvtFF (ETy.ffmt src) (ETy.ffmt dst) rm v
    else cvtIF (intOf (ETy.signed src) (ETy.bits src) v) (ETy.ffmt dst) rm
  else if src.isFp then cvtFI ((ETy.ffmt src).val v) (ETy.signed dst) (ETy.bits dst) rm
  else (lowBits (ETy.bits dst) (intOf (ETy.signed src) (ETy.bits src) v), 0)

/-- A converted element with its slots (R104, R105, R127). -/
def convertLane (dst src : ETy) (rm : RMode) (w : Nat) (l : Lane) : Res :=
  let v := convert dst src rm l.val
  if w != 0 && ((ETy.ffmt dst).val v.1).isNan then ⟨v.1, List.replicate w (ETy.ffmt dst).nan, v.2, []⟩
  else
    let t := (List.range w).map fun i => convert dst src rm (l.slot i)
    ⟨v.1, t.map (·.1), v.2, t.map (·.2)⟩

/-- `vcvt` (R125 to R127). The result has the bundle width of a, 0 when either type is an integer. -/
def execVcvt (p : Option VPfx) (t : ETy) (d a : VSpec) (src : ETy) (rm : Rm) (s : State) : Host.Outcome State Fault Refusal :=
  outcome s do
    let m := maskOf p
    let ws := [ETy.bytes t, ETy.bytes src]
    let both := t.isFp && src.isFp
    s.vecIllegal ⟨.vcvt p t d a src rm, p.isSome, m.mask != 0, ws⟩ false
    let w ← s.checkTags ws true ([⟨1, .vec a (ETy.fmt src)⟩] ++ dSource m.merges d (ETy.fmt t)) (some d) (some (if both then (s.vreg a).width else 0))
    s.awaitSources ([⟨a, trapA p, 1⟩] ++ dReads m.merges d (trapD p))
    let s' ← s.commit ⟨d, ETy.fmt t, w, m, 0xFFFF⟩
      (((s.vreg a).lanes (ETy.bits src) s.vl).map (convertLane t src (s.rmode rm) w))
    .ok (s'.complete (vlen p))

end Sys2Proof.Machine
end

