-- ==== Sys2Proof/Machine/Vmem.lean ====
section
/-! DEFINITION. Vector loads and stores (R170 to R178), quantised access (R179), and saving and restoring registers in stack slots
(R272 to R278). -/

namespace Sys2Proof.Machine

/-! ### Addresses (R170) -/

/-- How the address of an element is formed (R170). -/
inductive AddrMode where
  | unit
  | strided (x : Reg)
  | twoD (x : Reg)
  | indexed (v : BitVec 6)
  deriving DecidableEq, Repr

/-- B of R170, with the displacement of a prefix (R69). -/
def State.baseAddr (s : State) (p : Option MPfx) (base : Reg) (loc : Bool) : Word :=
  s.x base + (if loc then BitVec.ofNat 64 localBase else 0) + (match p with
    | none => 0
    | some q => q.disp.signExtend 64)

/-- Index `e` of an index register, read as a signed byte offset (R170). -/
def State.indexAt (s : State) (v : BitVec 6) (e : Nat) : Word :=
  let r := s.vreg (.v v)
  let w := if r.tag.fmt = .i64 then 64 else 32
  BitVec.ofInt 64 (intOf true w (elem w (r.plane 0) e))

/-- Address of element `e` of `w` bytes (R170). -/
def State.elemAddr (s : State) (m : AddrMode) (b : Word) (w e : Nat) : Word :=
  match m with
  | .unit => b + word (e * w)
  | .strided x => b + word e * s.x x
  | .twoD x =>
    let l := (s.x (x + 2)).toNat
    b + word (e / l) * s.x x + word (e % l) * s.x (x + 1)
  | .indexed v => b + s.indexAt v e

/-- The row of an element, for the packets of R356. -/
def State.rowOf (s : State) (m : AddrMode) (e : Nat) : Nat :=
  match m with
  | .twoD x => e / (s.x (x + 2)).toNat
  | .unit => 0
  | .strided _ => 0
  | .indexed _ => 0

/-- The register field L of a two-dimensional access is 0 (R170). -/
def State.zeroRows (s : State) : AddrMode → Bool
  | .twoD x => s.x (x + 2) == 0
  | .unit => false
  | .strided _ => false
  | .indexed _ => false

/-- The index register as a source; any format but i32 and i64 is reason 0x01 on operand a (R170, R171). -/
def State.indexSource (s : State) : AddrMode → List Source
  | .indexed v => [⟨1, .plain (.v v) (if (s.vreg (.v v)).tag.fmt = .i64 then .i64 else .i32)⟩]
  | .unit => []
  | .strided _ => []
  | .twoD _ => []

/-- Width in bytes of the indexes that an access reads beside its elements (R39). -/
def State.indexWidths (s : State) : AddrMode → List Nat
  | .indexed v => [if (s.vreg (.v v)).tag.fmt = .i64 then 8 else 4]
  | .unit => []
  | .strided _ => []
  | .twoD _ => []

/-- The index register as a register that may be empty. -/
def indexReads (trap : Bool) : AddrMode → List Reads
  | .indexed v => [⟨.v v, trap, 1⟩]
  | .unit => []
  | .strided _ => []
  | .twoD _ => []

/-- The access is indexed. -/
def AddrMode.isIndexed : AddrMode → Bool
  | .indexed _ => true
  | .unit => false
  | .strided _ => false
  | .twoD _ => false

/-- Trap mark of the index register. -/
def trapIdx (p : Option MPfx) : Bool := (p.map (·.ta)).getD false
/-- Trap mark of the data register. -/
def trapData (p : Option MPfx) : Bool := (p.map (·.td)).getD false

/-- Bytes of an FmtM instruction. -/
def mlen (p : Option MPfx) : Nat := if p.isSome then 8 else 4

/-- One element or plane of an access: element, plane, address. -/
structure Spot where
  e : Nat
  p : Nat
  va : Word
  deriving DecidableEq, Repr

/-- P of R174. -/
def State.planePitch (s : State) (w : Nat) : Nat := if s.st.bplane = 0 then s.vl * w else s.st.bplane.toNat

/-- The spots of the elements in `es` with planes 0 to `planes` (R174). -/
def State.spots (s : State) (m : AddrMode) (b : Word) (w planes : Nat) (es : List Nat) : List Spot :=
  es.flatMap fun e => (List.range (planes + 1)).map fun p => ⟨e, p, s.elemAddr m b w e + word (p * s.planePitch w)⟩

/-- The first misaligned spot raises (R175); a plane spacing that is not a multiple of the width raises at the first element
(R174) (DEDUCED, log entry 14), which is the first active one: an access without one raises nothing (DESIGN CHOICE, log entry 116). -/
def State.alignSpots (s : State) (w : Nat) (bundled : Bool) (l : List Spot) : Except Halt Unit :=
  match l with
  | [] => .ok ()
  | x :: _ =>
    if bundled && s.planePitch w % w != 0 then raiseAt 0x06 (BitVec.ofNat 8 w) x.va
    else match l.find? fun y => !aligned y.va w with
      | some y => raiseAt 0x06 (BitVec.ofNat 8 w) y.va
      | none => .ok ()

/-- The classes that lead to the partial outcomes of R176 and R177 (R175) (DEDUCED, log entry 15). -/
def partialClass (c : BitVec 8) : Bool := c == 0x07 || c == 0x08 || c == 0x09

/-- Spots with their places up to the first fault, and that fault. Only the classes of R175 stop the list; another class raises
(DEDUCED, log entry 15). -/
def State.placeSpots (s : State) (w : Nat) (k : Access) : List Spot → Except Halt (List (Spot × Loc) × Option (Nat × Exc))
  | [] => .ok ([], none)
  | x :: rest =>
    match Machine.locate s.part s.mem s.space x.va w k with
    | .error e => if partialClass e.cls then .ok ([], some (x.e, e)) else .error (.exc e)
    | .ok l => match s.placeSpots w k rest with
      | .error h => .error h
      | .ok (done, f) => .ok ((x, l) :: done, f)

/-- The places of the elements below the faulting one. -/
def doneSpots (r : List (Spot × Loc) × Option (Nat × Exc)) : List (Spot × Loc) :=
  match r.2 with
  | none => r.1
  | some (f, _) => r.1.filter fun x => decide (x.1.e < f)

/-- The place is in a fabric window. -/
def Loc.isFabric : Loc → Bool
  | .fabric _ _ => true | .hbm _ => false | .cxl _ => false | .spad _ => false

/-- The place is in scratchpad memory. -/
def Loc.isSpad : Loc → Bool
  | .spad _ => true | .hbm _ => false | .cxl _ => false | .fabric _ _ => false

/-- Races of an access with weak elements (R175, R238). -/
def State.raceSpots (s : State) (write : Bool) (w : Nat) : List (Spot × Loc) → Except Halt Unit
  | [] => .ok ()
  | (x, l) :: rest =>
    match raceCheck s.part s.mem (s.agent false .core) write l w x.va with
    | .error e => .error (.exc e)
    | .ok _ => s.raceSpots write w rest

/-- The translations that an access uses are cached. -/
def State.touchAll (s : State) (l : List (Spot × Loc)) : State := l.foldl (fun s x => s.touch x.1.va) s

/-- The accesses are noted in the summaries. -/
def State.noteAll (s : State) (write : Bool) (w : Nat) (l : List (Spot × Loc)) : State :=
  let a := s.agent false .core
  s.mapMem fun m => l.foldl (fun m x => if x.2.isFabric then m else noteAccess m a write x.2 w) m

/-- The pieces of plane `p` of an access to fabric windows. -/
def State.pieces (s : State) (m : AddrMode) (p : Nat) (data : Nat → Nat → List Byte) (l : List (Spot × Loc)) : List Piece :=
  l.filterMap fun x => match x.2 with
    | .fabric win _ => if x.1.p = p then some ⟨x.1.e, x.1.va, win, s.rowOf m x.1.e, data p x.1.e⟩ else none
    | .hbm _ => none
    | .cxl _ => none
    | .spad _ => none

/-- The pieces of every plane, in the order of the elements, without data (DEDUCED, log entry 80). -/
def allPieces (l : List (Spot × Loc)) : List Piece :=
  l.filterMap fun x => match x.2 with
    | .fabric win _ => some ⟨x.1.e, x.1.va, win, 0, []⟩
    | .hbm _ => none
    | .cxl _ => none
    | .spad _ => none

/-- The indexes of an indexed packet are relative to B (R356). -/
def AddrMode.base (m : AddrMode) (b : Word) : Option Word := if m.isIndexed then some b else none

/-! ### Loads (R172, R176) -/

/-- A precise data error of a scratchpad word (R292), and whether HBM data of the access is bad. -/
def State.badData (s : State) (l : List (Spot × Loc)) : Except Halt (Option Exc) :=
  match l.find? fun x => x.2.isSpad && (badAt s.mem x.2).isSome with
  | some x => raiseAt 0x11 0x02 x.1.va
  | none => .ok (l.findSome? fun x => (badAt s.mem x.2).map fun d => ⟨0x11, d, 0, 0⟩)

/-- Elements below `n` of a register after a load: what was loaded, or merging or zeroing for inactive ones (R53, R172). -/
def loadedLanes (old : List Lane) (act : List Bool) (zero : Bool) (w : Nat) (got : Nat → Nat → Option Nat) (n : Nat) : List Lane :=
  ((List.range n).zip (old.zip act)).map fun x =>
    let (e, o, a) := (x.1, x.2.1, x.2.2)
    let o' := mergeLane zero false w o o
    let k := o.widen w
    if a then ⟨(got 0 e).getD k.val, (List.range w).map fun i => (got (i + 1) e).getD (k.slot i)⟩ else o'

/-- What a load has read for a plane and an element. -/
def gotten (l : List (Spot × Nat)) (p e : Nat) : Option Nat := (l.find? fun x => x.1.p == p && x.1.e == e).map (·.2)

/-- The values of the places that are not in fabric windows. -/
def State.readSpots (s : State) (w : Nat) (l : List (Spot × Loc)) : List (Spot × Nat) :=
  l.filterMap fun x => if x.2.isFabric then none else some (x.1, readLoc s.mem x.2 w)

/-- The end of a load of elements below `n` (R172): the destination is written, and left empty while values are still to come. -/
def State.finishLoad (s : State) (v : VSpec) (fmt : Fmt) (m : AddrMode) (k : MaskOf) (b : Word) (w planes n : Nat)
    (l : List (Spot × Loc)) (err : Option Exc) : State :=
  let bitsW := Fmt.bits fmt
  let old := s.vreg v
  let lanes := loadedLanes (old.lanes bitsW n) (s.active k) k.zero planes (gotten (s.readSpots w l)) n
  let far := l.any fun x => x.2.isFabric
  let slow := l.any fun x => !x.2.isSpad && !x.2.isFabric
  let r := old.write { Tag.of fmt planes with full := !(far || slow) } bitsW planes lanes
  let s' := ((s.touchAll l).noteAll false w l).setVreg v r
  let s' := if slow then s'.mapCore fun c => { c with fills := c.fills ++ [⟨v, err⟩] } else s'
  (List.range (planes + 1)).foldl (fun s' p =>
    s'.send (.weak 0 w (m.base b)) (.lanes v bitsW p) (s.pieces m p (fun _ _ => []) l)) s'

/-- A vector load (R170 to R176). -/
def State.vload (s : State) (i : Instr) (p : Option MPfx) (t : ETy) (v : VSpec) (base : Reg) (bnd ff loc : Bool) (m : AddrMode) :
    Except Halt State := do
  let k := maskOfM p
  let w := ETy.bytes t
  s.vecIllegal ⟨i, p.isSome, k.mask != 0, [w]⟩ (s.zeroRows m)
  let planes := if bnd then s.planes else 0
  let _ ← s.checkTags (w :: s.indexWidths m) false (s.indexSource m ++ dSource k.merges v (ETy.fmt t)) (some v) (some planes)
  s.awaitSources (indexReads (trapIdx p) m ++ dReads k.merges v (trapData p))
  s.awaitDest v
  let b := s.baseAddr p base loc
  let spots := s.spots m b w planes (activeIdx 0 (s.active k))
  s.alignSpots w bnd spots
  let r ← s.placeSpots w .load spots
  let done := doneSpots r
  match r.2 with
  | some (0, e) => do
    if ff then .ok (((s.setVl 0).mapVec fun c => { c with vfault := 0 }).complete (mlen p)) else .error (.exc e)
  | _ => do
    done.forM fun x => s.awaitChain x.2 w
    s.raceSpots false w done
    let err ← s.badData done
    s.needTokens (allPieces done)
    let n := match r.2 with
      | none => s.vl
      | some (f, _) => f
    let s' := s.finishLoad v (ETy.fmt t) m k b w planes n done err
    let s' := match r.2 with
      | none => s'
      | some (f, _) => (s'.setVl f).mapVec fun c => { c with vfault := word f }
    .ok (s'.complete (mlen p))

/-- `vld` (R170). -/
def execVld (p : Option MPfx) (t : ETy) (v : VSpec) (base : Reg) (bnd ff loc : Bool) (s : State) : Host.Outcome State Fault Refusal :=
  outcome s (s.vload (.vld p t v base bnd ff loc) p t v base bnd ff loc .unit)

/-- `vld.s` (R170). -/
def execVldS (p : Option MPfx) (t : ETy) (v : VSpec) (base : Reg) (bnd ff : Bool) (xs : Reg) (loc : Bool) (s : State) :
    Host.Outcome State Fault Refusal :=
  outcome s (s.vload (.vldS p t v base bnd ff xs loc) p t v base bnd ff loc (.strided xs))

/-- `vld.2d` (R170). -/
def execVld2d (p : Option MPfx) (t : ETy) (v : VSpec) (base : Reg) (bnd ff : Bool) (xs : Reg) (loc : Bool) (s : State) :
    Host.Outcome State Fault Refusal :=
  outcome s (s.vload (.vld2d p t v base bnd ff xs loc) p t v base bnd ff loc (.twoD xs))

/-- `vld.x` (R170). -/
def execVldX (p : Option MPfx) (t : ETy) (v : VSpec) (base : Reg) (bnd : Bool) (vi : BitVec 6) (loc : Bool) (s : State) :
    Host.Outcome State Fault Refusal :=
  outcome s (s.vload (.vldX p t v base bnd vi loc) p t v base bnd false loc (.indexed vi))

/-! ### Stores (R173, R177) -/

/-- The bytes of plane `p`, element `e` of a stored register. -/
def storedBytes (lanes : List Lane) (w p e : Nat) : List Byte :=
  let x := lanes.getD e ⟨0, []⟩
  bytesOf (if p = 0 then x.val else x.slot (p - 1)) w

/-- The bytes that a spot of a store leaves at its place: those of the last spot at the same address, whose element has the highest index (R173). -/
def lastBytes (lanes : List Lane) (w : Nat) (l : List (Spot × Loc)) (p e : Nat) : List Byte :=
  match l.find? fun x => x.1.p == p && x.1.e == e with
  | none => []
  | some x => match (l.filter fun y => y.1.va == x.1.va).getLast? with
    | none => []
    | some y => storedBytes lanes w y.1.p y.1.e

/-- The stores of an access in ascending order (R173, R177); those to fabric windows leave as packets, plane by plane. -/
def State.performStores (s : State) (lanes : List Lane) (m : AddrMode) (b : Word) (w planes : Nat) (l : List (Spot × Loc)) : State :=
  let s' := (s.touchAll l).mapMem fun mem => healAll (l.foldl (fun mem x =>
    if x.2.isFabric then mem else writeLoc mem x.2 w (valueOfBytes (storedBytes lanes w x.1.p x.1.e))) mem) (l.map fun x => (x.2, w))
  (List.range (planes + 1)).foldl (fun s' p =>
    s'.send (.weak 1 w (m.base b)) (fun _ => .store) (s.pieces m p (lastBytes lanes w l) l)) (s'.noteAll true w l)

/-- Set `vstart`. -/
def State.setVstart (s : State) (w : Word) : State := s.mapVec fun c => { c with vstart := w }

/-- A vector store (R170 to R177) (DEDUCED, log entry 14). An indexed store that completes leaves `vstart` at 0 too (DESIGN CHOICE, log entry 115). -/
def State.vstore (s : State) (i : Instr) (p : Option MPfx) (t : ETy) (v : VSpec) (base : Reg) (bnd loc : Bool) (m : AddrMode) :
    Except Halt State := do
  let k := maskOfM p
  let w := ETy.bytes t
  s.vecIllegal ⟨i, p.isSome, k.mask != 0, [w]⟩ (s.zeroRows m)
  let _ ← s.checkTags (w :: s.indexWidths m) false (s.indexSource m ++ dSource true v (ETy.fmt t)) none none
  s.awaitSources (indexReads (trapIdx p) m ++ dReads true v (trapData p))
  let planes := if bnd then (s.vreg v).width else 0
  let lanes := (s.vreg v).lanes (ETy.bits t) s.vl
  let b := s.baseAddr p base loc
  let spots := s.spots m b w planes (activeIdx 0 (s.active k))
  s.alignSpots w bnd spots
  if !m.isIndexed && decide (s.vl ≤ s.core.vec.vstart.toNat) then .ok ((s.setVstart 0).complete (mlen p))
  else do
    let spots := if m.isIndexed then spots else spots.filter fun x => decide (s.core.vec.vstart.toNat ≤ x.e)
    let r ← s.placeSpots w .store spots
    let done := doneSpots r
    done.forM fun x => s.awaitChain x.2 w
    s.raceSpots true w done
    s.needTokens (allPieces done)
    match r.2 with
    | none => .ok (((s.performStores lanes m b w planes done).setVstart 0).complete (mlen p))
    | some (f, e) =>
      if m.isIndexed then .error (.partly e ((s.setVstart 0).mapVec fun c => { c with vfault := word f }))
      else .error (.partly e ((s.performStores lanes m b w planes done).setVstart (word f)))

/-- `vst` (R170). -/
def execVst (p : Option MPfx) (t : ETy) (v : VSpec) (base : Reg) (bnd loc : Bool) (s : State) : Host.Outcome State Fault Refusal :=
  outcome s (s.vstore (.vst p t v base bnd loc) p t v base bnd loc .unit)

/-- `vst.s` (R170). -/
def execVstS (p : Option MPfx) (t : ETy) (v : VSpec) (base : Reg) (bnd : Bool) (xs : Reg) (loc : Bool) (s : State) :
    Host.Outcome State Fault Refusal :=
  outcome s (s.vstore (.vstS p t v base bnd xs loc) p t v base bnd loc (.strided xs))

/-- `vst.2d` (R170). -/
def execVst2d (p : Option MPfx) (t : ETy) (v : VSpec) (base : Reg) (bnd : Bool) (xs : Reg) (loc : Bool) (s : State) :
    Host.Outcome State Fault Refusal :=
  outcome s (s.vstore (.vst2d p t v base bnd xs loc) p t v base bnd loc (.twoD xs))

/-- `vst.x` (R177). -/
def execVstX (p : Option MPfx) (t : ETy) (v : VSpec) (base : Reg) (bnd : Bool) (vi : BitVec 6) (loc : Bool) (s : State) :
    Host.Outcome State Fault Refusal :=
  outcome s (s.vstore (.vstX p t v base bnd vi loc) p t v base bnd loc (.indexed vi))

/-! ### Quantised access (R179) -/

/-- The parts of block `b`: its codes as three 8-byte words, then its scale byte, numbered as planes of element 32 b. -/
def blockSpots (base scale : Word) (b : Nat) : List (Spot × Nat) :=
  [(⟨32 * b, 0, base + word (24 * b)⟩, 8), (⟨32 * b, 1, base + word (24 * b + 8)⟩, 8), (⟨32 * b, 2, base + word (24 * b + 16)⟩, 8),
   (⟨32 * b, 3, scale + word b⟩, 1)]

/-- `placeSpots` for parts of differing sizes: `uaddr` of a fault is the address of the part that met it, the code words of a block before its scale
(DESIGN CHOICE, log entry 117). -/
def State.placeParts (s : State) (k : Access) : List (Spot × Nat) → Except Halt (List ((Spot × Nat) × Loc) × Option (Nat × Exc))
  | [] => .ok ([], none)
  | x :: rest =>
    match Machine.locate s.part s.mem s.space x.1.va x.2 k with
    | .error e => if partialClass e.cls then .ok ([], some (x.1.e, e)) else .error (.exc e)
    | .ok l => match s.placeParts k rest with
      | .error h => .error h
      | .ok (done, f) => .ok ((x, l) :: done, f)

/-- The parts of the blocks below the faulting one. -/
def doneParts (r : List ((Spot × Nat) × Loc) × Option (Nat × Exc)) : List ((Spot × Nat) × Loc) :=
  match r.2 with
  | none => r.1
  | some (f, _) => r.1.filter fun x => decide (x.1.1.e < f)

/-- Races of the parts of blocks. -/
def State.raceParts (s : State) (write : Bool) : List ((Spot × Nat) × Loc) → Except Halt Unit
  | [] => .ok ()
  | (x, l) :: rest =>
    match raceCheck s.part s.mem (s.agent false .core) write l x.2 x.1.va with
    | .error e => .error (.exc e)
    | .ok _ => s.raceParts write rest

/-- The parts as spots with places. -/
def asSpots (l : List ((Spot × Nat) × Loc)) : List (Spot × Loc) := l.map fun x => (x.1.1, x.2)

/-- The accesses of parts are noted. -/
def State.noteParts (s : State) (write : Bool) (l : List ((Spot × Nat) × Loc)) : State :=
  let a := s.agent false .core
  s.mapMem fun m => l.foldl (fun m x => if x.2.isFabric then m else noteAccess m a write x.2 x.1.2) m

/-- Value of part `p` of the block at element `e`. -/
def State.partValue (s : State) (l : List ((Spot × Nat) × Loc)) (e p : Nat) : Nat :=
  match l.find? fun x => x.1.1.e == e && x.1.1.p == p with
  | some x => readLoc s.mem x.2 x.1.2
  | none => 0

/-- Element `e` decoded from the parts read (R94, R95) (DEDUCED, log entry 17). -/
def State.lnsElem (s : State) (l : List ((Spot × Nat) × Loc)) (e : Nat) : Nat :=
  let b := e / 32 * 32
  let codes := s.partValue l b 0 + 2 ^ 64 * s.partValue l b 1 + 2 ^ 128 * s.partValue l b 2
  lnsDecode (s.partValue l b 3) (lnsAt codes (e % 32))

/-- The pieces of the parts of blocks in fabric windows, the codes or the scales, each numbered by its block and its place in it, with the bytes
that it sends. -/
def partPieces (scales : Bool) (data : Spot → List Byte) (l : List ((Spot × Nat) × Loc)) : List Piece :=
  l.filterMap fun x => match x.2 with
    | .fabric win _ => if (x.1.1.p == 3) == scales then some ⟨4 * (x.1.1.e / 32) + x.1.1.p, x.1.1.va, win, 0, data x.1.1⟩ else none
    | .hbm _ => none
    | .cxl _ => none
    | .spad _ => none

/-- Block and part of the pieces of a packet. -/
def partsOf (l : List Nat) : List (Nat × Nat) := l.map fun e => (e / 4, e % 4)

/-- The parts of blocks in fabric windows are asked for, codes and scales (R179, R349); those of the same blocks that are at hand wait for them. -/
def State.askParts (s : State) (v : VSpec) (n : Nat) (l : List ((Spot × Nat) × Loc)) : State :=
  let far := (l.filter fun x => x.2.isFabric).map fun x => x.1.1.e
  let near := (l.filter fun x => !x.2.isFabric && far.contains x.1.1.e).map fun x =>
    (⟨s.core.id, v, x.1.1.e / 32, x.1.1.p, readLoc s.mem x.2 x.1.2⟩ : QPart)
  let s' := s.mapFab fun f => { f with qparts := (f.qparts.filter fun q => !(q.core == s.core.id && q.reg == v)) ++ near }
  (s'.send (.weak 0 8 none) (fun e => .quant v n (partsOf e)) (partPieces false (fun _ => []) l)).send (.weak 0 1 none)
    (fun e => .quant v n (partsOf e)) (partPieces true (fun _ => []) l)

/-- `vld.q` (R179). -/
def execVldQ (p : Option MPfx) (v : VSpec) (base : Reg) (ff : Bool) (xs : Reg) (loc : Bool) (s : State) :
    Host.Outcome State Fault Refusal :=
  outcome s do
    s.vecIllegal ⟨.vldQ p v base ff xs loc, p.isSome, false, [4]⟩ false
    let _ ← s.checkTags [4] false [] (some v) (some 0)
    s.awaitDest v
    let b := s.baseAddr p base loc
    raiseIf (!aligned b 8) 0x06 8 b
    let r ← s.placeParts .load ((List.range ((s.vl + 31) / 32)).flatMap (blockSpots b (s.x xs)))
    let done := doneParts r
    match r.2 with
    | some (0, e) =>
      if ff then .ok (((s.setVl 0).mapVec fun c => { c with vfault := 0 }).complete (mlen p)) else .error (.exc e)
    | _ => do
      done.forM fun x => s.awaitChain x.2 x.1.2
      s.raceParts false done
      let err ← s.badData (asSpots done)
      s.needTokens (allPieces (asSpots done))
      let n := match r.2 with
        | none => s.vl
        | some (f, _) => f
      let far := done.any fun x => x.2.isFabric
      let slow := done.any fun x => !x.2.isSpad && !x.2.isFabric
      let lanes := (List.range n).map fun e => (⟨s.lnsElem done e, []⟩ : Lane)
      let s' := ((s.touchAll (asSpots done)).noteParts false done).setVreg v
        ((s.vreg v).write { Tag.of .f32 0 with full := !(far || slow) } 32 0 lanes)
      let s' := if slow then s'.mapCore fun c => { c with fills := c.fills ++ [⟨v, err⟩] } else s'
      let s' := if far then s'.askParts v n done else s'
      let s' := match r.2 with
        | none => s'
        | some (f, _) => (s'.setVl f).mapVec fun c => { c with vfault := word f }
      .ok (s'.complete (mlen p))

/-- A block to be stored: its number, its parts as values, and the flags of its elements. -/
structure QBlock where
  b : Nat
  codes : Nat
  scale : Nat
  fl : Flags
  deriving DecidableEq, Repr

/-- Block `b` of a register quantised (R97, R98, R179). -/
def quantBlock (vals : List Nat) (b : Nat) : QBlock :=
  let r := lnsBlock ((vals.drop (32 * b)).take 32)
  ⟨b, lnsPack r.2.1, r.1, r.2.2⟩

/-- The flags that each element of a block raises: in a block with a NaN, the NaN's alone (R97, R98). -/
def quantFlags (b : QBlock) (l : List FVal) : List Flags :=
  if b.scale = 0xFF then l.map fun x => flagIf x.isNan fNV else l.map fun x => (lnsCode b.scale x).2

/-- The element of a block that raised a flag first (R92). -/
def quantElem (vals : List Nat) (en : Flags) (b : QBlock) : Nat :=
  32 * b.b + ((quantFlags b (((vals.drop (32 * b.b)).take 32).map fun v => FFmt.f32.val v)).findIdx fun f => f &&& en != 0)

/-- The parts of the blocks performed are stored; those in fabric windows leave as packets, codes and scales (R349). -/
def State.storeParts (s : State) (q : List QBlock) (l : List ((Spot × Nat) × Loc)) : State :=
  let value (x : Spot) : Nat := match q.find? fun b => 32 * b.b == x.e with
    | some b => if x.p = 3 then b.scale else b.codes >>> (64 * x.p)
    | none => 0
  let s' := (s.touchAll (asSpots l)).mapMem fun mem => healAll (l.foldl (fun mem x =>
    if x.2.isFabric then mem else writeLoc mem x.2 x.1.2 (value x.1.1)) mem) (l.map fun x => (x.2, x.1.2))
  ((s'.noteParts true l).send (.weak 1 8 none) (fun _ => .store) (partPieces false (fun x => bytesOf (value x) 8) l)).send (.weak 1 1 none)
    (fun _ => .store) (partPieces true (fun x => bytesOf (value x) 1) l)

/-- `vst.q` (R179). -/
def execVstQ (p : Option MPfx) (v : VSpec) (base : Reg) (val : Bool) (xs : Reg) (loc : Bool) (s : State) :
    Host.Outcome State Fault Refusal :=
  outcome s do
    s.vecIllegal ⟨.vstQ p v base val xs loc, p.isSome, false, [4]⟩ (s.core.vec.vstart.toNat % 32 != 0)
    let _ ← s.checkTags [4] false [⟨0, .vec v .f32⟩] none none
    if (s.vreg v).width != 0 && !val then tagExc 0 0x06
    s.awaitSources [⟨v, trapData p, 3⟩]
    let b := s.baseAddr p base loc
    raiseIf (!aligned b 8) 0x06 8 b
    let from' := s.core.vec.vstart.toNat / 32
    let vals := ((s.vreg v).lanes 32 s.vl).map (·.val)
    let q := ((List.range ((s.vl + 31) / 32)).drop from').map (quantBlock vals)
    if s.vl ≤ s.core.vec.vstart.toNat then .ok ((s.setVstart 0).complete (mlen p))
    else do
      let all := q.foldl (fun f x => f ||| x.fl) 0
      s.fpTrap all ((q.find? fun x => x.fl &&& s.fpEnables != 0).map (quantElem vals s.fpEnables) |>.getD 0)
      let r ← s.placeParts .store (q.flatMap fun x => blockSpots b (s.x xs) x.b)
      let done := doneParts r
      done.forM fun x => s.awaitChain x.2 x.1.2
      s.raceParts true done
      s.needTokens (allPieces (asSpots done))
      let did := q.filter fun x => done.any fun y => y.1.1.e == 32 * x.b
      let s' := (s.storeParts q done).addFlags (did.foldl (fun f x => f ||| x.fl) 0)
      match r.2 with
      | none => .ok ((s'.setVstart 0).complete (mlen p))
      | some (f, e) => .error (.partly e (s'.setVstart (word f)))

/-! ### Stack slots (R272 to R278) -/

/-- Bytes of a plane in a slot: G × EG × 4 (R273). -/
def State.planeBytes (s : State) : Nat := s.mvl * 4

/-- The header of a slot (R273). -/
def State.slotHeader (s : State) (t : BitVec 16) : Nat :=
  t.toNat + 2 ^ 16 * s.nregs + 2 ^ 24 * s.planes + 2 ^ 32 * s.mvl

/-- A tag from its 16 bits; none for bits that no tag has (R46, R277). -/
def tagOfBits (b : BitVec 16) : Option Tag :=
  let f := bits b 0 4; let c := bits b 4 3
  let fmt : Option Fmt :=
    if f == 0 then some .void else if f == 1 then some .f32 else if f == 2 then some .f16 else if f == 3 then some .bf16
    else if f == 4 then some .i8 else if f == 5 then some .i16 else if f == 6 then some .i32 else if f == 7 then some .i64
    else if f == 8 then some .mask else none
  let bun : Option Bundle :=
    if c == 0 then some .w0 else if c == 1 then some .w1 else if c == 2 then some .w2 else if c == 3 then some .w4
    else if c == 4 then some .w8 else if c == 5 then some .w16 else none
  match fmt, bun with
  | some fmt, some bun =>
    if bits b 8 8 != 0 then none
    else if fmt = .void then (if b = 0 then some .void else none)
    else if b.getLsbD 7 then some ⟨true, bun, fmt⟩ else none
  | _, _ => none

/-- The tag of a slot header that fits a shape, else none (R277). -/
def headerTag (n k mvl : Nat) (h : List Byte) : Option Tag :=
  let v := valueOfBytes (h.take 8)
  if v / 2 ^ 16 % 256 ≠ n ∨ v / 2 ^ 24 % 32 ≠ k ∨ v / 2 ^ 29 % 8 ≠ 0 ∨ v / 2 ^ 32 % 65536 ≠ mvl ∨ v / 2 ^ 48 ≠ 0
      ∨ (h.drop 8).any (· != 0) then none
  else match tagOfBits (BitVec.ofNat 16 v) with
    | none => none
    | some t => if k < Bundle.planes t.bundle then none else some t

/-- The image of a plane in a slot (R273) (DESIGN CHOICE, log entry 26). -/
def planeImage (fmt : Fmt) (mvl p : Nat) : List Byte := bytesOf (if fmt = .mask then p % 2 ^ (2 * mvl) else p) (4 * mvl)

/-- A plane from its image. -/
def planeOf (fmt : Fmt) (mvl : Nat) (l : List Byte) : Nat :=
  let v := valueOfBytes l
  if fmt = .mask then v % 2 ^ (2 * mvl) else v

/-- The 64-byte lines of a slot's header and `n` planes, by offset (R273). -/
def State.slotLines (s : State) (n : Nat) : List Nat := (List.range (1 + n * s.planeBytes / 64)).map fun i => 64 * i

/-- Address of slot `i` (R275). -/
def State.slotAddr (s : State) (b : Word) (i : Nat) : Word := b + word (i * s.slotBytes)

/-- The checks of R168 on the 8-byte units of a line, in ascending address (R278). -/
def State.checkLine (s : State) (k : Access) (va : Word) : Nat → Except Halt Unit
  | 0 => .ok ()
  | n + 1 =>
    let a := va + word (64 - 8 * (n + 1))
    match Machine.locate s.part s.mem s.space a 8 k with
    | .error e => .error (.exc e)
    | .ok l => match raceCheck s.part s.mem (s.agent false .core) (k == .store) l 8 a with
      | .error e => .error (.exc e)
      | .ok _ => s.checkLine k va n

/-- The place of every line, once all of them pass R168 (R278). -/
def State.checkLines (s : State) (k : Access) : List Word → Except Halt (List (Word × Loc))
  | [] => .ok []
  | va :: rest => do
    s.checkLine k va 8
    let l ← s.locate va 8 k
    s.awaitChain l 64
    let r ← s.checkLines k rest
    .ok ((va, l) :: r)

/-- The eight-byte units of a line are noted. -/
def noteLine (m : Mem) (a : Agent) (write : Bool) (l : Loc) : Mem :=
  let at' (i : Nat) : Loc := match l with
    | .hbm x => .hbm (x + i) | .cxl x => .cxl (x + i) | .spad x => .spad (x + i) | .fabric w x => .fabric w (x + i)
  if l.isFabric then m else (List.range 8).foldl (fun m i => noteAccess m a write (at' (8 * i)) 8) m

/-- The 8-byte units of line `j` of a slot or plane, when it lies in a fabric window, with the bytes that they send: `row` keeps the lines of
one slot or plane apart from the others' (R356). -/
def linePieces (row j : Nat) (x : Word × Loc) (b : List Byte) : List Piece :=
  match x.2 with
  | .fabric win _ => (List.range 8).map fun i => ⟨8 * j + i, x.1 + word (8 * i), win, row, (b.drop (8 * i)).take 8⟩
  | .hbm _ => []
  | .cxl _ => []
  | .spad _ => []

/-- NOTOKEN for a line in a fabric window (R349). -/
def State.needLines (s : State) (l : List (Word × Loc)) : Except Halt Unit := s.needTokens (l.flatMap fun x => linePieces 0 0 x [])

/-- A line with its bytes, of a slot. -/
structure SlotLine where
  slot : Nat
  place : Word × Loc
  bytes : List Byte
  deriving DecidableEq, Repr

/-- Lines with their bytes are stored; those in fabric windows leave as packets of 8-byte elements, slot by slot. -/
def State.storeLines (s : State) (l : List SlotLine) : State :=
  let a := s.agent false .core
  (l.foldl (fun s x => if x.place.2.isFabric then s
    else (s.touch x.place.1).mapMem fun m => noteLine (writeSoftBytes m x.place.2 x.bytes) a true x.place.2) s).send (.weak 1 8 none) (fun _ => .store)
      (l.flatMap fun x => linePieces x.slot 0 x.place x.bytes)

/-- The 64-byte pieces of a list. -/
def lines64 (l : List Byte) : List (List Byte) := segments64 l.length l
where
  /-- At most `n` pieces. -/
  segments64 : Nat → List Byte → List (List Byte)
    | 0, _ => []
    | n + 1, l => if l.isEmpty then [] else l.take 64 :: segments64 n (l.drop 64)

/-- The registers of a range (R275). -/
def regRange (v : BitVec 6) (count : BitVec 4) : List VSpec :=
  (List.range (count.toNat + 1)).map fun j => .v (BitVec.ofNat 6 (v.toNat + j))

/-- The image of a register in a slot (R273, R276) (DESIGN CHOICE, log entry 26). -/
def State.slotImage (s : State) (r : VReg) : List Byte :=
  bytesOf (s.slotHeader (if r.tag.fmt = .void then 0 else r.tag.bits)) 64 ++
    (if r.tag.fmt = .void then [] else (List.range (1 + r.width)).flatMap fun i => planeImage r.tag.fmt s.mvl (r.plane i))

/-- A range that runs past N (R275). -/
def State.rangeBad (s : State) (v : BitVec 6) (count : BitVec 4) : Bool := decide (s.nregs ≤ v.toNat + count.toNat)

/-- `vsv` (R276, R278). -/
def execVsv (p : Option MPfx) (count : BitVec 4) (v : BitVec 6) (base : Reg) (slot : BitVec 7) (loc : Bool) (s : State) :
    Host.Outcome State Fault Refusal :=
  outcome s do
    let i := Instr.vsv p count v base slot loc
    s.needVec
    s.illegalIf i (s.rangeBad v count) 0x03
    s.vecIllegal ⟨i, p.isSome, false, []⟩ false
    let rs := regRange v count
    s.awaitSources (rs.map fun r => ⟨r, false, 0⟩)
    let b := s.baseAddr p base loc
    raiseIf (!aligned b 64) 0x06 64 b
    let img := rs.map fun r => lines64 (s.slotImage (s.vreg r))
    let addrs := ((List.range img.length).zip img).flatMap fun x =>
      (List.range x.2.length).map fun j => s.slotAddr b (slot.toNat + x.1) + word (64 * j)
    let places ← s.checkLines .store addrs
    s.needLines places
    let slots := ((List.range img.length).zip img).flatMap fun x => List.replicate x.2.length x.1
    .ok ((s.storeLines ((slots.zip (places.zip img.flatten)).map fun x => ⟨x.1, x.2.1, x.2.2⟩)).complete (mlen p))

/-- The 8-byte units of lines with their places. -/
def lineUnits (l : List (Word × Loc)) : List (Spot × Loc) :=
  l.flatMap fun x => (List.range 8).map fun i => ((⟨0, 0, x.1 + word (8 * i)⟩ : Spot), shift x.2 (8 * i))
where
  /-- A place moved up. -/
  shift : Loc → Nat → Loc
    | .hbm a, i => .hbm (a + i) | .cxl a, i => .cxl (a + i) | .spad a, i => .spad (a + i) | .fabric w a, i => .fabric w (a + i)

/-- The bytes of lines, once none holds an error of a scratchpad; and the error of HBM data, if any. -/
def State.readLines (s : State) (l : List (Word × Loc)) : Except Halt (List Byte × Option Exc) := do
  let err ← s.badData (lineUnits l)
  .ok (l.flatMap fun x => readBytes s.mem x.2 64, err)

/-- The bytes of header lines, which the instruction needs in issue: those in fabric windows are awaited (R349), and an error in data is
reported with its address (R292). -/
def State.readHeads (s : State) : List (Word × Loc) → Except Halt (List (List Byte))
  | [] => .ok []
  | x :: rest => do
    let b ← match x.2 with
      | .fabric win _ => (s.farLoad .weak win x.1 64).map fun v => bytesOf v 64
      | l => match (lineUnits [x]).findSome? fun u => (badAt s.mem u.2).map fun d => (u.1.va, d) with
        | some (va, d) => raiseAt 0x11 d va
        | none => .ok (readBytes s.mem l 64)
    let r ← s.readHeads rest
    .ok (b :: r)

/-- A register from the planes of its slot (R277). -/
def restoredReg (t : Tag) (mvl : Nat) (slow : Bool) (l : List Byte) : VReg :=
  { tag := { t with full := !slow },
    planes := (List.range (1 + Bundle.planes t.bundle)).map fun i => planeOf t.fmt mvl ((l.drop (4 * mvl * i)).take (4 * mvl)),
    failed := none }

/-- Units of a plane that a restored register takes: for a mask image, those of its bits (R273). -/
def State.unitsUsed (s : State) (fmt : Fmt) : Nat := if fmt = .mask then (2 * s.mvl + 63) / 64 else s.planeBytes / 8

/-- The units of plane `p` of a register in fabric windows are asked for (R349, R359). -/
def State.askPlane (s : State) (r : VSpec) (fmt : Fmt) (l : List (Word × Loc)) (p : Nat) : State :=
  let n := s.planeBytes / 64
  let units := (((l.drop (n * p)).take n).zipIdx.flatMap fun x => linePieces 0 x.2 x.1 []).filter fun y => decide (y.e < s.unitsUsed fmt)
  s.send (.weak 0 8 none) (.lanes r 64 p) units

/-- One register restored: its lines are noted, it is written, and it is left empty while it fills from HBM or a fabric window. -/
def State.restoreOne (s : State) (r : VSpec) (t : Tag) (l : List (Word × Loc)) (data : List Byte) (err : Option Exc) : State :=
  let a := s.agent false .core
  let s' := l.foldl (fun s x => (s.touch x.1).mapMem fun m => noteLine m a false x.2) s
  if t.fmt = .void then s'.setVreg r .void
  else
    let far := l.any fun x => x.2.isFabric
    let slow := l.any fun x => !x.2.isSpad && !x.2.isFabric
    let s' := s'.setVreg r (restoredReg t s.mvl (far || slow) data)
    let s' := if slow then s'.mapCore fun c => { c with fills := c.fills ++ [⟨r, err⟩] } else s'
    if far then (List.range (1 + Bundle.planes t.bundle)).foldl (fun s p => s.askPlane r t.fmt l p) s' else s'

/-- The restores of a range, once every check has passed. -/
def State.restoreAll (s : State) : List ((VSpec × Tag) × (List (Word × Loc) × List Byte × Option Exc)) → State
  | [] => s
  | x :: rest => (s.restoreOne x.1.1 x.1.2 x.2.1 x.2.2.1 x.2.2.2).restoreAll rest

/-- The lines of the planes that a tag names, checked (R278). -/
def State.planesOf (s : State) (t : Tag) (va : Word) : Except Halt (List (Word × Loc)) :=
  if t.fmt = .void then .ok []
  else s.checkLines .load (((s.slotLines (1 + Bundle.planes t.bundle)).drop 1).map fun o => va + word o)

/-- `vrs` (R277, R278). -/
def execVrs (p : Option MPfx) (count : BitVec 4) (v : BitVec 6) (base : Reg) (slot : BitVec 7) (loc : Bool) (s : State) :
    Host.Outcome State Fault Refusal :=
  outcome s do
    let i := Instr.vrs p count v base slot loc
    s.needVec
    s.illegalIf i (s.rangeBad v count) 0x03
    s.vecIllegal ⟨i, p.isSome, false, []⟩ false
    let rs := regRange v count
    let b := s.baseAddr p base loc
    raiseIf (!aligned b 64) 0x06 64 b
    let addrs := (List.range rs.length).map fun j => s.slotAddr b (slot.toNat + j)
    let heads ← s.checkLines .load addrs
    s.needLines heads
    let h ← s.readHeads heads
    let tags := (h.map (headerTag s.nregs s.planes s.mvl)).map fun t => t.getD ⟨false, .w16, .void⟩
    if tags.contains ⟨false, .w16, .void⟩ then tagExc 3 0x09
    let places ← (tags.zip addrs).mapM fun x => s.planesOf x.1 x.2
    s.needLines places.flatten
    let bodies ← places.mapM fun l => (s.readLines l).map fun r => (l, r.1, r.2)
    rs.forM s.awaitDest
    let heads' := heads.foldl (fun s x => (s.touch x.1).mapMem fun m => noteLine m (s.agent false .core) false x.2) s
    .ok ((heads'.restoreAll ((rs.zip tags).zip bodies)).complete (mlen p))

end Sys2Proof.Machine
end

