-- ==== Sys2Proof/Machine/Amo.lean ====
section
/-! DEFINITION. The scatter-add unit (R247 to R249), vector atomics and memory reductions (R250 to R254) and scalar atomics (R255,
R256). -/

namespace Sys2Proof.Machine

/-- The operations of R252. -/
inductive AOp where
  | add | min | max | swap | cas
  deriving DecidableEq, Repr

/-- Code of an operation in a fabric packet (R355): its func in R250. -/
def AOp.code : AOp → BitVec 4
  | .add => 0 | .min => 1 | .max => 2 | .swap => 3 | .cas => 4

/-- The operation of a code. -/
def AOp.ofCode (c : BitVec 4) : AOp := if c == 0 then .add else if c == 1 then .min else if c == 2 then .max else if c == 3 then .swap else .cas

/-- The element type of a type of atomics (R250). -/
def VAmoTy.ety : VAmoTy → ETy
  | .i32 => .i32 | .i64 => .i64 | .n32 => .n32 | .n64 => .n64 | .f32 => .f32 | .bf16 => .bf16

/-- The element type of a type code (R250). -/
def amoEty (c : BitVec 4) : ETy :=
  if c == 0 then .i32 else if c == 1 then .i64 else if c == 2 then .n32 else if c == 3 then .n64 else if c == 4 then .f32 else .bf16

/-- Op of R252 on bit patterns of an element type, by R248 for floating types. -/
def atomApply (op : AOp) (t : ETy) (old data new : Nat) : Nat :=
  match op with
  | .swap => data
  | .cas => if old = data then new else old
  | .add => if ETy.isFp t then (fAdd (ETy.ffmt t) .rne old data).1 else (old + data) % 2 ^ ETy.bits t
  | .min => if ETy.isFp t then (fPick (ETy.ffmt t) false old data).1
            else if intOf (ETy.signed t) (ETy.bits t) data < intOf (ETy.signed t) (ETy.bits t) old then data else old
  | .max => if ETy.isFp t then (fPick (ETy.ffmt t) true old data).1
            else if intOf (ETy.signed t) (ETy.bits t) old < intOf (ETy.signed t) (ETy.bits t) data then data else old

/-! ### Vector atomics and memory reductions (R250 to R254) -/

/-- A vector atomic or a memory reduction. -/
structure VAmo where
  ins : Instr
  p : Option MPfx
  op : AOp
  t : VAmoTy
  d : BitVec 6
  vi : BitVec 6
  base : Reg
  loc : Bool
  /-- it returns old values (`vamo`) -/
  ret : Bool
  deriving DecidableEq, Repr

/-- One active element: its index, address, data and new value. -/
structure AElem where
  e : Nat
  va : Word
  data : Nat
  new : Nat
  deriving DecidableEq, Repr

/-- Probe of one element (R252): alignment, translation, rights and races as a strong relaxed access at `.sys`. -/
def State.probeAtom (s : State) (w : Nat) (va : Word) : Except Halt Loc := do
  let l ← s.locate va w .atomic
  liftE (raceCheck s.part s.mem (s.agent true .sys) true l w va)
  .ok l

/-- The probe pass: the places of all elements, or the fault of the lowest, with `vfault` set to it. -/
def State.probeAtoms (s : State) (w : Nat) : List AElem → Except Halt (List (AElem × Loc))
  | [] => .ok []
  | x :: rest =>
    match s.probeAtom w x.va with
    | .error (.exc e) => .error (.partly e (s.mapVec fun c => { c with vfault := word x.e }))
    | .error h => .error h
    | .ok l => match s.probeAtoms w rest with
      | .error h => .error h
      | .ok r => .ok ((x, l) :: r)

/-- An element operation that joins its chain. -/
def State.atomOp (s : State) (a : VAmo) (w : Nat) (x : AElem × Loc) : AtomOp :=
  { core := s.core.id, handle := s.core.me.handle, wid := s.core.me.wid, loc := x.2, va := x.1.va, size := w, op := AOp.code a.op,
    ty := (VAmoTy.code a.t).setWidth 4, data := x.1.data, new := x.1.new, dest := if a.ret then some (.v a.d, x.1.e) else none,
    passes := s.passes .sys false }

/-- The elements that lie in fabric windows, as pieces. For `cas` the data of an element are the expected and then the new value
(DEDUCED, log entry 31). -/
def atomPieces (a : VAmo) (w : Nat) (l : List (AElem × Loc)) : List Piece :=
  l.filterMap fun x => match x.2 with
    | .fabric win _ => some ⟨x.1.e, x.1.va, win, 0, bytesOf x.1.data w ++ (if a.op = .cas then bytesOf x.1.new w else [])⟩
    | .hbm _ => none
    | .cxl _ => none
    | .spad _ => none

/-- The accesses of element operations are noted. -/
def State.noteAtoms (s : State) (w : Nat) (l : List (AElem × Loc)) : State :=
  let a := s.agent true .sys
  s.mapMem fun m => l.foldl (fun m x => if x.2.isFabric then m else noteBoth m a x.2 w) m

/-- The element operations join their chains, or leave for their targets. -/
def State.joinChains (s : State) (a : VAmo) (w : Nat) (b : Word) (l : List (AElem × Loc)) : State :=
  let ops := (l.filter fun x => !x.2.isFabric).map (s.atomOp a w)
  let s' := (s.noteAtoms w l).mapMem fun m => { m with ops := m.ops ++ ops }
  let s' := l.foldl (fun s x => s.touch x.1.va) s'
  s'.send ⟨2, w, AOp.code a.op, (VAmoTy.code a.t).setWidth 4, some b, .rlx, .sys, s.passes .sys false⟩
    (if a.ret then .lanes (.v a.d) (8 * w) 0 else fun _ => .store) (atomPieces a w l)

/-- The destination of `vamo` at issue (R252): merged or zeroed inactive elements, and empty until the old values have come. -/
def State.emptyDest (s : State) (a : VAmo) (n : Nat) : State :=
  let t := VAmoTy.ety a.t
  let k := maskOfM a.p
  let old := s.vreg (.v a.d)
  let lanes := ((old.lanes (ETy.bits t) s.vl).zip (s.active k)).map fun x => if x.2 then ⟨x.1.val, []⟩ else mergeLane k.zero false 0 x.1 x.1
  let r := old.write { Tag.of (ETy.fmt t) 0 with full := n == 0 } (ETy.bits t) 0 lanes
  let s' := s.setVreg (.v a.d) r
  if n = 0 then s' else s'.mapCore fun c => { c with fills := c.fills ++ [⟨.v a.d, none⟩] }

/-- A vector atomic or memory reduction (R252). -/
def State.vamo (s : State) (a : VAmo) : Except Halt State := do
  let t := VAmoTy.ety a.t
  let w := ETy.bytes t
  let cas := a.op = .cas
  let next : BitVec 6 := a.d + 1
  s.needVec
  s.illegalIf a.ins (decide cas && decide (s.nregs ≤ a.d.toNat + 1)) 0x03
  s.vecIllegal ⟨a.ins, a.p.isSome, (maskOfM a.p).mask != 0, [w]⟩ false
  let _ ← s.checkTags [w] true (s.indexSource (.indexed a.vi) ++ ⟨0, .vec (.v a.d) (ETy.fmt t)⟩ ::
    (if cas then [⟨0, .vec (.v next) (ETy.fmt t)⟩] else [])) none none
  s.awaitSources (⟨.v a.vi, trapIdx a.p, 1⟩ :: ⟨.v a.d, trapData a.p, 3⟩ :: (if cas then [⟨.v next, false, 3⟩] else []))
  let b := s.baseAddr a.p a.base a.loc
  let value (r : BitVec 6) (e : Nat) := elem (8 * w) ((s.vreg (.v r)).plane 0) e
  let elems := (activeIdx 0 (s.active (maskOfM a.p))).map fun e =>
    (⟨e, b + s.indexAt a.vi e, value a.d e, if cas then value next e else 0⟩ : AElem)
  let l ← s.probeAtoms w elems
  s.needTokens (atomPieces a w l)
  let s' := if a.ret then s.emptyDest a l.length else s
  .ok ((s'.joinChains a w b l).complete (mlen a.p))

/-- `vamo.add` (R252). -/
def execVamoAdd (p : Option MPfx) (d vi : BitVec 6) (base : Reg) (t : VAmoTy) (loc : Bool) (s : State) : Host.Outcome State Fault Refusal :=
  outcome s (s.vamo ⟨.vamoAdd p d vi base t loc, p, .add, t, d, vi, base, loc, true⟩)

/-- `vamo.min` (R252). -/
def execVamoMin (p : Option MPfx) (d vi : BitVec 6) (base : Reg) (t : VAmoTy) (loc : Bool) (s : State) : Host.Outcome State Fault Refusal :=
  outcome s (s.vamo ⟨.vamoMin p d vi base t loc, p, .min, t, d, vi, base, loc, true⟩)

/-- `vamo.max` (R252). -/
def execVamoMax (p : Option MPfx) (d vi : BitVec 6) (base : Reg) (t : VAmoTy) (loc : Bool) (s : State) : Host.Outcome State Fault Refusal :=
  outcome s (s.vamo ⟨.vamoMax p d vi base t loc, p, .max, t, d, vi, base, loc, true⟩)

/-- `vamo.swap` (R252). -/
def execVamoSwap (p : Option MPfx) (d vi : BitVec 6) (base : Reg) (t : VAmoTy) (loc : Bool) (s : State) : Host.Outcome State Fault Refusal :=
  outcome s (s.vamo ⟨.vamoSwap p d vi base t loc, p, .swap, t, d, vi, base, loc, true⟩)

/-- `vamo.cas` (R252). -/
def execVamoCas (p : Option MPfx) (d vi : BitVec 6) (base : Reg) (t : VAmoTy) (loc : Bool) (s : State) : Host.Outcome State Fault Refusal :=
  outcome s (s.vamo ⟨.vamoCas p d vi base t loc, p, .cas, t, d, vi, base, loc, true⟩)

/-- `mred.add` (R252). -/
def execMredAdd (p : Option MPfx) (d vi : BitVec 6) (base : Reg) (t : VAmoTy) (loc : Bool) (s : State) : Host.Outcome State Fault Refusal :=
  outcome s (s.vamo ⟨.mredAdd p d vi base t loc, p, .add, t, d, vi, base, loc, false⟩)

/-- `mred.min` (R252). -/
def execMredMin (p : Option MPfx) (d vi : BitVec 6) (base : Reg) (t : VAmoTy) (loc : Bool) (s : State) : Host.Outcome State Fault Refusal :=
  outcome s (s.vamo ⟨.mredMin p d vi base t loc, p, .min, t, d, vi, base, loc, false⟩)

/-- `mred.max` (R252). -/
def execMredMax (p : Option MPfx) (d vi : BitVec 6) (base : Reg) (t : VAmoTy) (loc : Bool) (s : State) : Host.Outcome State Fault Refusal :=
  outcome s (s.vamo ⟨.mredMax p d vi base t loc, p, .max, t, d, vi, base, loc, false⟩)

/-! ### Performing element operations (R247) -/

/-- A vector register of vector state changed by `f`. -/
def Vec.mapReg (v : Vec) (d : VSpec) (f : VReg → VReg) : Vec :=
  match d with
  | .v n => { v with v := v.v.set n.toNat (f (v.v.get n.toFin)) n.isLt }
  | .o n => { v with o := v.o.set n.toNat (f (v.o.get n.toFin)) n.isLt }
  | .l0 => { v with l0 := f v.l0 }
  | .l1 => { v with l1 := f v.l1 }

/-- Plane 0 of a register with element `e` of `w` bits replaced. -/
def VReg.putElem (r : VReg) (w e v : Nat) : VReg :=
  let p := r.plane 0
  { r with planes := (p - elem w p e * 2 ^ (w * e) + v % 2 ^ w * 2 ^ (w * e)) :: r.planes.drop 1 }

/-- The first operation of the chains in `l` at position `n`, with the others: none when an earlier one touches a common byte. -/
def takeOp (l : List AtomOp) (n : Nat) : Option (AtomOp × List AtomOp) :=
  match l[n]? with
  | none => none
  | some o => if (l.take n).any fun q => overlaps q.loc q.size o.loc o.size then none else some (o, l.eraseIdx n)

/-- The old value reaches its element, or the error of reading it the register. -/
def State.returnOld (s : State) (o : AtomOp) (r : Except Exc Nat) : State :=
  match o.dest with
  | none => s
  | some (d, e) => s.onCore o.core fun c => match r with
    | .ok v => { c with vec := c.vec.mapReg d fun q => q.putElem (8 * o.size) e v }
    | .error x => { c with fills := c.fills.map fun f => if f.reg = d ∧ f.error.isNone then { f with error := some x } else f }

/-- A scatter-add unit performs one operation (R247, R252), a strong relaxed access of its thread (R253): it passes on what fences before it release,
and what it reads is there for a later fence (R264). An uncorrectable old value leaves memory unchanged. -/
def State.applyAtom (s : State) (o : AtomOp) : State :=
  match badAt s.mem o.loc with
  | some d => s.returnOld o (.error ⟨0x11, d, 0, 0⟩)
  | none =>
    let old := readLoc s.mem o.loc o.size
    ((s.mapMem fun m => passAll (rmwLoc m o.loc o.size (atomApply (AOp.ofCode o.op) (amoEty o.ty) old o.data o.new)) o.loc o.size o.core o.passes).hear
      o.core o.handle o.wid [] (pubsAt s.mem o.loc o.size)).returnOld o (.ok old)

/-- The index that a step names, 0 without one. -/
def Choice.nth : Choice → Nat
  | .index i => i
  | _ => 0

/-- ATOMIC_APPLY (R247): the operation that the step names, when it is the next of its chain. -/
def execAtomicApply (s : State) : Host.Outcome State Fault Refusal :=
  match takeOp s.mem.ops (Choice.nth s.choice) with
  | none => .next s
  | some (o, rest) => .next ((s.mapMem fun m => { m with ops := rest }).applyAtom o)

/-! ### Scalar atomics (R255, R256) -/

/-- The element type of a type of scalar atomics. -/
def AmoTy.ety : AmoTy → ETy
  | .i64 => .i64 | .n64 => .n64 | .i32 => .i32 | .n32 => .n32

/-- Code of a type of scalar atomics among the type codes of R250. -/
def AmoTy.vcode : AmoTy → BitVec 4
  | .i32 => 0 | .i64 => 1 | .n32 => 2 | .n64 => 3

/-- The order of an atomic that acquires. -/
def AmoOrd.acquires : AmoOrd → Bool
  | .rlx => false | .acq => true | .rel => false | .sc => true

/-- The order of an atomic that releases. -/
def AmoOrd.releases : AmoOrd → Bool
  | .rlx => false | .acq => false | .rel => true | .sc => true

/-- The order of an atomic as that of an access. -/
def AmoOrd.order : AmoOrd → Order
  | .rlx => .rlx | .acq => .acq | .rel => .rel | .sc => .sc

/-- Data and new value of a scalar atomic (R256). -/
def State.amoArgs (s : State) (op : AOp) (d b : Reg) (w : Nat) : Nat × Nat :=
  let low (r : Reg) := (s.x r).toNat % 2 ^ (8 * w)
  match op with
  | .cas => (low d, low b)
  | .add => (low b, 0) | .min => (low b, 0) | .max => (low b, 0) | .swap => (low b, 0)

/-- A scalar atomic (R256). -/
def State.amo (s : State) (op : AOp) (d a b : Reg) (t : AmoTy) (ord : AmoOrd) (sc : Scope) : Except Halt State := do
  let w := ETy.bytes (AmoTy.ety t)
  let va := s.x a
  if AmoOrd.releases ord then s.settleStores
  let l ← s.locate va w .atomic
  s.awaitChain l w
  let arg := s.amoArgs op d b w
  let close (s : State) : State := if AmoOrd.acquires ord || AmoOrd.releases ord then s.sync else s
  match l with
  | .fabric win _ => do
    let x := scalarPiece va win (bytesOf arg.1 w ++ (if op = .cas then bytesOf arg.2 w else []))
    s.needTokens [x]
    let b : Ask := ⟨2, w, AOp.code op, AmoTy.vcode t, none, AmoOrd.order ord, sc, s.passes sc (AmoOrd.releases ord)⟩
    let s' := ((s.touch va).send b (fun _ => .scalar d w (ETy.signed (AmoTy.ety t))) [x]).pend d
    .ok ((close s').complete 4)
  | _ => do
    let ag := s.agent true sc
    liftE (raceCheck s.part s.mem ag true l w va)
    match badAt s.mem l with
    | some x => raiseAt 0x11 x va
    | none => do
      let old := readLoc s.mem l w
      let m := noteBoth (rmwLoc s.mem l w (atomApply op (AmoTy.ety t) old arg.1 arg.2)) ag l w
      let s' : State := { s.touch va with mem := m }
      let s' := if AmoOrd.acquires ord then s'.acquire sc (pubsAt s.mem l w) else s'.mapCore fun c => { c with loaded := c.loaded ++ pubsAt s.mem l w }
      let s' := (close (s'.publish l w sc (AmoOrd.releases ord))).setX d (widen (ETy.signed (AmoTy.ety t)) w old)
      .ok ((if l.isSpad then s' else s'.pend d).complete 4)

/-- `amo.add` (R256). -/
def execAmoAdd (d a b : Reg) (t : AmoTy) (ord : AmoOrd) (sc : Scope) (s : State) : Host.Outcome State Fault Refusal :=
  outcome s (s.amo .add d a b t ord sc)

/-- `amo.min` (R256). -/
def execAmoMin (d a b : Reg) (t : AmoTy) (ord : AmoOrd) (sc : Scope) (s : State) : Host.Outcome State Fault Refusal :=
  outcome s (s.amo .min d a b t ord sc)

/-- `amo.max` (R256). -/
def execAmoMax (d a b : Reg) (t : AmoTy) (ord : AmoOrd) (sc : Scope) (s : State) : Host.Outcome State Fault Refusal :=
  outcome s (s.amo .max d a b t ord sc)

/-- `amo.swap` (R256). -/
def execAmoSwap (d a b : Reg) (t : AmoTy) (ord : AmoOrd) (sc : Scope) (s : State) : Host.Outcome State Fault Refusal :=
  outcome s (s.amo .swap d a b t ord sc)

/-- `amo.cas` (R256). -/
def execAmoCas (d a b : Reg) (t : AmoTy) (ord : AmoOrd) (sc : Scope) (s : State) : Host.Outcome State Fault Refusal :=
  outcome s (s.amo .cas d a b t ord sc)

end Sys2Proof.Machine
end

