-- ==== Sys2Proof/Machine/Engine.lean ====
section
/-! DEFINITION. What the engine queues share: the commands outstanding, fences (R226), the regions of commands (R235, R240), their
accesses as agents (R227), completion words (R189, R221) and failures not yet reported (R282). -/

namespace Sys2Proof.Machine

/-! ### Commands outstanding -/

/-- A command that is in a queue. -/
structure Outstanding where
  id : Nat
  queue : Queue
  core : Nat
  handle : Nat
  wid : Nat
  deriving DecidableEq, Repr

/-- The core with number `n` as it stands. -/
def State.coreAt (s : State) (n : Nat) : Core := if s.core.id = n then s.core else (s.parked.find? fun c => c.id == n).getD (.reset n)

/-- Core numbers of a list of parked cores with `c` put in at its place. -/
def insertCore (c : Core) : List Core → List Core
  | [] => [c]
  | d :: rest => if c.id < d.id then c :: d :: rest else if c.id = d.id then c :: rest else d :: insertCore c rest

/-- The parked core `n`; a core not listed is idle as after reset. -/
def coreOf (l : List Core) (n : Nat) : Core := (l.find? fun c => c.id == n).getD (Core.reset n)

/-- Core `n` becomes the active core. -/
def State.activate (s : State) (n : Nat) : State :=
  if n = s.core.id ∨ s.part.cores ≤ n then s
  else { s with core := coreOf s.parked n, parked := insertCore s.core (s.parked.filter fun c => c.id != n) }

/-- The die of a core (R6, R163). -/
def State.dieOf (s : State) (core : Nat) : Nat := core / s.part.coresPerDie

/-- The commands in the queues, those of a matrix queue that stands in a context image among them (R310). -/
def State.outstanding (s : State) : List Outstanding :=
  s.cores.flatMap (fun c => c.copy.map (fun x => ⟨x.id, .copy, c.id, x.handle, x.wid⟩)
    ++ c.vec.mx.queue.map fun x => ⟨x.id, .matrix, c.id, x.handle, x.wid⟩)
  ++ s.eng.opt.map (fun x => ⟨x.id, .opt, x.core, x.handle, x.wid⟩)
  ++ s.fab.jobs.map (fun x => ⟨x.id, .fabric, x.core, x.handle, x.wid⟩)
  ++ s.sched.vimages.flatMap fun v => v.vec.mx.queue.map fun x => ⟨x.id, .matrix, v.core, x.handle, x.wid⟩

/-- A matrix engine has work of a vector state: commands, a fault, or a stop point that it holds. -/
def Mx.busy (m : Mx) : Bool := !m.queue.isEmpty || m.fault.isSome || m.holds

/-- The vector state of the resident thread is not in its core, and its matrix engine has work (R31, R207). -/
def State.savedWork (s : State) : Bool :=
  s.core.sup.vown != s.core.me.image && ((s.sched.vimages.any fun v => v.image == s.core.me.image && v.vec.mx.busy)
    || s.parked.any fun c => c.sup.vown == s.core.me.image && c.vec.mx.busy)

/-- An instruction that ends only once the thread's matrix commands have been dealt with needs its vector state in the core: vector-unit owned
when they stand elsewhere (R31, R226, R300, R311) (DEDUCED, log entry 103). -/
def State.needSaved (s : State) : Except Halt Unit := raiseIf (s.core.sup.mode == .user && s.savedWork) 0x14 0 0

/-- The resident thread. -/
def State.isMe (s : State) (handle wid : Nat) : Bool := handle == s.core.me.handle && wid == s.core.me.wid

/-- Number of commands of the resident thread in a queue. -/
def State.countMine (s : State) (q : Queue) : Nat := (s.outstanding.filter fun c => c.queue == q && s.isMe c.handle c.wid).length

/-- The engines' state changed by `f`. -/
def State.mapEng (s : State) (f : Eng → Eng) : State := { s with eng := f s.eng }

/-- The node of a handle, in the pool. -/
def State.node (s : State) (handle : Nat) : Option Node := s.sched.nodes.find? fun n => n.handle == handle

/-- The depth of a queue for the resident thread, with the defaults of R23. -/
def State.depth (s : State) (q : Queue) : Nat :=
  let given := match s.node s.core.me.handle with
    | none => 0
    | some n => match q with
      | .copy => n.record.qcopy | .matrix => n.record.qmx | .opt => n.record.qopt | .fabric => n.record.qfab
  if given ≠ 0 then given else match q with
    | .copy => 8 | .matrix => 4 | .opt => 8 | .fabric => 8

/-- An enqueue that would exceed the depth sleeps (R23, R30). -/
def State.awaitDepth (s : State) (q : Queue) : Except Halt Unit := if s.depth q ≤ s.countMine q then .error .sleep else .ok ()

/-! ### Fences (R226) -/

/-- The bit of a queue in a mask (R224). -/
def Queue.bit : Queue → Nat
  | .copy => 0 | .matrix => 1 | .opt => 2 | .fabric => 3

/-- Two commands of a queue enter the same one: that of a core, the matrix queue of a thread, which moves with its vector state (R311), or the
optimiser queue of a die. -/
def State.sameQueue (s : State) (q : Queue) (core handle wid core' handle' wid' : Nat) : Bool :=
  match q with
  | .opt => s.dieOf core == s.dieOf core'
  | .matrix => handle == handle' && wid == wid'
  | .copy => core == core'
  | .fabric => core == core'

/-- The fence names the queue of a command of a thread on a core. -/
def State.fences (s : State) (f : QFence) (q : Queue) (core handle wid : Nat) : Bool :=
  f.mask.getLsbD (Queue.bit q) && s.sameQueue q f.core f.handle f.wid core handle wid

/-- A command that is outstanding lies before the fence in a queue that it names. -/
def State.fenceWaits (s : State) (f : QFence) : Bool :=
  s.outstanding.any fun c => decide (c.id < f.id) && s.fences f c.queue c.core c.handle c.wid

/-- A command whose region is kept lies before the fence in a queue that it names. -/
def State.covers (s : State) (f : QFence) (r : CmdRegion) : Bool := decide (r.id < f.id) && s.fences f r.queue r.core r.handle r.wid

/-- A fence holds the outstanding command `id`: an earlier command of a queue that it names has not been performed. -/
def State.fenced (s : State) (id : Nat) : Bool :=
  (s.outstanding.find? fun c => c.id == id).any fun c =>
    s.eng.fences.any fun f => decide (f.id ≤ id) && s.fences f c.queue c.core c.handle c.wid && s.fenceWaits f

/-- Open regions of commands that a fence orders before a new command of the resident thread in a queue (R241). -/
def State.fencePrior (s : State) (q : Queue) : List Nat :=
  (s.eng.fences.filter fun f => s.fences f q s.core.id s.core.me.handle s.core.me.wid).flatMap fun f =>
    (s.eng.regions.filter (s.covers f)).flatMap fun r => r.region :: r.prior

/-- Open regions of the earlier commands of a queue, which happen before a new command of the resident thread in it (R241). -/
def State.queuePrior (s : State) (q : Queue) : List Nat :=
  (s.eng.regions.filter fun r => r.queue == q && s.sameQueue q r.core r.handle r.wid s.core.id s.core.me.handle s.core.me.wid).flatMap fun r =>
    r.region :: r.prior

/-- Fences before which nothing is outstanding and nothing is kept are gone. -/
def State.dropFences (s : State) : State :=
  s.mapEng fun e => { e with fences := e.fences.filter fun f => s.fenceWaits f || s.eng.regions.any (s.covers f) }

/-! ### Regions of commands (R235, R240) -/

/-- What the enqueue of a command fixes: its number, its region, and the open regions that happen before it. -/
structure NewCmd where
  id : Nat
  region : Nat
  prior : List Nat
  deriving DecidableEq, Repr

/-- The resident thread issues a command of a queue: its own region closes (R235), and the command's opens. -/
def State.newCmd (s : State) (q : Queue) (batch : Option (BitVec 16)) : NewCmd × State :=
  let s := s.sync
  let (r, m) := openRegion s.mem
  let c : NewCmd := { id := s.eng.nextId, region := r, prior := (s.core.seen ++ s.fencePrior q ++ s.queuePrior q).dedup }
  (c, ({ s with mem := m } : State).mapEng fun e => { e with nextId := e.nextId + 1, regions := e.regions ++
    [{ id := c.id, region := r, queue := q, core := s.core.id, handle := s.core.me.handle, wid := s.core.me.wid, batch := batch,
       prior := c.prior }] })

/-- The command of a region has been performed or reported failed. -/
def State.performed (s : State) (r : CmdRegion) : Bool := !(s.outstanding.any fun c => c.id == r.id)

/-- What is kept of a command whose region has closed: the regions still open that happen before it, and so before the later commands of its queue
(R231, R241). -/
def CmdRegion.close (r : CmdRegion) (m : Mem) : Option CmdRegion :=
  let l := r.prior.filter fun x => m.openRegions.contains x
  if l.isEmpty then none else some { r with region := 0, prior := l }

/-- The regions of commands `which` close. -/
def keepRegions (m : Mem) (which : CmdRegion → Bool) (l : List CmdRegion) : List CmdRegion :=
  l.filterMap fun r => if which r || r.region == 0 then r.close m else some r

/-- What happens before the commands that `which` names (R240, R241). -/
def State.priorOf (s : State) (which : CmdRegion → Bool) : List Nat := (s.eng.regions.filter which).flatMap (·.prior)

/-- The regions of the commands that `which` names close. -/
def State.endCmds (s : State) (which : CmdRegion → Bool) : State :=
  let m := closeRegions s.mem ((s.eng.regions.filter which).map fun r => r.region)
  (({ s with mem := m } : State).mapEng fun e => { e with regions := keepRegions m which e.regions }).dropFences

/-- The resident thread acquires the writes of the commands that `which` names: their regions close, and what happens before the commands
happens before the thread's accesses (R231, R240). -/
def State.closeCmds (s : State) (which : CmdRegion → Bool) : State :=
  (s.endCmds which).mapCore fun c => { c with seen := c.seen ++ s.priorOf which }

/-- The resident thread acquires the writes of its performed commands of a queue (R192, R215, R226). -/
def State.acquireMine (s : State) (q : Queue) : State := s.closeCmds fun r => r.queue == q && s.isMe r.handle r.wid && s.performed r

/-! ### Accesses of commands (R227, R228) -/

/-- The agent of a command: its kind in `uvia` (R239), the PC that issued it, and its queue. -/
def State.cmdAgent (s : State) (q : Queue) (core : Nat) (pc : Word) (region : Nat) (prior : List Nat) : Agent :=
  { kind := BitVec.ofNat 4 (Queue.bit q + 1), who := bits pc 0 52, queue := 4 * (if q = .opt then s.dieOf core else core) + Queue.bit q + 1,
    core := core, region := region, strong := false, scope := .core, prior := prior }

/-- The addresses of a command: those of its thread. -/
def cmdSpace (root : Word) (handle wid : Nat) : Space := { root := root, tlb := [], handle := handle, wid := wid }

/-- Why a command does not make an access now. -/
inductive CmdHalt where
  /-- the access fails -/
  | failed (e : Exc)
  /-- the command awaits the answer to it, or to one before it: the state in which it waits (R349) -/
  | await (s : State)
  deriving DecidableEq, Repr

/-- An access of a command to a fabric window as a whole (R349): the bytes of its answer, none of a write (DEDUCED, log entry 13). -/
def State.cmdFar (s : State) (sp : Space) (a : Agent) (k : FarKind) (o : FarOrd) (win : Nat) (va : Word) (n : Nat) (data : List Byte) :
    Except CmdHalt (List Byte) :=
  match s.farAns sp.handle sp.wid (some a.region) (k != .read) va n with
  | some (.data l) => .ok l
  | some (.failed q c) => .error (.failed ⟨q, c, va, 0⟩)
  | some .awaited => .error (.await s)
  | none => .error (.await (s.farSend ⟨a.core, sp.handle, sp.wid, a.who.setWidth 64, some a.region⟩ k o win va n data))

/-- A check of a command's access as the command meets it. -/
def liftC {α : Type} (r : Except Exc α) : Except CmdHalt α :=
  match r with
  | .ok a => .ok a
  | .error e => .error (.failed e)

/-- One element read by a command: its value and the memories after it. Alignment is checked by the caller. -/
def State.cmdRead (s : State) (sp : Space) (a : Agent) (va : Word) (n : Nat) : Except CmdHalt (Nat × Mem) :=
  match Machine.locate s.part s.mem sp va n .load with
  | .error e => .error (.failed e)
  | .ok (.fabric win _) => (s.cmdFar sp a .read .weak win va n []).map fun l => (valueOfBytes l, s.mem)
  | .ok l => liftC (loadLoc s.part s.mem a l n va)

/-- One element written by a command at a place: the memories after it. -/
def State.cmdWrite (s : State) (sp : Space) (a : Agent) (l : Loc) (va : Word) (n v : Nat) : Except CmdHalt Mem :=
  match l with
  | .fabric win _ => (s.cmdFar sp a .write .weak win va n (bytesOf v n)).map fun _ => s.mem
  | l => liftC (storeLoc s.part s.mem a l n v va)

/-- What the release of a command passes on: its own region, which an acquire of it closes, and the regions that happen before it (R235, R240). -/
def Agent.passes (a : Agent) (sc : Scope) : List Passed := ⟨a.region, sc, true⟩ :: a.prior.map fun r => ⟨r, sc, false⟩

/-- A completion-word store (R189, R221): an 8-byte store that releases at its scope, and which an acquire may read to close the
command's region (R235). -/
def State.completionStore (s : State) (sp : Space) (a : Agent) (va : Word) (v : Word) (sc : Scope) : Except CmdHalt Mem :=
  match Machine.locate s.part s.mem sp va 8 .store with
  | .error e => .error (.failed e)
  | .ok (.fabric win _) => (s.cmdFar sp a .write ⟨.rel, sc, a.passes sc⟩ win va 8 (bytesOf v.toNat 8)).map fun _ => s.mem
  | .ok l => (s.cmdWrite sp { a with strong := true, scope := sc } l va 8 v.toNat).map fun m => passAll m l 8 a.core (a.passes sc)

/-- Status and class of a failed access of a waybill or card (R189, R221): an uncorrectable error in the data read, here or at the target of a
fabric window, is DATA (DESIGN CHOICE, log entry 94). -/
def elementStatus (e : Exc) : BitVec 7 × BitVec 8 :=
  if e.cls = 0x11 ∨ (e.cls = 0x15 ∧ e.detail = 0x05) then (0x07, 0) else (0x06, e.cls)

/-- A command awaits the answer to an access to a fabric window. -/
def State.farWaits (s : State) (region : Nat) : Bool := s.fab.far.any fun x => x.cmd == some region && x.ans == .awaited

/-- A failure word (R189, R221). -/
def failWord (status : BitVec 7) (cls : BitVec 8) (count : Nat) : Word := 1#1 ++ status ++ cls ++ BitVec.ofNat 48 (min count (2 ^ 48 - 1))

/-! ### Failures not yet reported (R282) -/

/-- A failure of the resident thread in a queue. -/
def State.myFail (s : State) (qs : Queue → Bool) : Option CmdFail := s.eng.fails.find? fun f => qs f.queue && s.isMe f.handle f.wid

/-- The failure is recorded against its thread. -/
def State.fail (s : State) (f : CmdFail) : State := s.mapEng fun e => { e with fails := e.fails ++ [f] }

/-- The failure is reported. -/
def State.unfail (s : State) (f : CmdFail) : State := s.mapEng fun e => { e with fails := e.fails.erase f }

/-- Engine error at a wait (R279, R282). -/
def CmdFail.exc (f : CmdFail) : Exc := { cls := 0x0E, detail := f.status.setWidth 8, addr := f.addr, via := f.via }

end Sys2Proof.Machine
end

