-- ==== Sys2Proof/Machine/Tan.lean ====
section
/-! DEFINITION. The direction hash (R110 to R113) and the TAN instructions (R133 to R138). -/

namespace Sys2Proof.Machine

/-! ### The direction hash -/

/-- DH(K, i, j) is −1 (R110). -/
def dhNeg (key : Word32) (i j : Nat) : Bool :=
  let c : Word32 := BitVec.ofNat 32 (32 * j + i) ^^^ key
  let x := c * 1025
  let x := x ^^^ (x >>> 6)
  let x := x * 9
  let x := x ^^^ (x >>> 11)
  x.getLsbD 15 != x.getLsbD 0

/-- The key K (R111). -/
def keyOf (seed t stream : Word32) : Word32 := seed ^^^ (t * 0x9E3779B9) ^^^ (stream * 0x85EBCA6B)

/-- R112: whether direction `i` of 64-bit element index `J` is −1. -/
def dirNeg (seed t stream : Word32) (i : Nat) (idx : Word) : Bool :=
  dhNeg (keyOf seed t (stream + (idx >>> 27).setWidth 32)) i (bits idx 0 27).toNat

/-- σ in the element format (R113). -/
def sigmaBits (t : ETy) (sigma : Word32) : Nat := toElement t sigma.toNat

/-- A seeded tangent (R113). -/
def seedTangent (t : ETy) (sigma : Word32) (neg : Bool) : Nat := negIf (ETy.ffmt t) neg (sigmaBits t sigma)

/-- Seed, stream and step of the vector unit (R111), and whether direction `i` of element index `J` is −1 for it. -/
def State.vecNeg (s : State) (i : Nat) (idx : Word) : Bool :=
  dirNeg (bits s.st.dkey 0 32) (bits s.st.dstep 0 32) (bits s.st.dkey 32 32) i idx

/-! ### TAN (R133 to R138) -/

/-- An instruction of TAN: `hasA` reads a, `lone` exempts a's bundle width from R49, `readD` reads d beside R116, `fixed` is the entry's width, `bad`
its further condition of illegal instruction, and `g` the element from its index and the lanes of a and d. -/
structure TanOp where
  hasA : Bool
  lone : Bool
  readD : Bool
  fixed : Option Nat
  bad : Bool
  watch : BitVec 16
  g : Nat → Nat → Lane → Lane → Lane

/-- Operand a as a source. -/
def TanOp.aSource (o : TanOp) (a : VSpec) (t : ETy) : List Source :=
  if o.hasA then [⟨1, if o.lone then .plain a (ETy.fmt t) else .vec a (ETy.fmt t)⟩] else []

/-- The common course of the TAN instructions. -/
def State.tanOp (s : State) (i : Instr) (p : Option VPfx) (d a : VSpec) (o : ETy → TanOp) : Except Halt State := do
  let t := typeOf .f32 p
  let o := o t
  let m := maskOf p
  let rd := o.readD || m.merges
  s.vecIllegal ⟨i, p.isSome, m.mask != 0, [ETy.bytes t]⟩ o.bad
  let w ← s.checkTags [ETy.bytes t] true (o.aSource a t ++ dSource rd d (ETy.fmt t)) (some d) o.fixed
  s.awaitSources ((if o.hasA then [⟨a, trapA p, 1⟩] else []) ++ dReads rd d (trapD p))
  let la := (s.vreg a).lanes (ETy.bits t) s.vl
  let ld := (s.vreg d).lanes (ETy.bits t) s.vl
  let res := ((List.range s.vl).zip (la.zip ld)).map fun x => Res.plain (o.g w x.1 x.2.1 x.2.2)
  let s' ← s.commit ⟨d, ETy.fmt t, w, m, o.watch⟩ res
  .ok (s'.complete (vlen p))

/-- `dseed.rad` (R134). -/
def execDseedRad (p : Option VPfx) (d : VSpec) (x : Reg) (s : State) : Host.Outcome State Fault Refusal :=
  outcome s (s.tanOp (.dseedRad p d x) p d d fun t =>
    { hasA := false, lone := false, readD := true, fixed := some s.planes, bad := false, watch := 0xFFFF,
      g := fun w e _ ld => ⟨ld.val, (List.range w).map fun i =>
        seedTangent t (bits s.st.dsig 0 32) (s.vecNeg i (s.x x + word e))⟩ })

/-- `dzero` (R135): a's value with every slot +0.0. -/
def execDzero (p : Option VPfx) (d a : VSpec) (s : State) : Host.Outcome State Fault Refusal :=
  outcome s (s.tanOp (.dzero p d a) p d a fun _ =>
    { hasA := true, lone := false, readD := false, fixed := none, bad := false, watch := 0,
      g := fun w _ la _ => ⟨la.val, List.replicate w 0⟩ })

/-- A plane number: an `x` register, or the immediate (R133); a negative one, which R133 does not admit, is above every width. -/
def State.planeArg (s : State) (p : Option VPfx) : XB → Nat
  | .vs r => (s.x r).toNat
  | .vi b => (laneImm p b % 2 ^ 64).toNat

/-- `dget` (R136): plane i of a as a value. -/
def execDget (p : Option VPfx) (d a : VSpec) (b : XB) (s : State) : Host.Outcome State Fault Refusal :=
  outcome s (s.tanOp (.dget p d a b) p d a fun _ =>
    { hasA := true, lone := false, readD := false, fixed := some 0, bad := decide ((s.vreg a).width ≤ s.planeArg p b), watch := 0,
      g := fun _ _ la _ => ⟨la.slot (s.planeArg p b), []⟩ })

/-- The width of the result of `dput` (R137). -/
def State.putWidth (s : State) (d : VSpec) : Nat := if (s.vreg d).width = 0 then s.planes else (s.vreg d).width

/-- `dput` (R137): a's values into plane i of d. -/
def execDput (p : Option VPfx) (d a : VSpec) (b : XB) (s : State) : Host.Outcome State Fault Refusal :=
  let i := s.planeArg p b
  outcome s (s.tanOp (.dput p d a b) p d a fun _ =>
    { hasA := true, lone := true, readD := true, fixed := some (s.putWidth d), bad := decide (s.putWidth d ≤ i),
      watch := if 16 ≤ i then 0 else 1#16 <<< i,
      g := fun w _ la ld => ⟨ld.val, ((List.range w).map ld.slot).set i la.val⟩ })

/-- `dmask` (R138): slots of d named by the mask become +0.0. -/
def execDmask (p : Option VPfx) (d : VSpec) (x : Reg) (s : State) : Host.Outcome State Fault Refusal :=
  outcome s (s.tanOp (.dmask p d x) p d d fun _ =>
    { hasA := false, lone := false, readD := true, fixed := some (s.vreg d).width, bad := false, watch := 0,
      g := fun w _ _ ld => ⟨ld.val, (List.range w).map fun i => if (s.x x).getLsbD i && decide (i < 16) then 0 else ld.slot i⟩ })

end Sys2Proof.Machine
end

