-- ==== Sys2Proof/Machine/Scalar.lean ====
section
/-! DEFINITION. Integer arithmetic of the scalar side: majors 0x01 and 0x02 (R139, R140). -/

namespace Sys2Proof.Machine

/-- Write a result to `x[d]` and complete (R139, R36). -/
def alu (d : Reg) (v : Word) (s : State) : Host.Outcome State Fault Refusal := .next ((s.setX d v).complete 4)

/-- High 64 bits of the signed product (R139). -/
def mulHighI (a b : Word) : Word := BitVec.ofInt 64 (a.toInt * b.toInt / 2 ^ 64)

/-- High 64 bits of the unsigned product (R139). -/
def mulHighN (a b : Word) : Word := BitVec.ofNat 64 (a.toNat * b.toNat / 2 ^ 64)

/-- Signed quotient truncated towards zero; all ones for b = 0 (R139). -/
def divI (a b : Word) : Word := if b = 0 then BitVec.allOnes 64 else BitVec.ofInt 64 (a.toInt.tdiv b.toInt)

/-- Unsigned quotient; all ones for b = 0 (R139). -/
def divN (a b : Word) : Word := if b = 0 then BitVec.allOnes 64 else BitVec.ofNat 64 (a.toNat / b.toNat)

/-- a − b × quotient; a for b = 0 (R139). -/
def remI (a b : Word) : Word := if b = 0 then a else BitVec.ofInt 64 (a.toInt.tmod b.toInt)

/-- a − b × quotient; a for b = 0 (R139). -/
def remN (a b : Word) : Word := if b = 0 then a else BitVec.ofNat 64 (a.toNat % b.toNat)

/-- 1 or 0. -/
def flag (b : Bool) : Word := if b then 1 else 0

/-- Leading zeros among the low `n` bits of `w`. -/
def leading (w : Word) : Nat → Nat
  | 0 => 0
  | n + 1 => if w.getLsbD n then 0 else 1 + leading w n

/-- Trailing zeros of `w` from bit `lo` up, of `n` bits. -/
def trailing (w : Word) (lo : Nat) : Nat → Nat
  | 0 => 0
  | n + 1 => if w.getLsbD lo then 0 else 1 + trailing w (lo + 1) n

/-- Set bits among the low `n` bits of a number. -/
def ones (v : Nat) : Nat → Nat
  | 0 => 0
  | n + 1 => v % 2 + ones (v / 2) n

/-- The low `w` bits of `a`, sign-extended (R139). -/
def signLow (a : Word) (w : Nat) : Word := ((a <<< (64 - w)).sshiftRight (64 - w))

/-- The low `w` bits of `a`, zero-extended (R139). -/
def zeroLow (a : Word) (w : Nat) : Word := ((a <<< (64 - w)) >>> (64 - w))

/-- Shift count b[5:0] (R139). -/
def count (b : Word) : Nat := b.toNat % 64

/-- `add` (R139). -/
def execAdd (d a b : Reg) (s : State) : Host.Outcome State Fault Refusal := alu d (s.x a + s.x b) s

/-- `sub` (R139). -/
def execSub (d a b : Reg) (s : State) : Host.Outcome State Fault Refusal := alu d (s.x a - s.x b) s

/-- `mul` (R139). -/
def execMul (d a b : Reg) (s : State) : Host.Outcome State Fault Refusal := alu d (s.x a * s.x b) s

/-- `mulh.i` (R139). -/
def execMulhI (d a b : Reg) (s : State) : Host.Outcome State Fault Refusal := alu d (mulHighI (s.x a) (s.x b)) s

/-- `mulh.n` (R139). -/
def execMulhN (d a b : Reg) (s : State) : Host.Outcome State Fault Refusal := alu d (mulHighN (s.x a) (s.x b)) s

/-- `div.i` (R139). -/
def execDivI (d a b : Reg) (s : State) : Host.Outcome State Fault Refusal := alu d (divI (s.x a) (s.x b)) s

/-- `div.n` (R139). -/
def execDivN (d a b : Reg) (s : State) : Host.Outcome State Fault Refusal := alu d (divN (s.x a) (s.x b)) s

/-- `rem.i` (R139). -/
def execRemI (d a b : Reg) (s : State) : Host.Outcome State Fault Refusal := alu d (remI (s.x a) (s.x b)) s

/-- `rem.n` (R139). -/
def execRemN (d a b : Reg) (s : State) : Host.Outcome State Fault Refusal := alu d (remN (s.x a) (s.x b)) s

/-- `and` (R139). -/
def execAnd (d a b : Reg) (s : State) : Host.Outcome State Fault Refusal := alu d (s.x a &&& s.x b) s

/-- `or` (R139). -/
def execOr (d a b : Reg) (s : State) : Host.Outcome State Fault Refusal := alu d (s.x a ||| s.x b) s

/-- `xor` (R139). -/
def execXor (d a b : Reg) (s : State) : Host.Outcome State Fault Refusal := alu d (s.x a ^^^ s.x b) s

/-- `shl` (R139). -/
def execShl (d a b : Reg) (s : State) : Host.Outcome State Fault Refusal := alu d (s.x a <<< count (s.x b)) s

/-- `shr` (R139). -/
def execShr (d a b : Reg) (s : State) : Host.Outcome State Fault Refusal := alu d (s.x a >>> count (s.x b)) s

/-- `sra` (R139). -/
def execSra (d a b : Reg) (s : State) : Host.Outcome State Fault Refusal := alu d ((s.x a).sshiftRight (count (s.x b))) s

/-- `slt.i` (R139). -/
def execSltI (d a b : Reg) (s : State) : Host.Outcome State Fault Refusal := alu d (flag ((s.x a).slt (s.x b))) s

/-- `slt.n` (R139). -/
def execSltN (d a b : Reg) (s : State) : Host.Outcome State Fault Refusal := alu d (flag ((s.x a).ult (s.x b))) s

/-- `min.i` (R139). -/
def execMinI (d a b : Reg) (s : State) : Host.Outcome State Fault Refusal := alu d (if (s.x a).slt (s.x b) then s.x a else s.x b) s

/-- `max.i` (R139). -/
def execMaxI (d a b : Reg) (s : State) : Host.Outcome State Fault Refusal := alu d (if (s.x a).slt (s.x b) then s.x b else s.x a) s

/-- `min.n` (R139). -/
def execMinN (d a b : Reg) (s : State) : Host.Outcome State Fault Refusal := alu d (if (s.x a).ult (s.x b) then s.x a else s.x b) s

/-- `max.n` (R139). -/
def execMaxN (d a b : Reg) (s : State) : Host.Outcome State Fault Refusal := alu d (if (s.x a).ult (s.x b) then s.x b else s.x a) s

/-- `clz` (R139). -/
def execClz (d a : Reg) (s : State) : Host.Outcome State Fault Refusal := alu d (word (leading (s.x a) 64)) s

/-- `ctz` (R139). -/
def execCtz (d a : Reg) (s : State) : Host.Outcome State Fault Refusal := alu d (word (trailing (s.x a) 0 64)) s

/-- `popc` (R139). -/
def execPopc (d a : Reg) (s : State) : Host.Outcome State Fault Refusal := alu d (word (ones (s.x a).toNat 64)) s

/-- `sext` (R139). -/
def execSext (d a : Reg) (w : BitVec 7) (s : State) : Host.Outcome State Fault Refusal := alu d (signLow (s.x a) w.toNat) s

/-- `zext` (R139). -/
def execZext (d a : Reg) (w : BitVec 7) (s : State) : Host.Outcome State Fault Refusal := alu d (zeroLow (s.x a) w.toNat) s

/-- `addi` (R140). -/
def execAddi (d a : Reg) (imm : BitVec 14) (s : State) : Host.Outcome State Fault Refusal := alu d (s.x a + imm.signExtend 64) s

/-- `andi` (R140). -/
def execAndi (d a : Reg) (imm : BitVec 14) (s : State) : Host.Outcome State Fault Refusal := alu d (s.x a &&& imm.signExtend 64) s

/-- `ori` (R140). -/
def execOri (d a : Reg) (imm : BitVec 14) (s : State) : Host.Outcome State Fault Refusal := alu d (s.x a ||| imm.signExtend 64) s

/-- `xori` (R140). -/
def execXori (d a : Reg) (imm : BitVec 14) (s : State) : Host.Outcome State Fault Refusal := alu d (s.x a ^^^ imm.signExtend 64) s

/-- `shli` (R140). -/
def execShli (d a : Reg) (sh : BitVec 6) (s : State) : Host.Outcome State Fault Refusal := alu d (s.x a <<< sh.toNat) s

/-- `shri` (R140). -/
def execShri (d a : Reg) (sh : BitVec 6) (s : State) : Host.Outcome State Fault Refusal := alu d (s.x a >>> sh.toNat) s

/-- `srai` (R140). -/
def execSrai (d a : Reg) (sh : BitVec 6) (s : State) : Host.Outcome State Fault Refusal := alu d ((s.x a).sshiftRight sh.toNat) s

/-- `lui` (R140). -/
def execLui (d : Reg) (imm : BitVec 19) (s : State) : Host.Outcome State Fault Refusal := alu d ((imm ++ 0#13).signExtend 64) s

end Sys2Proof.Machine
end

