-- ==== Sys2Proof/Machine/Vint.lean ====
section
/-! DEFINITION. Integer vector arithmetic (R145), comparisons into masks (R146) and mask instructions (R147, R148). -/

namespace Sys2Proof.Machine

/-! ### VINT (R145) -/

/-- An element operation of VINT: type, a, b to the result before it wraps. -/
abbrev IOp := ETy → Nat → Nat → Int

/-- The integer that an element is under the signedness of its type. -/
def asInt (t : ETy) (v : Nat) : Int := intOf (ETy.signed t) (ETy.bits t) v

/-- An integer instruction of two operands. -/
def State.intOp (s : State) (i : Instr) (p : Option VPfx) (d a : VSpec) (b : VB) (op : IOp) : Except Halt State := do
  let t := typeOf .i32 p
  let m := maskOf p
  s.vecIllegal ⟨i, p.isSome, m.mask != 0, [ETy.bytes t]⟩ false
  let _ ← s.checkTags [ETy.bytes t] true ([⟨1, .vec a (ETy.fmt t)⟩] ++ VB.isource t b ++ dSource m.merges d (ETy.fmt t)) (some d) (some 0)
  s.awaitSources ([⟨a, trapA p, 1⟩] ++ VB.reads (trapB p) b ++ dReads m.merges d (trapD p))
  let va := ((s.vreg a).lanes (ETy.bits t) s.vl).map (·.val)
  let res := (va.zip (s.ivals p t b)).map fun x => Res.plain ⟨lowBits (ETy.bits t) (op t x.1 x.2), []⟩
  let s' ← s.commit ⟨d, ETy.fmt t, 0, m, 0⟩ res
  .ok (s'.complete (vlen p))

/-- `vadd` (R145). -/
def execVadd (p : Option VPfx) (d a : VSpec) (b : VB) (s : State) : Host.Outcome State Fault Refusal :=
  outcome s (s.intOp (.vadd p d a b) p d a b fun _ x y => (x + y : Nat))

/-- `vsub` (R145). -/
def execVsub (p : Option VPfx) (d a : VSpec) (b : VB) (s : State) : Host.Outcome State Fault Refusal :=
  outcome s (s.intOp (.vsub p d a b) p d a b fun _ x y => (x : Int) - y)

/-- `vmul` (R145). -/
def execVmul (p : Option VPfx) (d a : VSpec) (b : VB) (s : State) : Host.Outcome State Fault Refusal :=
  outcome s (s.intOp (.vmul p d a b) p d a b fun _ x y => (x * y : Nat))

/-- `vmulh` (R145): by the signedness of the type. -/
def execVmulh (p : Option VPfx) (d a : VSpec) (b : VB) (s : State) : Host.Outcome State Fault Refusal :=
  outcome s (s.intOp (.vmulh p d a b) p d a b fun t x y => asInt t x * asInt t y / 2 ^ ETy.bits t)

/-- `vand` (R145). -/
def execVand (p : Option VPfx) (d a : VSpec) (b : VB) (s : State) : Host.Outcome State Fault Refusal :=
  outcome s (s.intOp (.vand p d a b) p d a b fun _ x y => (x &&& y : Nat))

/-- `vor` (R145). -/
def execVor (p : Option VPfx) (d a : VSpec) (b : VB) (s : State) : Host.Outcome State Fault Refusal :=
  outcome s (s.intOp (.vor p d a b) p d a b fun _ x y => (x ||| y : Nat))

/-- `vxor` (R145). -/
def execVxor (p : Option VPfx) (d a : VSpec) (b : VB) (s : State) : Host.Outcome State Fault Refusal :=
  outcome s (s.intOp (.vxor p d a b) p d a b fun _ x y => (x ^^^ y : Nat))

/-- `vshl` (R145): by b mod w. -/
def execVshl (p : Option VPfx) (d a : VSpec) (b : VB) (s : State) : Host.Outcome State Fault Refusal :=
  outcome s (s.intOp (.vshl p d a b) p d a b fun t x y => (x <<< (y % ETy.bits t) : Nat))

/-- `vshr` (R145). -/
def execVshr (p : Option VPfx) (d a : VSpec) (b : VB) (s : State) : Host.Outcome State Fault Refusal :=
  outcome s (s.intOp (.vshr p d a b) p d a b fun t x y => (x >>> (y % ETy.bits t) : Nat))

/-- `vsra` (R145): arithmetic for n types as well. -/
def execVsra (p : Option VPfx) (d a : VSpec) (b : VB) (s : State) : Host.Outcome State Fault Refusal :=
  outcome s (s.intOp (.vsra p d a b) p d a b fun t x y => intOf true (ETy.bits t) x / 2 ^ (y % ETy.bits t))

/-- `vmin` (R145): by the signedness of the type. -/
def execVmin (p : Option VPfx) (d a : VSpec) (b : VB) (s : State) : Host.Outcome State Fault Refusal :=
  outcome s (s.intOp (.vmin p d a b) p d a b fun t x y => if asInt t x ≤ asInt t y then x else y)

/-- `vmax` (R145): by the signedness of the type. -/
def execVmax (p : Option VPfx) (d a : VSpec) (b : VB) (s : State) : Host.Outcome State Fault Refusal :=
  outcome s (s.intOp (.vmax p d a b) p d a b fun t x y => if asInt t y ≤ asInt t x then x else y)

/-- Number of active elements below each index, `n` counted so far (R145). -/
def iota : Nat → List Bool → List Nat
  | _, [] => []
  | n, b :: rest => n :: iota (if b then n + 1 else n) rest

/-- `viota` (R145). -/
def execViota (p : Option VPfx) (d : VSpec) (s : State) : Host.Outcome State Fault Refusal :=
  outcome s do
    let t := typeOf .i32 p
    let m := maskOf p
    s.vecIllegal ⟨.viota p d, p.isSome, m.mask != 0, [ETy.bytes t]⟩ false
    let _ ← s.checkTags [ETy.bytes t] true (dSource m.merges d (ETy.fmt t)) (some d) (some 0)
    s.awaitSources (dReads m.merges d (trapD p))
    let res := (iota 0 (s.active m)).map fun n => Res.plain ⟨n % 2 ^ ETy.bits t, []⟩
    let s' ← s.commit ⟨d, ETy.fmt t, 0, m, 0⟩ res
    .ok (s'.complete (vlen p))

/-! ### Comparisons (R146) -/

/-- A mask as a number, from its bits. -/
def maskBits : List Bool → Nat
  | [] => 0
  | b :: rest => (if b then 1 else 0) + 2 * maskBits rest

/-- The mask that a comparison writes: active elements their result, inactive ones their old bit or 0; a mask holds 2 × G × EG
bits (R44, R146, R53), and the bits of elements beyond those are dropped (DEDUCED, log entry 16) (DESIGN CHOICE, log entry 89). -/
def State.compareMask (s : State) (m : MaskOf) (kd : BitVec 3) (res : List Bool) : Nat :=
  let old := (List.range s.vl).map fun e => s.k kd e
  maskBits (((res.zip old).zip (s.active m)).map fun x => if x.2 then x.1.1 else if m.zero then false else x.1.2) % 2 ^ s.mvlOf 2

/-- A floating-point comparison with its flags (R146). -/
def vfcompare (c : VFCond) (x y : FVal) : Bool × Flags :=
  let nan := x.isNan || y.isNan; let sig := flagIf (x.isSig || y.isSig) fNV; let any := flagIf nan fNV
  match c with
  | .eq => (eqVal x y, sig)
  | .ne => (!eqVal x y, sig)
  | .lt => (ltVal x y, any)
  | .le => (ltVal x y || eqVal x y, any)
  | .gt => (ltVal y x, any)
  | .ge => (ltVal y x || eqVal x y, any)
  | .unord => (nan, sig)
  | .ord => (!nan, sig)

/-- `vfcmp` (R146): tangents are not read, but two different nonzero bundle widths of its operands are reason 0x02 of R48 all the same
(DESIGN CHOICE, log entry 92). -/
def execVfcmp (p : Option VPfx) (c : VFCond) (kd : BitVec 3) (a : VSpec) (b : VB) (s : State) : Host.Outcome State Fault Refusal :=
  outcome s do
    let t := typeOf .f32 p
    let m := maskOf p
    s.vecIllegal ⟨.vfcmp p c kd a b, p.isSome, m.mask != 0, [ETy.bytes t]⟩ false
    let _ ← s.checkTags [ETy.bytes t] true ([⟨1, .vec a (ETy.fmt t)⟩] ++ VB.fsource t b) none none
    s.awaitSources ([⟨a, trapA p, 1⟩] ++ VB.reads (trapB p) b)
    let la := (s.vreg a).lanes (ETy.bits t) s.vl
    let res := (la.zip (s.flanes p t b)).map fun x => vfcompare c ((ETy.ffmt t).val x.1.val) ((ETy.ffmt t).val x.2.val)
    let on := (((List.range s.vl).zip res).zip (s.active m)).filterMap fun x => if x.2 then some x.1 else none
    let fl := joinFlags (on.map fun x => x.2.2)
    s.fpTrap fl (((on.find? fun x => x.2.2 &&& s.fpEnables != 0).map (·.1)).getD 0)
    .ok (((s.addFlags fl).setK kd (s.compareMask m kd (res.map (·.1)))).complete (vlen p))

/-- An integer comparison (R146). -/
def vcompare (c : VCond) (x y : Int) : Bool :=
  match c with
  | .eq => x == y | .ne => x != y | .lt => decide (x < y) | .le => decide (x ≤ y) | .gt => decide (y < x) | .ge => decide (y ≤ x)

/-- `vcmp` (R146). -/
def execVcmp (p : Option VPfx) (c : VCond) (kd : BitVec 3) (a : VSpec) (b : VB) (s : State) : Host.Outcome State Fault Refusal :=
  outcome s do
    let t := typeOf .i32 p
    let m := maskOf p
    s.vecIllegal ⟨.vcmp p c kd a b, p.isSome, m.mask != 0, [ETy.bytes t]⟩ false
    let _ ← s.checkTags [ETy.bytes t] true ([⟨1, .vec a (ETy.fmt t)⟩] ++ VB.isource t b) none none
    s.awaitSources ([⟨a, trapA p, 1⟩] ++ VB.reads (trapB p) b)
    let va := ((s.vreg a).lanes (ETy.bits t) s.vl).map (·.val)
    let res := (va.zip (s.ivals p t b)).map fun x => vcompare c (asInt t x.1) (asInt t x.2)
    .ok ((s.setK kd (s.compareMask m kd res)).complete (vlen p))

/-! ### Mask instructions (R147) -/

/-- The checks of a mask func (R147). -/
def State.maskCheck (s : State) (i : Instr) (p : Option VPfx) : Except Halt Unit :=
  s.vecIllegal ⟨i, p.isSome, false, []⟩ (decide (s.mvlOf 2 < s.vl))

/-- A mask func that writes a mask from bits below `vl`. -/
def State.maskOp (s : State) (i : Instr) (p : Option VPfx) (d : BitVec 3) (v : Nat) : Except Halt State := do
  s.maskCheck i p
  .ok ((s.setK d (v % 2 ^ s.vl)).complete (vlen p))

/-- A mask func that writes an `x` register: a lane barrier (R148). -/
def State.maskToX (s : State) (i : Instr) (p : Option VPfx) (d : Reg) (v : Word) : Except Halt State := do
  s.maskCheck i p
  s.laneBarrier
  .ok ((s.setX d v).complete (vlen p))

/-- `kand` (R147). -/
def execKand (p : Option VPfx) (d a b : BitVec 3) (s : State) : Host.Outcome State Fault Refusal :=
  outcome s (s.maskOp (.kand p d a b) p d (s.kBits a s.vl &&& s.kBits b s.vl))

/-- `kor` (R147). -/
def execKor (p : Option VPfx) (d a b : BitVec 3) (s : State) : Host.Outcome State Fault Refusal :=
  outcome s (s.maskOp (.kor p d a b) p d (s.kBits a s.vl ||| s.kBits b s.vl))

/-- `kxor` (R147). -/
def execKxor (p : Option VPfx) (d a b : BitVec 3) (s : State) : Host.Outcome State Fault Refusal :=
  outcome s (s.maskOp (.kxor p d a b) p d (s.kBits a s.vl ^^^ s.kBits b s.vl))

/-- `knot` (R147). -/
def execKnot (p : Option VPfx) (d a : BitVec 3) (s : State) : Host.Outcome State Fault Refusal :=
  outcome s (s.maskOp (.knot p d a) p d (2 ^ s.vl - 1 - s.kBits a s.vl))

/-- `kpop` (R147). -/
def execKpop (p : Option VPfx) (d : Reg) (a : BitVec 3) (s : State) : Host.Outcome State Fault Refusal :=
  outcome s (s.maskToX (.kpop p d a) p d (word (ones (s.kBits a s.vl) s.vl)))

/-- The lowest set bit below `n`, counted from `e`. -/
def lowestSet (v : Nat) (e : Nat) : Nat → Option Nat
  | 0 => none
  | n + 1 => if v.testBit e then some e else lowestSet v (e + 1) n

/-- `kfirst` (R147). -/
def execKfirst (p : Option VPfx) (d : Reg) (a : BitVec 3) (s : State) : Host.Outcome State Fault Refusal :=
  outcome s (s.maskToX (.kfirst p d a) p d (match lowestSet (s.kBits a s.vl) 0 s.vl with
    | some e => word e
    | none => BitVec.allOnes 64))

/-- `kmov.x` (R147). -/
def execKmovX (p : Option VPfx) (d : Reg) (a : BitVec 3) (b : Reg) (s : State) : Host.Outcome State Fault Refusal :=
  outcome s (s.maskToX (.kmovX p d a b) p d
    (if s.vl ≤ 64 * (s.x b).toNat then 0 else word (s.kBits a s.vl >>> (64 * (s.x b).toNat))))

/-- `kmov.k kd, va` (R147). -/
def execKmovKMask (p : Option VPfx) (d : BitVec 3) (a : VSpec) (s : State) : Host.Outcome State Fault Refusal :=
  outcome s do
    s.maskCheck (.kmovKMask p d a) p
    let _ ← s.checkTags [] false [⟨1, .vec a .mask⟩] none none
    s.awaitSources [⟨a, trapA p, 1⟩]
    .ok ((s.setK d ((s.vreg a).plane 0 % 2 ^ s.vl)).complete (vlen p))

/-- `kmov.k vd, ka` (R147): image bits at and above `vl` become 0; the result is pushed. An `o` register takes an image of 384 elements
(DESIGN CHOICE, log entry 90). -/
def execKmovKVector (p : Option VPfx) (d : VSpec) (a : BitVec 3) (s : State) : Host.Outcome State Fault Refusal :=
  outcome s do
    s.maskCheck (.kmovKVector p d a) p
    let _ ← s.checkTags [] false [] (some d) (some 0)
    s.awaitDest d
    let r : VReg := { tag := Tag.of .mask 0, planes := [s.kBits a s.vl], failed := none }
    .ok ((s.pushTo d r).complete (vlen p))

end Sys2Proof.Machine
end

