-- ==== Sys2Proof/Machine/Xlane.lean ====
section
/-! DEFINITION. XLANE: reductions and scans (R99, R100, R130, R131), and moves, permutations and broadcasts (R132). Each is a lane
barrier (R128), and waits in issue for registers that earlier instructions have not yet written. -/

namespace Sys2Proof.Machine

/-! ### Reductions and scans (R130, R131) -/

/-- The four reductions and the scan. -/
inductive RedOp where
  | sumO | sumF | max | min
  deriving DecidableEq, Repr

/-- The result of a segment without an active element (R130). -/
def emptySeg (op : RedOp) (t : ETy) (w : Nat) : Lane :=
  let z := List.replicate w 0
  let hi := (intRange (ETy.signed t) (ETy.bits t)).2; let lo := (intRange (ETy.signed t) (ETy.bits t)).1
  match op with
  | .sumO => ⟨0, z⟩
  | .sumF => ⟨0, z⟩
  | .max => ⟨if t.isFp then (ETy.ffmt t).sign + (ETy.ffmt t).inf else lowBits (ETy.bits t) lo, z⟩
  | .min => ⟨if t.isFp then (ETy.ffmt t).inf else lowBits (ETy.bits t) hi, z⟩

/-- acc joined with the next element (R99, R130); the flags are those of this step. -/
def redStep (op : RedOp) (t : ETy) (rm : RMode) (w : Nat) (acc x : Lane) : Res :=
  if t.isFp then
    let f := ETy.ffmt t
    match op with
    | .sumO => element f rm .add w true true acc x ⟨0, []⟩
    | .sumF => element f rm .add w true true acc x ⟨0, []⟩
    | .max => element f rm .max w true true acc x ⟨0, []⟩
    | .min => element f rm .min w true true acc x ⟨0, []⟩
  else
    let b := ETy.bits t
    match op with
    | .sumO => Res.plain ⟨(acc.val + x.val) % 2 ^ b, []⟩
    | .sumF => Res.plain ⟨(acc.val + x.val) % 2 ^ b, []⟩
    | .max => Res.plain (if asInt t acc.val < asInt t x.val then x else acc)
    | .min => Res.plain (if asInt t x.val < asInt t acc.val then x else acc)

/-- Tangent flags of two parts of a result joined; none when its value is a NaN (R105, R107). -/
def joinTan (t : ETy) (w v : Nat) (a b : List Flags) : List Flags :=
  if t.isFp && ((ETy.ffmt t).val v).isNan then [] else (List.range w).map fun i => a.getD i 0 ||| b.getD i 0

/-- A result so far joined with the next element: flags gather. -/
def redJoin (op : RedOp) (t : ETy) (rm : RMode) (w : Nat) (acc : Res) (x : Lane) : Res :=
  let r := redStep op t rm w (Res.lane acc) x
  ⟨r.val, r.tan, acc.fl ||| r.fl, joinTan t w r.val acc.tfl r.tfl⟩

/-- The first active element exactly; the slots of a NaN value are canonical NaNs (R99, R105). A signalling NaN that is the only active element
of a segment sets no NV (DESIGN CHOICE, log entry 113). -/
def redFirst (t : ETy) (w : Nat) (x : Lane) : Res :=
  if t.isFp && ((ETy.ffmt t).val x.val).isNan then ⟨x.val, List.replicate w (ETy.ffmt t).nan, 0, []⟩ else Res.plain (x.widen w)

/-- The ordered reduction of a list of elements (R99). -/
def ordered (op : RedOp) (t : ETy) (rm : RMode) (w : Nat) : List Lane → Res
  | [] => Res.plain (emptySeg op t w)
  | x :: rest => rest.foldl (redJoin op t rm w) (redFirst t w x)

/-- Two results joined, with the flags of both. -/
def joinTwo (t : ETy) (rm : RMode) (w : Nat) (a b : Res) : Res :=
  let r := redJoin .sumF t rm w a (Res.lane b)
  ⟨r.val, r.tan, r.fl ||| b.fl, joinTan t w r.val r.tfl b.tfl⟩

/-- Join the two partial sums that the tree picks, `n` times (R100). -/
def freeSum (pick : Nat → Nat) (join : Res → Res → Res) : Nat → Nat → List Res → List Res
  | 0, _, l => l
  | n + 1, j, l =>
    match l with
    | [] => []
    | [x] => [x]
    | x :: y :: rest =>
      let l := x :: y :: rest
      let i := pick j % l.length
      let l' := l.eraseIdx i
      let k := pick j / l.length % l'.length
      freeSum pick join n (j + 1) (l'.eraseIdx k ++ [join (l.getD i x) (l'.getD k y)])

/-- A free sum of a list of elements in the tree that the variant uses (R100). -/
def freeTree (pick : Nat → Nat) (t : ETy) (rm : RMode) (w : Nat) (l : List Lane) : Res :=
  match freeSum pick (joinTwo t rm w) l.length 0 (l.map (redFirst t w)) with
  | [] => Res.plain (emptySeg .sumF t w)
  | r :: _ => r

/-- The list cut into segments of `n` elements, `fuel` of them at most. -/
def segments {α : Type} (n : Nat) : Nat → List α → List (List α)
  | 0, _ => []
  | fuel + 1, l => if l.isEmpty then [] else l.take n :: segments n fuel (l.drop n)

/-- The segment length: the operand, or the whole vector (R130). -/
def segLen (p : Option VPfx) (vl : Nat) : Option (BitVec 7) → Nat
  | none => max vl 1
  | some b => (laneImm p b).toNat

/-- A result element with nothing in it. -/
def Res.zero (w : Nat) : Res := Res.plain (Lane.zero w)

/-- A reduction (R130). The mask selects source elements only (DEDUCED, log entry 9). -/
def State.reduce (s : State) (i : Instr) (p : Option VPfx) (d a : VSpec) (seg : Option (BitVec 7)) (op : RedOp) :
    Except Halt State := do
  let t := typeOf .f32 p
  let m := maskOf p
  s.vecIllegal ⟨i, p.isSome, m.mask != 0, [ETy.bytes t]⟩ false
  let w ← s.checkTags [ETy.bytes t] true [⟨1, .vec a (ETy.fmt t)⟩] (some d) none
  s.awaitSources [⟨a, trapA p, 1⟩]
  s.laneBarrier
  let la := ((s.vreg a).lanes (ETy.bits t) s.vl).zip (s.active m)
  let parts := (segments (segLen p s.vl seg) s.vl la).map fun l => l.filterMap fun x => if x.2 then some x.1 else none
  let rm := s.rmode .dyn
  let sum (n : Nat) (l : List Lane) : Res :=
    match op with
    | .sumF => freeTree (Config.sumTree s.part (Fmt.code (ETy.fmt t)).toNat s.vl (s.kBits m.mask s.vl) n) t rm w l
    | .sumO => ordered .sumO t rm w l
    | .max => ordered .max t rm w l
    | .min => ordered .min t rm w l
  let res := ((List.range parts.length).zip parts).map fun x => sum x.1 x.2
  let s' ← s.commit ⟨d, ETy.fmt t, w, .none, 0xFFFF⟩ (res ++ List.replicate (s.vl - res.length) (Res.zero w))
  .ok (s'.complete (vlen p))

/-- `vsum.o` (R130). -/
def execVsumO (p : Option VPfx) (d a : VSpec) (seg : Option (BitVec 7)) (s : State) : Host.Outcome State Fault Refusal :=
  outcome s (s.reduce (.vsumO p d a seg) p d a seg .sumO)

/-- `vsum.f` (R130): the tree is a free value. -/
def execVsumF (p : Option VPfx) (d a : VSpec) (seg : Option (BitVec 7)) (s : State) : Host.Outcome State Fault Refusal :=
  outcome s (s.reduce (.vsumF p d a seg) p d a seg .sumF)

/-- `vmaxr` (R130). -/
def execVmaxr (p : Option VPfx) (d a : VSpec) (seg : Option (BitVec 7)) (s : State) : Host.Outcome State Fault Refusal :=
  outcome s (s.reduce (.vmaxr p d a seg) p d a seg .max)

/-- `vminr` (R130). -/
def execVminr (p : Option VPfx) (d a : VSpec) (seg : Option (BitVec 7)) (s : State) : Host.Outcome State Fault Refusal :=
  outcome s (s.reduce (.vminr p d a seg) p d a seg .min)

/-- The running sums of one segment; inactive elements contribute nothing. `acc` is the sum so far, with no flags of its own. -/
def scanSeg (t : ETy) (rm : RMode) (w : Nat) : Option Res → List (Lane × Bool) → List Res
  | _, [] => []
  | acc, (_, false) :: rest => Res.zero w :: scanSeg t rm w acc rest
  | none, (x, true) :: rest => let r := redFirst t w x; r :: scanSeg t rm w (some r) rest
  | some a, (x, true) :: rest =>
    let r := redJoin .sumO t rm w ⟨a.val, a.tan, 0, []⟩ x
    r :: scanSeg t rm w (some r) rest

/-- `vscan.o` (R131). -/
def execVscanO (p : Option VPfx) (d a : VSpec) (seg : Option (BitVec 7)) (s : State) : Host.Outcome State Fault Refusal :=
  outcome s do
    let t := typeOf .f32 p
    let m := maskOf p
    s.vecIllegal ⟨.vscanO p d a seg, p.isSome, m.mask != 0, [ETy.bytes t]⟩ false
    let w := (s.vreg a).width
    let _ ← s.checkTags [ETy.bytes t] true ([⟨1, .vec a (ETy.fmt t)⟩] ++ dSource m.merges d (ETy.fmt t)) (some d) (some w)
    s.awaitSources ([⟨a, trapA p, 1⟩] ++ dReads m.merges d (trapD p))
    s.laneBarrier
    let la := ((s.vreg a).lanes (ETy.bits t) s.vl).zip (s.active m)
    let res := (segments (segLen p s.vl seg) s.vl la).flatMap (scanSeg t (s.rmode .dyn) w none)
    let s' ← s.commit ⟨d, ETy.fmt t, w, m, 0xFFFF⟩ res
    .ok (s'.complete (vlen p))

/-! ### Moves, permutations and broadcasts (R132) -/

/-- The value of a shift or index operand: an `x` register read as unsigned, or the immediate (R129, R132). -/
def State.laneArg (s : State) (p : Option VPfx) : XB → Nat
  | .vs r => (s.x r).toNat
  | .vi b => (laneImm p b).toNat

/-- Element `j` of a list of lanes below `vl`, else zero (DEDUCED, log entry 8). -/
def pickLane (l : List Lane) : Option Nat → Lane
  | none => ⟨0, []⟩
  | some j => l.getD j ⟨0, []⟩

/-- A move of lanes of a, whose bundle width the result has: element e takes the element of a that `src` gives. `extra` are further sources, `all` says that the
mask selects sources and every element is written (DEDUCED, log entry 8). -/
def State.permute (s : State) (i : Instr) (p : Option VPfx) (d a : VSpec) (widths : List Nat) (extra : List Source) (reads : List Reads)
    (all : Bool) (src : State → List (Option Nat)) : Except Halt State := do
  let t := typeOf .f32 p
  let m := maskOf p
  s.vecIllegal ⟨i, p.isSome, m.mask != 0, ETy.bytes t :: widths⟩ false
  let w ← s.checkTags (ETy.bytes t :: widths) true ([⟨1, .vec a (ETy.fmt t)⟩] ++ extra ++ dSource m.merges d (ETy.fmt t)) (some d)
    (some (s.vreg a).width)
  s.awaitSources ([⟨a, trapA p, 1⟩] ++ reads ++ dReads m.merges d (trapD p))
  s.laneBarrier
  let la := (s.vreg a).lanes (ETy.bits t) s.vl
  let res := (src s).map fun j => Res.plain ((pickLane la j).widen w)
  let s' ← s.commit ⟨d, ETy.fmt t, w, if all then .none else m, 0xFFFF⟩ res
  .ok (s'.complete (vlen p))

/-- The index when it is below `vl`. -/
def State.inVl (s : State) (j : Nat) : Option Nat := if j < s.vl then some j else none

/-- `vperm` (R132): indexes read as unsigned 32-bit elements. -/
def execVperm (p : Option VPfx) (d a b : VSpec) (s : State) : Host.Outcome State Fault Refusal :=
  outcome s (s.permute (.vperm p d a b) p d a [4] [⟨2, .plain b .i32⟩] [⟨b, trapB p, 2⟩] false fun s =>
    ((s.vreg b).lanes 32 s.vl).map fun x => s.inVl x.val)

/-- `vslideup` (R132). -/
def execVslideup (p : Option VPfx) (d a : VSpec) (b : XB) (s : State) : Host.Outcome State Fault Refusal :=
  outcome s (s.permute (.vslideup p d a b) p d a [] [] [] false fun s =>
    (List.range s.vl).map fun e => if s.laneArg p b ≤ e then some (e - s.laneArg p b) else none)

/-- `vslidedn` (R132). -/
def execVslidedn (p : Option VPfx) (d a : VSpec) (b : XB) (s : State) : Host.Outcome State Fault Refusal :=
  outcome s (s.permute (.vslidedn p d a b) p d a [] [] [] false fun s =>
    (List.range s.vl).map fun e => s.inVl (e + s.laneArg p b))

/-- `vcompress` (R132): the mask selects source elements (DEDUCED, log entry 19). -/
def execVcompress (p : Option VPfx) (d a : VSpec) (s : State) : Host.Outcome State Fault Refusal :=
  outcome s (s.permute (.vcompress p d a) p d a [] [] [] true fun s =>
    let l := activeIdx 0 (s.active (maskOf p))
    l.map some ++ List.replicate (s.vl - l.length) none)

/-- `vexpand` (R132): the active elements take a[0], a[1] and so on. -/
def execVexpand (p : Option VPfx) (d a : VSpec) (s : State) : Host.Outcome State Fault Refusal :=
  outcome s (s.permute (.vexpand p d a) p d a [] [] [] false fun s => (iota 0 (s.active (maskOf p))).map some)

/-- `vbcast` (R132). -/
def execVbcast (p : Option VPfx) (d a : VSpec) (b : XB) (s : State) : Host.Outcome State Fault Refusal :=
  outcome s (s.permute (.vbcast p d a b) p d a [] [] [] false fun s => List.replicate s.vl (s.inVl (s.laneArg p b)))

/-- `vmov` (R132). -/
def execVmov (p : Option VPfx) (d a : VSpec) (s : State) : Host.Outcome State Fault Refusal :=
  outcome s (s.permute (.vmov p d a) p d a [] [] [] false fun s => (List.range s.vl).map some)

/-- The lane that `vsplat` writes (R132, R115). -/
def State.splatLane (s : State) (p : Option VPfx) (t : ETy) (b : XB) : Lane :=
  match b with
  | .vs r => if t.isFp then (s.f r).lane t else ⟨(s.x r).toNat % 2 ^ ETy.bits t, []⟩
  | .vi i => if t.isFp then ⟨toElement t (immFloat p i), []⟩ else ⟨lowBits (ETy.bits t) (immInt p i), []⟩

/-- The `f` source of `vsplat`. -/
def splatSource (t : ETy) : XB → List Source
  | .vs r => if t.isFp then [⟨2, .flt r⟩] else []
  | .vi _ => []

/-- Bundle width of what `vsplat` writes: that of its `f` register (R115, R132). -/
def State.splatWidth (s : State) (t : ETy) : XB → Nat
  | .vs r => if t.isFp then Bundle.planes (s.f r).tag.bundle else 0
  | .vi _ => 0

/-- `vsplat` (R132). -/
def execVsplat (p : Option VPfx) (d : VSpec) (b : XB) (s : State) : Host.Outcome State Fault Refusal :=
  outcome s do
    let t := typeOf .f32 p
    let m := maskOf p
    s.vecIllegal ⟨.vsplat p d b, p.isSome, m.mask != 0, [ETy.bytes t]⟩ false
    let w ← s.checkTags [ETy.bytes t] true (splatSource t b ++ dSource m.merges d (ETy.fmt t)) (some d) (some (s.splatWidth t b))
    s.awaitSources (dReads m.merges d (trapD p))
    s.laneBarrier
    let s' ← s.commit ⟨d, ETy.fmt t, w, m, 0xFFFF⟩ (List.replicate s.vl (Res.plain ((s.splatLane p t b).widen w)))
    .ok (s'.complete (vlen p))

end Sys2Proof.Machine
end

