-- ==== Sys2Proof/Machine/Matrix.lean ====
section
/-! DEFINITION. The matrix engine (R197 to R217): the MX instructions at issue, the matrix queue with its batches, steps with their
stop points, and the delivery of its faults. -/

namespace Sys2Proof.Machine

/-! ### Types and sizes -/

/-- The element type of a type field. -/
def MxTy.ety : MxTy → ETy
  | .f32 => .f32 | .f16 => .f16 | .bf16 => .bf16 | .lns6 => .lns6

/-- Largest row count of the weight buffer (R198). -/
def MxTy.limit : MxTy → Nat
  | .f32 => 512 | .f16 => 1024 | .bf16 => 1024 | .lns6 => 2048

/-- The engine accepts a step of A's type on B's type (R199). -/
def pairOk (a b : MxTy) : Bool := b == .lns6 || a == b

/-- P of R203: bytes from one column of A to the next. -/
def columnBytes (t : MxTy) (rows : Nat) : Nat :=
  if t = .lns6 then ((rows + 31) / 32 * 25 + 7) / 8 * 8 else rows * ETy.bytes (MxTy.ety t)

/-- Bytes of a column that a step reads. -/
def columnRead (t : MxTy) (rows : Nat) : Nat := if t = .lns6 then (rows + 31) / 32 * 25 else rows * ETy.bytes (MxTy.ety t)

/-- The matrix queue of the vector state in the core changed by `f`. -/
def State.mapMx (s : State) (f : Mx → Mx) : State := s.mapVec fun c => { c with mx := f c.mx }

/-- The matrix queue of the core's vector state. -/
abbrev State.mx (s : State) : Mx := s.core.vec.mx

/-! ### Checks at issue -/

/-- Unit absent on a part without matrix engines (R76, R208), then vector-unit owned (R311). -/
def State.mxUnit (s : State) : Except Halt Unit := do
  raiseIf (!s.part.hasMx) 0x02 0x14 0
  s.needVec

/-- A pending matrix fault is delivered; the engine then holds its stop point (R207). -/
def State.mxFault (s : State) : Except Halt Unit :=
  match s.mx.fault with
  | none => .ok ()
  | some e => .error (.partly e ((s.mapMx fun m => { m with fault := none, holds := true }).mapVec fun c =>
      { c with mxprog := c.mxprog &&& ~~~2#64 }))

/-- The engine resumes from the stop point that it holds (R207). -/
def State.mxResume (s : State) : State :=
  if s.mx.holds then (s.mapMx fun m => { m with holds := false }).mapVec fun c => { c with mxprog := 0 } else s

/-- An MX instruction: the checks `pre` that come before its unit's fault, the delivery of that fault, the resumption of the
engine, which stands whatever the instruction then does, and its own entry `k` (R207). -/
def State.mxDo (s : State) (pre : Except Halt Unit) (k : State → Except Halt State) : Host.Outcome State Fault Refusal :=
  match pre with
  | .error h => outcome s (.error h)
  | .ok _ => match s.mxFault with
    | .error h => outcome s (.error h)
    | .ok _ => outcome s.mxResume (k s.mxResume)

/-- A slot of the tile store. -/
def State.slot (s : State) (t : Nat) : TileSlot := s.core.vec.tiles.toList.getD t ⟨.void, 0, 0, false⟩

/-- A tile field names the base slot of a tile (R55, R208). -/
def State.tileAt (s : State) (t : Nat) (operand : BitVec 2) : Except Halt Unit :=
  if (s.slot t).tag.fmt = .void then tagExc operand 0x03
  else if (s.slot t).base ≠ t then tagExc operand 0x07
  else .ok ()

/-- The slot belongs to a busy tile (R202). -/
def TileSlot.busy (x : TileSlot) : Bool := x.tag.fmt != .void && !x.tag.full

/-- Change slots `t` to `t + w`. -/
def State.mapSlots (s : State) (t w : Nat) (f : TileSlot → TileSlot) : State :=
  s.mapVec fun c => { c with tiles := c.tiles.mapFinIdx fun i x _ => if t ≤ i ∧ i ≤ t + w then f x else x }

/-- Engine error BADID (R208). -/
def badId (b : Bool) : Except Halt Unit := raiseIf b 0x0E 0x09 0

/-! ### The queue -/

/-- A command enters the matrix queue (R200). `via` is what `uvia` of its faults holds. -/
def State.mxEnter (s : State) (pc via : Word) (held : Option Nat) (extra : List Nat) (batch : Option (BitVec 16)) (b : MxBody) : State :=
  let (c, s) := s.newCmd .matrix batch
  s.mapMx fun m => { m with queue := m.queue ++
    [{ id := c.id, handle := s.core.me.handle, wid := s.core.me.wid, pc := pc, via := via, root := s.core.sup.ptbase, region := c.region,
       prior := extra ++ c.prior, held := held, dropped := false, body := b }] }

/-- The open batch closes, by a command that enters the queue behind its steps (R200, R201); it waits when that would exceed the depth. -/
def State.closeBatch (s : State) (pc via : Word) : Except Halt State :=
  if s.mx.opened = 0 then .ok s
  else if s.depth .matrix ≤ s.mx.closed.length then .error .sleep
  else .ok ((s.mxEnter pc via none [] (some s.mx.next) (.commit s.mx.next)).mapMx fun m =>
    { m with closed := m.closed ++ [m.next], next := m.next + 1, opened := 0 })

/-- The checks of a step at issue (R47, R214), with the bits of `bplane`: the format tags come first, those of B, operand b, before the
tile's (DEDUCED, log entry 35). Of an address that is misaligned and lies outside the scratchpad, misaligned comes first, as in R168 (DEDUCED, log
entry 120). -/
def State.stepChecks (s : State) (t : Nat) (ma k0 : Word) (d : Nat) (ty : MxTy) (free : Bool) : Except Halt MxStep := do
  let v := s.mx.view
  if !pairOk ty v.ty then tagExc 2 0x01
  s.tileAt t 0
  let w := Bundle.planes (s.slot t).tag.bundle
  let rows := s.core.vec.mxRows.toNat
  badId (decide (v.rows < k0.toNat + d) || decide (v.cols < s.core.vec.mxCols.toNat))
  badId (match v.seedOff with
    | none => false
    | some off => decide (16 < off + w))
  let p := columnBytes ty rows
  let q := if s.st.bplane = 0 then d * p else s.st.bplane.toNat
  let planes := if s.core.vec.mxImg then w else 0
  let unit := if ty = .lns6 then 8 else ETy.bytes (MxTy.ety ty)
  raiseIf (!aligned ma unit || (s.core.vec.mxImg && q % unit != 0)) 0x06 (BitVec.ofNat 8 unit) ma
  raiseIf (bits ma 48 16 != 0xF) 0x08 0x05 ma
  let last := ma.toNat - localBase + (d - 1) * p + columnRead ty rows + planes * q
  raiseIf (match findAllot s.mem.allots s.core.me.handle s.core.me.wid with
    | none => true
    | some a => decide (a.spad < last)) 0x08 0x05 ma
  .ok { tile := t, w := w, ma := ma, k0 := k0.toNat, d := d, ty := ty, free := free, bplane := s.st.bplane.toNat, batch := s.mx.next,
        index := s.mx.opened, done := 0, row := 0 }

/-- A checked step enters the open batch, which closes first when it holds 16 steps (R201), and empties its tile (R202). -/
def State.stepEnter (s : State) (st : MxStep) (pc via : Word) (held : Option Nat) (extra : List Nat) : Except Halt State := do
  let s ← if s.mx.opened = 16 then s.closeBatch pc via else .ok s
  let st := { st with batch := s.mx.next, index := s.mx.opened }
  let s := s.mxEnter pc via held extra (some st.batch) (.step st)
  .ok ((s.mapMx fun m => { m with opened := m.opened + 1, slots := m.slots ++ [⟨st.batch, st.tile, st.w⟩] }).mapSlots st.tile st.w
    fun x => { x with tag := { x.tag with full := false } })

/-- The regions of the steps of the thread's batches that are complete close, and with `all` those of its other matrix commands that have been
performed: a wait covers these too (R215, R216, R235) (DEDUCED, log entry 38). -/
def State.acquireBatches (s : State) (all : Bool) : State :=
  s.closeCmds fun r => r.queue == .matrix && s.isMe r.handle r.wid && s.performed r
    && match r.batch with
      | none => all
      | some b => !s.mx.closed.contains b && (b != s.mx.next || s.mx.opened == 0)

/-! ### The instructions (R209 to R217) -/

/-- `mx.cfg` (R210). -/
def execMxCfg (rows cols : BitVec 7) (img : Bool) (s : State) : Host.Outcome State Fault Refusal :=
  s.mxDo s.mxUnit fun s => do
    s.settleStores
    let s := s.mapVec fun c => { c with mxRows := rows.setWidth 8, mxCols := cols.setWidth 8, mxImg := img }
    .ok ((s.mxEnter s.pc s.pc none [] none (.cfg (rows.setWidth 8) (cols.setWidth 8) img)).complete 4)

/-- `mx.zero` (R211). -/
def execMxZero (t : BitVec 3) (b : BitVec 2) (s : State) : Host.Outcome State Fault Refusal :=
  s.mxDo s.mxUnit fun s => do
    let w := tileWidth b
    let old := s.core.vec.tiles.toList
    raiseIf (((old.drop t.toNat).take (w + 1)).any TileSlot.busy) 0x05 0 0
    s.settleStores
    let gone := ((old.drop t.toNat).take (w + 1)).filterMap fun x => if x.tag.fmt = .void then none else some x.base
    let s := s.mapVec fun c => { c with tiles := c.tiles.map fun x => if gone.contains x.base ∧ x.tag.fmt ≠ .void then { x with tag := .void } else x }
    let s := s.mapSlots t.toNat w fun x => { x with tag := { Tag.of .f32 w with full := false }, base := t.toNat }
    .ok ((s.mxEnter s.pc s.pc none [] none (.zero t.toNat w)).complete 4)

/-- `mx.ldw` (R212). -/
def execMxLdw (k b x : Reg) (t : MxTy) (s : State) : Host.Outcome State Fault Refusal :=
  s.mxDo s.mxUnit fun s => do
    let n := (s.x k).toNat
    badId (n == 0 || decide (MxTy.limit t < n))
    s.settleStores
    let cols := s.core.vec.mxCols.toNat
    let s' := s.mxEnter s.pc s.pc none [] none (.ldw n (s.x b) (s.x x) t cols)
    .ok ((s'.mapMx fun m => { m with view := ⟨t, n, cols, none⟩ }).complete 4)

/-- `mx.seedw` (R213). -/
def execMxSeedw (j : Reg) (off : BitVec 4) (s : State) : Host.Outcome State Fault Refusal :=
  s.mxDo s.mxUnit fun s => do
    s.settleStores
    let seed : Seed := { dkey := s.st.dkey, dstep := s.st.dstep, sigma := bits s.st.dsig 0 32, jbase := s.x j, off := off.toNat }
    let s' := s.mxEnter s.pc s.pc none [] none (.seedw (some seed))
    .ok ((s'.mapMx fun m => { m with view := { m.view with seedOff := some off.toNat } }).complete 4)

/-- `mx.seedw.clr` (R213). -/
def execMxSeedwClr (s : State) : Host.Outcome State Fault Refusal :=
  s.mxDo s.mxUnit fun s => do
    s.settleStores
    let s' := s.mxEnter s.pc s.pc none [] none (.seedw none)
    .ok ((s'.mapMx fun m => { m with view := { m.view with seedOff := none } }).complete 4)

/-- A step instruction (R214). -/
def State.mxStep (s : State) (i : Instr) (t : BitVec 3) (a : Reg) (k : BitVec 4) (d : BitVec 7) (ty : MxTy) (free : Bool) :
    Host.Outcome State Fault Refusal :=
  s.mxDo (do s.mxUnit; s.illegalIf i (ty == .lns6 && s.core.vec.mxImg) 0x06) fun s => do
    let st ← s.stepChecks t.toNat (s.x a) (s.x (k.setWidth 5)) d.toNat ty free
    s.settleStores
    let s ← s.stepEnter st s.pc s.pc none []
    .ok (s.complete 4)

/-- `mx.step` (R214). -/
def execMxStep (t : BitVec 3) (a : Reg) (k : BitVec 4) (d : BitVec 7) (ty : MxTy) (s : State) : Host.Outcome State Fault Refusal :=
  s.mxStep (.mxStep t a k d ty) t a k d ty false

/-- `mx.stepf` (R214). -/
def execMxStepf (t : BitVec 3) (a : Reg) (k : BitVec 4) (d : BitVec 7) (ty : MxTy) (s : State) : Host.Outcome State Fault Refusal :=
  s.mxStep (.mxStepf t a k d ty) t a k d ty true

/-- `mx.commit` (R200, R201, R215): with no open step it does nothing. -/
def execMxCommit (s : State) : Host.Outcome State Fault Refusal :=
  s.mxDo s.mxUnit fun s =>
    if s.mx.opened = 0 then .ok (s.complete 4)
    else do
      s.settleStores
      let s ← s.closeBatch s.pc s.pc
      .ok (s.complete 4)

/-- `mx.wait` (R215). -/
def execMxWait (n : BitVec 5) (s : State) : Host.Outcome State Fault Refusal :=
  s.mxDo s.mxUnit fun s => do
    if n.toNat < s.mx.closed.length then .error .sleep
    else
      let s := (s.acquireBatches true).sync
      match s.myFail (· == .matrix) with
      | some f => .error (.partly f.exc (s.unfail f))
      | none => .ok (s.complete 4)

/-- An element of a slot: row `r`, column `c`. -/
def TileSlot.at (x : TileSlot) (r c : Nat) : Nat := elem 32 x.data (96 * r + c)

/-- Data of a slot with row `r` starting with the elements of `l`. -/
def TileSlot.putRow (x : TileSlot) (r : Nat) (l : List Nat) : TileSlot :=
  let sh := 32 * 96 * r
  let keep := x.data >>> (sh + 32 * l.length)
  { x with data := x.data % 2 ^ sh + 2 ^ sh * (pack 32 l 0 + 2 ^ (32 * l.length) * keep) }

/-- The lane that `mx.rd` reads at column `e`: +0.0 from the active columns up (R216). -/
def State.tileLane (s : State) (t w r cols e : Nat) : Lane :=
  if e < cols then ⟨(s.slot t).at r e, (List.range w).map fun i => (s.slot (t + 1 + i)).at r e⟩ else Lane.zero w

/-- `mx.rd` (R216). The tile, operand 1, brings the result's bundle width (R48). -/
def execMxRd (v : VSpec) (t : BitVec 3) (ta : Bool) (r : Reg) (s : State) : Host.Outcome State Fault Refusal :=
  s.mxDo (do s.mxUnit; s.vecIllegal ⟨.mxRd v t ta r, false, false, [4]⟩ false) fun s => do
    s.tileAt t.toNat 1
    let w := Bundle.planes (s.slot t.toNat).tag.bundle
    if !VSpec.isO v && decide (s.planes < w) then tagExc 1 0x05
    s.checkDest (oCapacity [4]) w v
    badId (decide (s.core.vec.mxRows.toNat ≤ (s.x r).toNat))
    if (s.slot t.toNat).busy then (if ta then raise 0x04 1 else .error .wait)
    raiseIf (((s.core.vec.tiles.toList.drop t.toNat).take (w + 1)).any (·.bad)) 0x11 0x03 0
    s.awaitDest v
    let s := (s.acquireBatches false).sync
    let cols := s.core.vec.mxCols.toNat
    let lanes := (List.range s.vl).map (s.tileLane t.toNat w (s.x r).toNat cols)
    let hurt := spoiled .f32 0xFFFF (lanes.take cols) w
    let s' := (s.setVreg v ((s.vreg v).write (Tag.of .f32 w) 32 w lanes)).mapSt fun q => { q with dhealth := q.dhealth ||| hurt }
    .ok (s'.complete 4)

/-- `mx.wr` (R217): va, operand 1, is checked before the tile, operand 0 (R47, R208); a width of va that differs from that of the tile to which
the slot belongs counts against va (DESIGN CHOICE, log entry 93). Slots that are written hold no parity error any more (R292). -/
def execMxWr (t : BitVec 3) (v : VSpec) (r : Reg) (ta : Bool) (s : State) : Host.Outcome State Fault Refusal :=
  s.mxDo (do s.mxUnit; s.vecIllegal ⟨.mxWr t v r ta, false, false, [4]⟩ false) fun s => do
    let b ← s.checkSources (oCapacity [4]) true none 0 [⟨1, .vec v .f32⟩]
    let w := Bundle.planes (s.slot t.toNat).tag.bundle
    if (s.slot t.toNat).tag.fmt != .void && b != 0 && b != w then tagExc 1 0x02
    s.tileAt t.toNat 0
    badId (decide (s.core.vec.mxRows.toNat ≤ (s.x r).toNat))
    raiseIf (((s.core.vec.tiles.toList.drop t.toNat).take (w + 1)).any TileSlot.busy) 0x05 0 0
    s.awaitSources [⟨v, ta, 1⟩]
    let lanes := ((s.vreg v).lanes 32 (min s.vl s.core.vec.mxCols.toNat))
    let put (i : Nat) (x : TileSlot) : TileSlot := x.putRow (s.x r).toNat (lanes.map fun l => if i = 0 then l.val else l.slot (i - 1))
    let s' := s.mapVec fun c => { c with tiles := c.tiles.mapFinIdx fun i x _ =>
      if t.toNat ≤ i ∧ i ≤ t.toNat + w then { put (i - t.toNat) x with bad := false } else x }
    .ok (s'.complete 4)

/-! ### Performing commands (R200 to R207) -/

/-- The innkeeper of the active core handles a pre-emption of the resident thread (R307, R308). -/
def State.preempted (s : State) : Bool :=
  s.core.sup.mode == .supervisor && bits s.core.sup.scause 62 2 == 3 && bits s.core.sup.scause 8 8 == 0x18

/-- The vector state in the core belongs to the resident thread, or to one that sleeps while it is switched out: the engine stops
when its thread is pre-empted (R206, R308, R309) (DEDUCED, log entry 37). -/
def State.mxRuns (s : State) : Bool :=
  (s.core.sup.vown == s.core.me.image && !s.preempted) || s.sched.swapped.any fun x => x.me.image == s.core.sup.vown && x.asleep

/-- The command at the head of the matrix queue, when the engine may perform it. -/
def State.mxHead (s : State) : Option MxCmd :=
  match s.mx.queue with
  | [] => none
  | c :: _ =>
    if s.mxRuns && !s.mx.stands && (c.held.isNone || c.dropped) && !s.fenced c.id then some c else none

/-- The head of the queue has been performed. -/
def State.mxPop (s : State) : State := s.mapMx fun m => { m with queue := m.queue.drop 1 }

/-- A tile becomes full unless a command still to come empties it (R202). -/
def State.mxFill (s : State) (base w : Nat) : State :=
  if s.mx.slots.any (fun x => x.base == base) || s.mx.queue.any (fun c => match c.body with
      | .zero b _ => b == base
      | .cfg _ _ _ => false
      | .ldw _ _ _ _ _ => false
      | .seedw _ => false
      | .step _ => false
      | .commit _ => false) then s
  else s.mapSlots base w fun x => { x with tag := { x.tag with full := true } }

/-- The stop point of a step in the fields of `mxprog` (R206). -/
def MxStep.progress (st : MxStep) : Word := (st.batch.setWidth 64 <<< 48) ||| word (st.index * 2 ^ 44 + st.done * 2 ^ 24 + st.row * 2 ^ 10)

/-- The engine stops with a fault before the command at the head, or at a stop point of its step (R206, R207). -/
def State.mxStop (s : State) (c : MxCmd) (e : Exc) : State :=
  let at' : Word := match c.body with
    | .step st => st.progress
    | .cfg _ _ _ => 0
    | .zero _ _ => 0
    | .ldw _ _ _ _ _ => 0
    | .seedw _ => 0
    | .commit _ => 0
  (s.mapMx fun m => { m with fault := some { e with via := c.via } }).mapVec fun v => { v with mxprog := at' ||| 3 }

/-- MX_CFG_PERFORM (R210). -/
def execMxCfgPerform (s : State) : Host.Outcome State Fault Refusal :=
  match s.mxHead with
  | some { body := .cfg r c img, .. } => .next (s.mxPop.mapMx fun m => { m with rows := r.toNat, cols := c.toNat, img := img })
  | _ => .next s

/-- MX_ZERO_PERFORM (R211). -/
def execMxZeroPerform (s : State) : Host.Outcome State Fault Refusal :=
  match s.mxHead with
  | some { body := .zero base w, .. } => .next ((s.mxPop.mapSlots base w fun x => { x with data := 0, bad := false }).mxFill base w)
  | _ => .next s

/-- The agent and the addresses of a matrix command. -/
def State.mxAgent (s : State) (c : MxCmd) : Agent := s.cmdAgent .matrix s.core.id c.pc c.region c.prior

/-- One aligned read of a matrix command: the value and the memories after it. -/
def State.mxRead (s : State) (c : MxCmd) (m : Mem) (va : Word) (n : Nat) : Except CmdHalt (Nat × Mem) :=
  if !aligned va n then .error (.failed ⟨0x06, BitVec.ofNat 8 n, va, 0⟩)
  else ({ s with mem := m } : State).cmdRead (cmdSpace c.root c.handle c.wid) (s.mxAgent c) va n

/-- `n` elements of `w` bytes from `va` up, as one number, first element lowest. -/
def State.mxLoad (s : State) (c : MxCmd) (w : Nat) (va : Word) : Nat → Mem → Except CmdHalt (Nat × Mem)
  | 0, m => .ok (0, m)
  | n + 1, m =>
    match s.mxRead c m va w with
    | .error e => .error e
    | .ok (v, m) => match s.mxLoad c w (va + word w) n m with
      | .error e => .error e
      | .ok (rest, m) => .ok (v + 2 ^ (8 * w) * rest, m)

/-- The data and scales of B as `mx.ldw` reads them (R212). -/
def State.mxLoadB (s : State) (c : MxCmd) (k : Nat) (b x : Word) (t : MxTy) (cols : Nat) : Except CmdHalt (Nat × Nat × Mem) :=
  if t = .lns6 then
    let g := (k * cols + 31) / 32
    match s.mxLoad c 8 b (3 * g) s.mem with
    | .error e => .error e
    | .ok (data, m) => match s.mxLoad c 1 x g m with
      | .error e => .error e
      | .ok (scales, m) => .ok (data, scales, m)
  else match s.mxLoad c (ETy.bytes (MxTy.ety t)) b (k * cols) s.mem with
    | .error e => .error e
    | .ok (data, m) => .ok (data, 0, m)

/-- MX_LDW_PERFORM (R212). -/
def execMxLdwPerform (s : State) : Host.Outcome State Fault Refusal :=
  match s.mxHead with
  | some c => match c.body with
    | .ldw k b x t cols => match s.mxLoadB c k b x t cols with
      | .error (.await t) => .next t
      | .error (.failed e) => .next ((s.mxStop c e).dropFar c.handle c.wid (some c.region))
      | .ok (data, scales, m) => .next (((({ s with mem := m } : State).dropFar c.handle c.wid (some c.region)).mxPop).mapMx fun q =>
          { q with buf := { ty := t, rows := k, cols := cols, data := data, scales := scales, seed := none, bad := false } })
    | .cfg _ _ _ => .next s
    | .zero _ _ => .next s
    | .seedw _ => .next s
    | .step _ => .next s
    | .commit _ => .next s
  | none => .next s

/-- MX_SEEDW_PERFORM (R213). -/
def execMxSeedwPerform (s : State) : Host.Outcome State Fault Refusal :=
  match s.mxHead with
  | some { body := .seedw q, .. } => .next (s.mxPop.mapMx fun m => { m with buf := { m.buf with seed := q } })
  | _ => .next s

/-- A factor of a product: a linear value, or an LNS6 code with its scale. -/
inductive MxNum where
  | lin (v : FVal)
  | lns (scale code : Nat)
  deriving DecidableEq, Repr

/-- The value of a factor that meets a linear one (R95, R96). -/
def MxNum.val : MxNum → FVal
  | .lin v => v
  | .lns e c => FFmt.f32.val (lnsDecode e c)

/-- AddProduct of R205: one rounding, RNE, no flag. -/
def addProduct (x : Nat) (p q : MxNum) : Nat :=
  match p, q with
  | .lns ea ca, .lns eb cb => (addVal .f32 .rne (FFmt.f32.val x) (lnsProduct ea ca eb cb)).1
  | _, _ => (fmaVal .f32 .rne (FFmt.f32.val x) p.val q.val).1

/-- A product rounded once to FP32 (R103). -/
def roundedProduct (p q : MxNum) : Nat :=
  match p, q with
  | .lns ea ca, .lns eb cb => (roundVal .f32 .rne (lnsProduct ea ca eb cb)).1
  | _, _ => (mulVal .f32 .rne p.val q.val).1

/-- Element (k, n) of the weight buffer. -/
def WBuf.at (b : WBuf) (k n : Nat) : MxNum :=
  let e := k * b.cols + n
  match b.ty with
  | .lns6 => .lns (elem 8 b.scales (e / 32)) (elem 6 (elem 192 b.data (e / 32)) (e % 32))
  | .f32 => .lin (FFmt.f32.val (elem 32 b.data e))
  | .f16 => .lin (FFmt.f16.val (elem 16 b.data e))
  | .bf16 => .lin (FFmt.bf16.val (elem 16 b.data e))

/-- dB of R204. -/
def WBuf.tangent (b : WBuf) (i k n : Nat) : MxNum :=
  match b.seed with
  | none => .lin (FFmt.f32.val 0)
  | some q =>
    let neg := dirNeg (bits q.dkey 0 32) (bits q.dstep 0 32) (bits q.dkey 32 32) (q.off + i) (q.jbase + word (k * b.cols + n))
    let t : ETy := match b.ty with
      | .f16 => .f16 | .bf16 => .bf16 | .f32 => .f32 | .lns6 => .f32
    .lin ((ETy.ffmt t).val (seedTangent t q.sigma neg))

/-- Address of column `j` of a step, plane `p` (R203). -/
def MxStep.column (st : MxStep) (rows j p : Nat) : Word :=
  let size := columnBytes st.ty rows
  st.ma + word (j * size + p * (if st.bplane = 0 then st.d * size else st.bplane))

/-- A(r, k) in plane `p`, read by the engine. -/
def State.mxA (s : State) (c : MxCmd) (st : MxStep) (rows j p r : Nat) (m : Mem) : Except CmdHalt (MxNum × Mem) :=
  let col := st.column rows j p
  match st.ty with
  | .lns6 =>
    match s.mxLoad c 8 (col + word (24 * (r / 32))) 3 m with
    | .error e => .error e
    | .ok (g, m) => match s.mxRead c m (col + word ((rows + 31) / 32 * 24 + r / 32)) 1 with
      | .error e => .error e
      | .ok (scale, m) => .ok (.lns scale (elem 6 g (r % 32)), m)
  | .f32 => (s.mxRead c m (col + word (4 * r)) 4).map fun x => (.lin (FFmt.f32.val x.1), x.2)
  | .f16 => (s.mxRead c m (col + word (2 * r)) 2).map fun x => (.lin (FFmt.f16.val x.1), x.2)
  | .bf16 => (s.mxRead c m (col + word (2 * r)) 2).map fun x => (.lin (FFmt.bf16.val x.1), x.2)

/-- The tangent planes of A(r, k) below `w`, or +0.0 in each when the step reads none. -/
def State.mxDa (s : State) (c : MxCmd) (st : MxStep) (rows j r : Nat) : Nat → Mem → Except CmdHalt (List MxNum × Mem)
  | 0, m => .ok ([], m)
  | n + 1, m =>
    match s.mxDa c st rows j r n m with
    | .error e => .error e
    | .ok (l, m) =>
      if s.mx.img then match s.mxA c st rows j (n + 1) r m with
        | .error e => .error e
        | .ok (x, m) => .ok (l ++ [x], m)
      else .ok (l ++ [.lin (FFmt.f32.val 0)], m)

/-- One element of a rank-one update: the value and the slots (R205). -/
def mxElement (b : WBuf) (k n : Nat) (a : MxNum) (da : List MxNum) (acc : Nat) (t : List Nat) : Nat × List Nat :=
  let acc' := addProduct acc a (b.at k n)
  let t' := ((List.range t.length).zip (t.zip da)).map fun x =>
    addProduct (addProduct x.2.1 x.2.2 (b.at k n)) a (b.tangent x.1 k n)
  (acc', if (FFmt.f32.val acc').isNan then t'.map fun _ => FFmt.f32.nan else t')

/-- Row `r` of the slots of a step's tile takes new values and slots. -/
def State.putCells (s : State) (st : MxStep) (r : Nat) (cells : List (Nat × List Nat)) : State :=
  let put (i : Nat) (x : TileSlot) : TileSlot :=
    if st.tile ≤ i ∧ i ≤ st.tile + st.w then
      x.putRow r (cells.map fun y => if i = st.tile then y.1 else y.2.getD (i - st.tile - 1) 0)
    else x
  s.mapVec fun c => { c with tiles := c.tiles.mapFinIdx fun i x _ => put i x }

/-- Row `r` of update `j`: the tile after it. -/
def State.mxRowUpdate (s : State) (st : MxStep) (j r : Nat) (a : MxNum) (da : List MxNum) : State :=
  let b := s.mx.buf
  let cells := (List.range s.mx.cols).map fun n =>
    mxElement b (st.k0 + j) n a da ((s.slot st.tile).at r n) ((List.range st.w).map fun i => (s.slot (st.tile + 1 + i)).at r n)
  s.putCells st r cells

/-- What a read of the weight buffer or of the tile's slots meets (R290). -/
def State.mxParity (s : State) (st : MxStep) : Option Exc :=
  if s.mx.buf.bad then some ⟨0x11, 0x04, 0, 0⟩
  else if ((s.core.vec.tiles.toList.drop st.tile).take (st.w + 1)).any (·.bad) then some ⟨0x11, 0x03, 0, 0⟩
  else none

/-- The step at the head of the queue stands at a stop point. -/
def State.mxAt (s : State) (c : MxCmd) (st : MxStep) : State :=
  s.mapMx fun m => { m with queue := { c with body := .step st } :: m.queue.drop 1 }

/-- A step does not go on from a stop point: a fault stops the engine there, or it awaits an answer. -/
def State.mxHalt (s : State) (c : MxCmd) (st : MxStep) : CmdHalt → State
  | .failed e => (s.mxAt c st).mxStop { c with body := .step st } e
  | .await t => t.mxAt c st

/-- The rows of an ordered step from its stop point on, `fuel` of them at most; a fault stops it (R205, R206). -/
def State.mxRows (s : State) (c : MxCmd) : Nat → MxStep → State
  | 0, st => s.mxAt c st
  | fuel + 1, st =>
    if st.d ≤ st.done then s.mxPop
    else
      match s.mxParity st with
      | some e => s.mxHalt c st (.failed e)
      | none => match s.mxA c st s.mx.rows st.done 0 st.row s.mem with
        | .error e => s.mxHalt c st e
        | .ok (a, m) => match s.mxDa c st s.mx.rows st.done st.row st.w m with
          | .error e => s.mxHalt c st e
          | .ok (da, m) =>
            let s' := ({ s with mem := m } : State).mxRowUpdate st st.done st.row a da
            let next := if st.row + 1 < s.mx.rows then { st with row := st.row + 1 } else { st with row := 0, done := st.done + 1 }
            if st.d ≤ next.done then s'.mxPop else s'.mxRows c fuel next

/-- All of A that a step reads in row `r`: one entry for each update. -/
def State.mxReadRow (s : State) (c : MxCmd) (st : MxStep) (r : Nat) : Nat → Mem → Except CmdHalt (List (MxNum × List MxNum) × Mem)
  | 0, m => .ok ([], m)
  | n + 1, m =>
    match s.mxReadRow c st r n m with
    | .error e => .error e
    | .ok (l, m) => match s.mxA c st s.mx.rows n 0 r m with
      | .error e => .error e
      | .ok (a, m) => match s.mxDa c st s.mx.rows n r st.w m with
        | .error e => .error e
        | .ok (da, m) => .ok (l ++ [(a, da)], m)

/-- A value of the set of R103: the sum of its leaves in the tree that the variant uses. -/
def State.mxTree (s : State) (st : MxStep) (r n slot : Nat) (leaves : List Nat) : Nat :=
  let code (t : MxTy) : Nat := (MxTy.code t).toNat
  let pick := Config.stepTree s.part (4 * code st.ty + code s.mx.buf.ty) (128 * s.mx.rows + s.mx.cols) st.d st.w ((96 * r + n) * 8 + slot)
  (freeTree pick .f32 .rne 0 (leaves.map fun v => ⟨v, []⟩)).val

/-- Row `r` of a free step (R103). -/
def State.mxFreeRow (s : State) (st : MxStep) (r : Nat) (l : List (MxNum × List MxNum)) : State :=
  let b := s.mx.buf
  let ks := (List.range st.d).zip l
  let cell (n : Nat) : Nat × List Nat :=
    let v := s.mxTree st r n 0 ((s.slot st.tile).at r n :: ks.map fun x => roundedProduct x.2.1 (b.at (st.k0 + x.1) n))
    let t := (List.range st.w).map fun i => s.mxTree st r n (i + 1) ((s.slot (st.tile + 1 + i)).at r n :: ks.flatMap fun x =>
      [roundedProduct (x.2.2.getD i (.lin (FFmt.f32.val 0))) (b.at (st.k0 + x.1) n), roundedProduct x.2.1 (b.tangent i (st.k0 + x.1) n)])
    (v, if (FFmt.f32.val v).isNan then t.map fun _ => FFmt.f32.nan else t)
  let cells := (List.range s.mx.cols).map cell
  s.putCells st r cells

/-- The rows of a free step from its stop point on, `fuel` of them at most: a row takes all of its updates at once, and the step stops between
two rows (R103, R206) (DESIGN CHOICE, log entry 36). -/
def State.mxFree (s : State) (c : MxCmd) : Nat → MxStep → State
  | 0, st => s.mxAt c st
  | fuel + 1, st =>
    if s.mx.rows ≤ st.row then s.mxPop
    else
      match s.mxParity st with
      | some e => s.mxHalt c st (.failed e)
      | none => match s.mxReadRow c st st.row st.d s.mem with
        | .error e => s.mxHalt c st e
        | .ok (l, m) =>
          let s' := ({ s with mem := m } : State).mxFreeRow st st.row l
          let next := { st with row := st.row + 1 }
          if s.mx.rows ≤ next.row then s'.mxPop else s'.mxFree c fuel next

/-- Stop points that the step may still pass in this move: those up to the one that a pre-emption stops it at, else all
(DESIGN CHOICE, log entry 81). -/
def State.stopFuel (s : State) (st : MxStep) : Nat :=
  match s.choice with
  | .stop (some n) => if s.core.request.isSome then n - (st.done * s.mx.rows + st.row) else st.d * s.mx.rows
  | _ => st.d * s.mx.rows

/-- MX_STEP_PERFORM (R205). -/
def execMxStepPerform (s : State) : Host.Outcome State Fault Refusal :=
  match s.mxHead with
  | some c => match c.body with
    | .step st =>
      if c.dropped then .next s.mxPop
      else
        let s := s.mapVec fun v => { v with mxprog := 0 }
        let s' := if st.free then s.mxFree c (s.stopFuel st) st else s.mxRows c (s.stopFuel st) st
        .next (match s'.mxHead with
          | some { id := n, body := .step q, .. } =>
            if n = c.id then s'.mapVec fun v => { v with mxprog := q.progress ||| 1 } else s'
          | _ => s')
    | .cfg _ _ _ => .next s
    | .zero _ _ => .next s
    | .ldw _ _ _ _ _ => .next s
    | .seedw _ => .next s
    | .commit _ => .next s
  | none => .next s

/-- BATCH_COMPLETE (R201, R202): the command that closed the earliest batch is next in the queue, so that all its steps have been
performed. -/
def execBatchComplete (s : State) : Host.Outcome State Fault Refusal :=
  match s.mxHead with
  | some { body := .commit b, .. } =>
    let mine := s.mx.slots.filter fun x => x.batch == b
    let s := s.mxPop.mapMx fun m => { m with closed := m.closed.erase b, slots := m.slots.filter fun x => x.batch != b }
    .next (mine.foldl (fun s x => s.mxFill x.base x.w) s)
  | _ => .next s

end Sys2Proof.Machine
end

