-- ==== Sys2Proof/Machine/Copy.lean ====
section
/-! DEFINITION. The copy engine: waybills (R218 to R223), the CP instructions with the queue fences (R224 to R226), and barrier objects
as the engines reach them (R257, R258, R263). -/

namespace Sys2Proof.Machine

/-! ### Records in memory -/

/-- The `n` units of 8 bytes from `va` up as the resident thread reads them: checks of R168 in ascending order, then errors in data. -/
def State.readUnits (s : State) (va : Word) : Nat → Except Halt (List Byte × State)
  | 0 => .ok ([], s)
  | n + 1 => do
    let l ← s.locate va 8 .load
    s.awaitChain l 8
    let r ← match l with
      | .fabric win _ => (s.farLoad .weak win va 8).map fun v => (v, s.mem)
      | l => liftE (loadLoc s.part s.mem (s.agent false .core) l 8 va)
    let s' := ({ s with mem := r.2 } : State).touch va
    let rest ← s'.readUnits (va + 8) n
    .ok (bytesOf r.1 8 ++ rest.1, rest.2)

/-- A field of a record: `n` bytes at an offset, little-endian. -/
def field (l : List Byte) (off n : Nat) : Nat := valueOfBytes ((l.drop off).take n)

/-- A field of 8 bytes. -/
def field8 (l : List Byte) (off : Nat) : Word := word (field l off 8)

/-! ### Barrier objects (R257 to R263) -/

/-- An address in one of the scratchpad windows (R162, R259). -/
def inSpadWindow (va : Word) : Bool := bits va 48 16 == 0xE || bits va 48 16 == 0xF

/-- The scope of a barrier mark on a scratchpad word (R258). -/
def markAt (m : Mem) (k : Nat) : Option Scope := (m.marks.find? fun x => x.1 == k / 8).map (·.2)

/-- The object's place at `va`, in the order of R168: alignment, translation, where a fabric window is unit absent on the AMK-2048-L (R9, R76), then
the windows and the allotment (R259). -/
def State.barPlace (s : State) (va : Word) (k : Access) : Except Halt Nat := do
  raiseIf (!aligned va 8) 0x06 8 va
  match Machine.locate s.part s.mem s.space va 8 k with
  | .ok (.spad a) => .ok a
  | .ok _ => raiseAt 0x08 0x07 va
  | .error e => if e.cls = 0x02 ∨ e.cls = 0x07 ∨ inSpadWindow va then .error (.exc e) else raiseAt 0x08 0x07 va

/-- The object's place for `cp.nd`, in the order of R219: windows, alignment, allotment. -/
def State.wbBarPlace (s : State) (va : Word) : Except Halt Nat := do
  raiseIf (!inSpadWindow va) 0x08 0x07 va
  s.barPlace va .load

/-- The word after one arrival (R261). -/
def arriveWord (w : Word) : Word :=
  let pending := bits w 16 16 - 1
  if pending = 0 then bits w 48 16 ++ bits w 32 16 ++ bits w 32 16 ++ (bits w 1 15 + 1) ++ ~~~(bits w 0 1)
  else bits w 48 16 ++ bits w 32 16 ++ pending ++ bits w 0 16

/-- Write an object: its mark stays (R258), and publications of the word stay (R231). -/
def putObject (m : Mem) (k : Nat) (w : Word) : Mem := { rmwLoc m (.spad k) 8 w.toNat with marks := m.marks }

/-- The mark of an object, or NOBAR (R259). -/
def State.barScope (s : State) (k : Nat) : Except Halt Scope :=
  match markAt s.mem k with
  | none => raise 0x0E 0x0D
  | some sc => .ok sc

/-- The word of an object as agent `a` meets it: races, then errors in data (R238, R292). -/
def barWordOf (part : Part) (m : Mem) (a : Agent) (k : Nat) (write : Bool) (va : Word) : Except Exc Word :=
  match raceCheck part m a write (.spad k) 8 va with
  | .error e => .error e
  | .ok _ => match badAt m (.spad k) with
    | some d => .error ⟨0x11, d, va, 0⟩
    | none => .ok (word (readLoc m (.spad k) 8))

/-- The word of an object, read or changed by the thread with the strength of a scope. -/
def State.barWord (s : State) (k : Nat) (write : Bool) (sc : Scope) (va : Word) : Except Halt Word :=
  liftE (barWordOf s.part s.mem (s.agent true sc) k write va)

/-! ### Waybills (R218) -/

/-- The dimensions of a waybill. -/
def wbDims (l : List Byte) : Nat → List WbDim
  | 0 => []
  | n + 1 => wbDims l n ++ [⟨field l (0x60 + 24 * n) 4, field8 l (0x68 + 24 * n), field8 l (0x70 + 24 * n)⟩]

/-- The waybill that some bytes hold. -/
def parseWaybill (l : List Byte) : Waybill :=
  let fl := field l 0x11 1
  { src := field8 l 0, dst := field8 l 8, esize := field l 0x10 1, dims := wbDims l (field l 0x12 1)
    scope := scope (BitVec.ofNat 2 (field l 0x13 1)), planes := if fl % 2 = 1 then field l 0x14 1 else 1
    psrc := field8 l 0x18, pdst := field8 l 0x20, done := field8 l 0x28, doneval := field8 l 0x30
    bar := if fl / 2 % 2 = 1 then some (field8 l 0x38) else none
    mx := if fl / 4 % 2 = 1 then some (BitVec.ofNat 32 (field l 0x40 4)) else none
    ma := field8 l 0x48, k0 := field8 l 0x50 }

/-- A limit of R218 or a reserved field (R4) is broken. -/
def waybillBad (l : List Byte) : Bool :=
  let fl := field l 0x11 1; let n := field l 0x12 1
  !([1, 2, 4, 8].contains (field l 0x10 1)) || fl / 8 != 0 || n == 0 || decide (12 < n) || field l 0x13 1 / 4 != 0
    || (if fl % 2 = 1 then field l 0x14 1 == 0 || decide (17 < field l 0x14 1)
        else field l 0x14 1 != 0 || field l 0x18 8 != 0 || field l 0x20 8 != 0)
    || field l 0x15 3 != 0 || field l 0x28 8 % 8 != 0 || field l 0x30 8 / 2 ^ 63 != 0
    || ((field l 0x38 8 != 0) != (fl / 2 % 2 == 1)) || (fl / 4 % 2 == 0 && field l 0x40 4 != 0) || field l 0x44 4 != 0 || field l 0x58 8 != 0
    || (List.range n).any fun i => field l (0x60 + 24 * i) 4 == 0 || field l (0x64 + 24 * i) 4 != 0

/-- The step that a follow-on word is: its a and k fields are 0 (R218). -/
def followStep (w : Word32) : Option (BitVec 3 × BitVec 7 × MxTy × Bool) :=
  match decode w 0 with
  | .ok (.mxStep t a k d ty) => if a = 0 ∧ k = 0 then some (t, d, ty, false) else none
  | .ok (.mxStepf t a k d ty) => if a = 0 ∧ k = 0 then some (t, d, ty, true) else none
  | _ => none

/-- BADWB (R219). -/
def badWb {α : Type} : Except Halt α := raise 0x0E 0x0A

/-- The follow-on of a waybill, checked as a step that issues now (R219). -/
def State.followChecks (s : State) (wb : Waybill) : Except Halt (Option MxStep) :=
  match wb.mx with
  | none => .ok none
  | some w => match followStep w with
    | none => badWb
    | some (t, d, ty, free) =>
      if ty = .lns6 ∧ s.core.vec.mxImg then badWb
      else match s.stepChecks t.toNat wb.ma wb.k0 d.toNat ty free with
        | .ok st => .ok (some st)
        | .error _ => badWb

/-- The generation of the waybill's barrier object (R219, R222), by a strong read of the thread at the object's scope (DESIGN CHOICE, log
entry 42). -/
def State.captureGen (s : State) (wb : Waybill) : Except Halt (BitVec 16 × State) :=
  match wb.bar with
  | none => .ok (0, s)
  | some va => do
    let k ← s.wbBarPlace va
    let sc ← s.barScope k
    let w ← s.barWord k false sc va
    .ok (bits w 48 16, s.mapMem fun m => noteAccess m (s.agent true sc) false (.spad k) 8)

/-- A command enters the copy queue. -/
def State.copyEnter (s : State) (c : NewCmd) (addr : Word) (lin : Bool) (wb : Waybill) (gen : BitVec 16) : State :=
  s.mapCore fun k => { k with copy := k.copy ++
    [{ id := c.id, handle := s.core.me.handle, wid := s.core.me.wid, pc := s.pc, addr := addr, root := s.core.sup.ptbase, region := c.region,
       prior := c.prior, lin := lin, wb := wb, gen := gen, started := false, count := 0, failed := none, before := [] }] }

/-- The bytes of the waybill at `va` (R219). -/
def State.readWaybill (s : State) (va : Word) : Except Halt (List Byte × State) := do
  raiseIf (!aligned va 32) 0x06 32 va
  raiseIf (bits va 48 16 != 0xF) 0x08 0x05 va
  let h ← s.readUnits va 12
  let n := field h.1 0x12 1
  if 12 < n then .ok h
  else do
    let d ← h.2.readUnits (va + 96) (3 * n)
    .ok (h.1 ++ d.1, d.2)

/-- `cp.nd` (R219, R223). -/
def execCpNd (w : Reg) (s : State) : Host.Outcome State Fault Refusal :=
  outcome s do
    let va := s.x w
    let r ← s.readWaybill va
    let s := r.2
    let l := r.1
    let follows := field l 0x11 1 / 4 % 2 == 1
    raiseIf (follows && !s.part.hasMx) 0x02 0x14 0
    if follows then s.needVec
    if waybillBad l then badWb
    let wb := parseWaybill l
    let st ← s.followChecks wb
    let (gen, s) ← s.captureGen wb
    s.awaitDepth .copy
    s.settleStores
    let (c, s) := s.newCmd .copy none
    let s := s.copyEnter c va false wb gen
    match st with
    | none => .ok (s.complete 4)
    | some st => do
      let s ← s.stepEnter st s.pc va (some c.id) [c.region]
      .ok (s.complete 4)

/-- `cp.lin` (R225). BADID comes before misaligned (DESIGN CHOICE, log entry 122). -/
def execCpLin (d a n c : Reg) (s : State) : Host.Outcome State Fault Refusal :=
  outcome s do
    badId (decide (2 ^ 40 < (s.x n).toNat))
    raiseIf (!aligned (s.x c) 8) 0x06 8 (s.x c)
    s.awaitDepth .copy
    s.settleStores
    let wb : Waybill :=
      { src := s.x a, dst := s.x d, esize := 1, dims := [⟨(s.x n).toNat, 1, 1⟩], scope := .core, planes := 1, psrc := 0, pdst := 0,
        done := s.x c, doneval := 0, bar := none, mx := none, ma := 0, k0 := 0 }
    let (k, s) := s.newCmd .copy none
    .ok ((s.copyEnter k s.pc true wb 0).complete 4)

/-! ### Performing waybills (R220 to R222) -/

/-- Elements of one plane. -/
def Waybill.planeCount (w : Waybill) : Nat := (w.dims.map (·.extent)).foldl (· * ·) 1

/-- Elements of the index space. -/
def Waybill.total (w : Waybill) : Nat := w.planes * w.planeCount

/-- Σ i_j × stride_j of element `i` of a plane, dimension 0 innermost. -/
def dimOffset (stride : WbDim → Word) : List WbDim → Nat → Word
  | [], _ => 0
  | d :: rest, i => word (i % d.extent) * stride d + dimOffset stride rest (i / d.extent)

/-- Source and destination address of element `i` in the order of R220. -/
def Waybill.addrs (w : Waybill) (i : Nat) : Word × Word :=
  let p := word (i / w.planeCount); let j := i % w.planeCount
  (w.src + p * w.psrc + dimOffset (·.ss) w.dims j, w.dst + p * w.pdst + dimOffset (·.ds) w.dims j)

/-- A place moved up by `i` bytes. -/
def Loc.up : Loc → Nat → Loc
  | .hbm a, i => .hbm (a + i) | .cxl a, i => .cxl (a + i) | .spad a, i => .spad (a + i) | .fabric w a, i => .fabric w (a + i)

/-- One byte as the waybill reads it: where it has itself written the byte, R220 leaves open whether the old or the new one is read
(DEDUCED, log entry 34). -/
def CpCmd.readByte (c : CpCmd) (m : Mem) (l : Loc) : Byte :=
  match c.before.find? fun x => x.1 == l with
  | none => BitVec.ofNat 8 (readLoc m l 1)
  | some x => if Config.waybillOld c.id c.count then x.2 else BitVec.ofNat 8 (readLoc m l 1)

/-- The bytes that a command is about to overwrite for the first time. -/
def CpCmd.remember (c : CpCmd) (m : Mem) (l : Loc) (n : Nat) : List (Loc × Byte) :=
  match l with
  | .fabric _ _ => c.before
  | l => c.before ++ ((List.range n).map l.up |>.filterMap fun q =>
      if c.before.any fun x => x.1 == q then none else some (q, BitVec.ofNat 8 (readLoc m q 1)))

/-- The agent and addresses of a copy command. -/
def State.cpAgent (s : State) (c : CpCmd) : Agent := s.cmdAgent .copy s.core.id c.pc c.region c.prior

/-- The addresses of a copy command. -/
def CpCmd.space (c : CpCmd) : Space := cmdSpace c.root c.handle c.wid

/-- The value of an element that a command has read at a place as `v`: of a fabric window what came, elsewhere byte by byte. -/
def CpCmd.value (c : CpCmd) (m : Mem) (l : Loc) (w v : Nat) : Nat :=
  match l with
  | .fabric _ _ => v
  | l => valueOfBytes ((List.range w).map fun i => c.readByte m (l.up i))

/-- What a command has written is used up by the answers to it, and granules that it has written whole hold no error (R293). -/
def State.copied (s : State) (c : CpCmd) : State :=
  (s.mapMem fun m => healAll m (c.before.map fun x => (x.1, 1))).dropFar c.handle c.wid (some c.region)

/-- One aligned element is copied, fails, or awaits an answer of the fabric (DEDUCED, log entry 34). -/
def State.copyElement (s : State) (c : CpCmd) : Except CmdHalt (CpCmd × State) := do
  let w := c.wb.esize
  let (a, d) := c.wb.addrs c.count
  let ag := s.cpAgent c
  let l ← liftC (Machine.locate s.part s.mem c.space a w .load)
  let r ← s.cmdRead c.space ag a w
  if s.core.copyBad then .error (.failed ⟨0x11, 0x05, a, 0⟩)
  let q ← liftC (Machine.locate s.part r.2 c.space d w .store)
  let m ← ({ s with mem := r.2 } : State).cmdWrite c.space ag q d w (c.value s.mem l w r.1)
  let c' := { c with count := c.count + 1, before := c.remember s.mem q w }
  .ok (c', ({ s with mem := m } : State).copied c')

/-- The copy of an element fails with a status and class. -/
def State.copyFails (s : State) (c : CpCmd) (f : BitVec 7 × BitVec 8) : CpCmd × State :=
  ({ c with failed := some f }, (s.mapCore fun k => { k with copyBad := false }).dropFar c.handle c.wid (some c.region))

/-- Elements from `count` on, `fuel` of them at most. -/
def State.copyElements (s : State) : Nat → CpCmd → CpCmd × State
  | 0, c => (c, s)
  | fuel + 1, c =>
    if c.wb.total ≤ c.count then (c, s)
    else if !aligned (c.wb.addrs c.count).1 c.wb.esize || !aligned (c.wb.addrs c.count).2 c.wb.esize then s.copyFails c (0x0A, 0)
    else match s.copyElement c with
      | .error (.failed e) => s.copyFails c (elementStatus e)
      | .error (.await t) => (c, t)
      | .ok (c', s') => s'.copyElements fuel c'

/-- The head of the copy queue, when nothing holds it (R226). -/
def State.cpHead (s : State) : Option CpCmd :=
  match s.core.copy with
  | [] => none
  | c :: _ => if s.fenced c.id then none else some c

/-- The head of the copy queue changed. -/
def State.cpSet (s : State) (c : CpCmd) : State := s.mapCore fun k => { k with copy := c :: k.copy.drop 1 }

/-- Elements that one move of the engine may copy: what the step names, else all that are left (DESIGN CHOICE, log entry 81). -/
def State.copyFuel (s : State) (c : CpCmd) : Nat :=
  match s.choice with
  | .index n => n
  | _ => c.wb.total - c.count

/-- WAYBILL_START (R220): the engine copies elements in order. -/
def execWaybillStart (s : State) : Host.Outcome State Fault Refusal :=
  match s.cpHead with
  | none => .next s
  | some c =>
    if c.lin || c.failed.isSome then .next s
    else
      let (c', s') := s.copyElements (s.copyFuel c) { c with started := true }
      .next (s'.cpSet c')

/-- The matrix queue of the thread's vector state, wherever it is, changed by `f`. -/
def State.mapQueues (s : State) (f : Mx → Mx) : State :=
  let g (v : Vec) : Vec := { v with mx := f v.mx }
  { s with core := { s.core with vec := g s.core.vec }, parked := s.parked.map fun c => { c with vec := g c.vec },
           sched := { s.sched with vimages := s.sched.vimages.map fun x => { x with vec := g x.vec } } }

/-- The waybill releases its follow-on, or drops it when it has failed (R221, R223). -/
def State.releaseFollow (s : State) (c : CpCmd) (ok : Bool) : State :=
  let free (q : MxCmd) : MxCmd := if q.held = some c.id then { q with held := none, dropped := !ok } else q
  let s' := s.mapQueues fun m => { m with queue := m.queue.map free }
  if ok || c.wb.mx.isNone then s'
  else s'.fail ⟨c.id, .matrix, c.handle, c.wid, 0x0C, 0, 0, c.addr, c.addr⟩

/-- A failure of a copy command is recorded against its thread. -/
def State.cpFail (s : State) (c : CpCmd) (f : BitVec 7 × BitVec 8) : State := s.fail ⟨c.id, .copy, c.handle, c.wid, f.1, f.2, c.count, c.addr, c.pc⟩

/-- The completion store of a waybill, of `v`; a fault is recorded when `report` (R221): one of the store of a failure word is not, and the waybill's
own failure stands (DESIGN CHOICE, log entry 121). The state in which the waybill awaits the answer of a fabric window is the error. -/
def State.cpDone (s : State) (c : CpCmd) (v : Word) (report : Bool) : Except State State :=
  if c.wb.done = 0 then .ok s
  else match s.completionStore c.space (s.cpAgent c) c.wb.done v c.wb.scope with
    | .ok m => .ok (({ s with mem := m } : State).dropFar c.handle c.wid (some c.region))
    | .error (.failed e) =>
      let t := s.dropFar c.handle c.wid (some c.region)
      .ok (if report then t.cpFail c (0x06, e.cls) else t)
    | .error (.await t) => .error t

/-- The arrival of a waybill on its barrier object, or STALE-BARRIER (R221, R222, R263); a race or an error in the word is recorded as that of
an element (R238) (DESIGN CHOICE, log entry 42). -/
def State.cpArrive (s : State) (c : CpCmd) : State :=
  match c.wb.bar with
  | none => s
  | some va => match Machine.locate s.part s.mem c.space va 8 .store with
    | .ok (.spad k) =>
      match markAt s.mem k with
      | none => s.cpFail c (0x09, 0)
      | some sc =>
        let a : Agent := { s.cpAgent c with strong := true, scope := sc }
        match barWordOf s.part s.mem a k true va with
        | .error e => s.cpFail c (elementStatus e)
        | .ok w =>
        if bits w 48 16 ≠ c.gen then s.cpFail c (0x09, 0)
        else s.mapMem fun m => { noteBoth (putObject m k (arriveWord w)) a (.spad k) 8 with
          arrivals := m.arrivals ++ (c.region :: (s.cpAgent c).prior).map fun r => ⟨k, bits w 48 16, bits w 1 15, r, s.core.id, sc⟩ }
    | _ => s.cpFail c (0x09, 0)

/-- The head of the copy queue leaves it. -/
def State.cpPop (s : State) : State := s.mapCore fun k => { k with copy := k.copy.drop 1 }

/-- WAYBILL_COMPLETE (R221). -/
def execWaybillComplete (s : State) : Host.Outcome State Fault Refusal :=
  match s.cpHead with
  | none => .next s
  | some c =>
    if c.lin then .next s
    else match c.failed with
      | some f => match s.cpDone c (failWord f.1 f.2 c.count) false with
        | .error t => .next t
        | .ok s' => .next ((s'.cpPop.releaseFollow c false).cpFail c f)
      | none =>
        if c.count < c.wb.total then .next s
        else match (s.releaseFollow c true).cpDone c c.wb.doneval true with
          | .error t => .next t
          | .ok s' => .next (s'.cpPop.cpArrive c)

/-- The atomic add of 1 to the counter word at `l`, with release at `.core`: the memories after it (R225) (DEDUCED, log entry 33). -/
def State.cpAdd (s : State) (c : CpCmd) (l : Loc) : Except CmdHalt Mem :=
  let a : Agent := { s.cpAgent c with strong := true, scope := .core }
  match l with
  | .fabric win _ => (s.cmdFar c.space a .add ⟨.rel, .core, a.passes .core⟩ win c.wb.done 8 (bytesOf 1 8)).map fun _ => s.mem
  | l => match raceCheck s.part s.mem a true l 8 c.wb.done with
    | .error e => .error (.failed e)
    | .ok _ => match badAt s.mem l with
      | some d => .error (.failed ⟨0x11, d, c.wb.done, 0⟩)
      | none => .ok (passAll (noteBoth (rmwLoc s.mem l 8 (readLoc s.mem l 8 + 1)) a l 8) l 8 s.core.id (a.passes .core))

/-- The counter word of `cp.lin` takes 1 more, or the copy is recorded as failed (R225). -/
def State.cpCount (s : State) (c : CpCmd) : Except State State :=
  if c.wb.done = 0 then .ok s
  else match liftC (Machine.locate s.part s.mem c.space c.wb.done 8 .atomic) >>= s.cpAdd c with
    | .ok m => .ok (({ s with mem := m } : State).dropFar c.handle c.wid (some c.region))
    | .error (.failed e) => .ok ((s.dropFar c.handle c.wid (some c.region)).cpFail c (elementStatus e))
    | .error (.await t) => .error t

/-- CP_LIN_PERFORM (R225). -/
def execCpLinPerform (s : State) : Host.Outcome State Fault Refusal :=
  match s.cpHead with
  | none => .next s
  | some c =>
    if !c.lin then .next s
    else
      let (c', s') := s.copyElements (s.copyFuel c) { c with started := true }
      match c'.failed with
      | some f => .next (s'.cpPop.cpFail c' f)
      | none =>
        if c'.count < c'.wb.total then .next (s'.cpSet c')
        else match s'.cpCount c' with
          | .error t => .next (t.cpSet c')
          | .ok t => .next (t.cpPop)

/-! ### Queue fences and status (R224, R226) -/

/-- The fence that the resident thread places now. -/
def State.newFence (s : State) (mask : BitVec 4) : QFence := ⟨s.eng.nextId, mask, s.core.id, s.core.me.handle, s.core.me.wid⟩

/-- A fence is placed in the queues of a mask. -/
def State.placeFence (s : State) (mask : BitVec 4) : State :=
  s.mapEng fun e => { e with fences := e.fences ++ [s.newFence mask], nextId := e.nextId + 1 }

/-- `q.fence` (R226) (DEDUCED, log entry 39). -/
def execQFence (mask : BitVec 4) (s : State) : Host.Outcome State Fault Refusal :=
  .next ((s.placeFence mask).complete 4)

/-- The writes of the commands before a fence are acquired: the thread's own regions close, those of others happen before what it
does next (R226, R235) (DEDUCED, log entry 39). -/
def State.acquireFence (s : State) (f : QFence) : State :=
  let others := (s.eng.regions.filter fun r => s.covers f r && !s.isMe r.handle r.wid).flatMap fun r => r.region :: r.prior
  (s.closeCmds fun r => s.covers f r && s.isMe r.handle r.wid).mapCore fun c => { c with seen := c.seen ++ others, atFence := none }

/-- The fence at which `q.fence.w` waits: the one that it has placed, wherever the thread was then, or a new one. One that is gone has nothing
before it. -/
def State.myFence (s : State) (mask : BitVec 4) : QFence × State :=
  match s.core.atFence with
  | some id => ((s.eng.fences.find? fun f => f.id == id).getD { s.newFence 0 with id := id }, s)
  | none => (s.newFence mask, (s.placeFence mask).mapCore fun c => { c with atFence := some s.eng.nextId })

/-- `q.fence.w` (R226). -/
def execQFenceW (mask : BitVec 4) (s : State) : Host.Outcome State Fault Refusal :=
  match (if mask.getLsbD 1 then s.needSaved else .ok ()) with
  | .error h => outcome s (.error h)
  | .ok _ =>
  let (f, s) := s.myFence mask
  if s.fenceWaits f then .next (s.setRun .asleep)
  else
    let s := (s.acquireFence f).sync
    match s.myFail fun q => mask.getLsbD (Queue.bit q) with
    | some x => .next ((s.unfail x).except x.exc)
    | none => .next (s.complete 4)

/-- `cp.stat` (R224). -/
def execCpStat (d : Reg) (sel : Bool) (s : State) : Host.Outcome State Fault Refusal :=
  if sel then
    match s.myFail (· == .copy) with
    | none => .next ((s.setX d 0).complete 4)
    | some f => .next (((s.unfail f).setX d (failWord f.status f.cls f.count)).complete 4)
  else .next ((s.setX d (word (s.countMine .copy))).complete 4)

end Sys2Proof.Machine
end

