-- ==== Sys2Proof/Machine/Opt.lean ====
section
/-! DEFINITION. The optimiser engine of a die (R180 to R193): job cards, routines, step counters and the OPT instructions. -/

namespace Sys2Proof.Machine

/-! ### Cards (R181, R182) -/

/-- The card that 128 bytes hold (R181). -/
def parseCard (l : List Byte) : Card :=
  let w32 (off : Nat) : BitVec 32 := BitVec.ofNat 32 (field l off 4)
  { rout := field l 0 1, k := field l 1 1, wbf := field l 2 1 == 1, stbf := field l 3 1 == 1, refuse := field l 4 1 == 1
    ctx := field l 5 1 == 1, drop := BitVec.ofNat 16 (field l 6 2), n := field l 8 8, w := field8 l 0x10, st1 := field8 l 0x18
    st2 := field8 l 0x20, seed := w32 0x28, stream := w32 0x2C, jbase := field8 l 0x30, sigma := w32 0x38, scal := field8 l 0x40
    step := field8 l 0x48, consts := (List.range 8).map fun i => w32 (0x50 + 4 * i), done := field8 l 0x70, doneval := field8 l 0x78 }

/-- The byte ranges of the arrays in use (R182). -/
def Card.spans (c : Card) : List (Nat × Nat) :=
  let size (bf : Bool) : Nat := c.n * (if bf then 2 else 4)
  (c.w.toNat, size c.wbf) :: ([c.st1, c.st2].filter (· != 0)).map fun a => (a.toNat, size c.stbf)

/-- Two ranges of a list overlap. -/
def anyOverlap : List (Nat × Nat) → Bool
  | [] => false
  | (a, n) :: rest => (rest.any fun x => decide (a < x.1 + x.2) && decide (x.1 < a + n)) || anyOverlap rest

/-- A limit of R181, a reserved field (R4) or the ban on overlaps of R182 is broken. -/
def cardBad (l : List Byte) : Bool :=
  let c := parseCard l
  decide (63 < c.rout) || c.k == 0 || decide (16 < c.k) || decide (1 < field l 2 1) || decide (1 < field l 3 1) || decide (1 < field l 4 1)
    || decide (1 < field l 5 1) || c.n == 0 || decide (2 ^ 40 < c.n) || c.w == 0 || field l 0x3C 4 != 0 || !aligned c.scal 4
    || (c.ctx && decide (31 < c.step.toNat)) || !aligned c.done 8 || c.doneval.getLsbD 63 || anyOverlap c.spans

/-- An enqueue waits for depth (R23) and for room in the die's queue of 1,024 entries (R180). -/
def State.awaitOpt (s : State) : Except Halt Unit := do
  s.awaitDepth .opt
  if 1024 ≤ (s.eng.opt.filter fun c => c.die == s.dieOf s.core.id).length then .error .wait else .ok ()

/-- A command enters the optimiser queue of the thread's die. -/
def State.optEnter (s : State) (addr : Word) (b : OptBody) : State :=
  let (c, s) := s.newCmd .opt none
  s.mapEng fun e => { e with opt := e.opt ++
    [{ id := c.id, handle := s.core.me.handle, wid := s.core.me.wid, core := s.core.id, die := s.dieOf s.core.id, pc := s.pc, addr := addr,
       root := s.core.sup.ptbase, region := c.region, prior := c.prior, body := b, run := none, fixed := none, failed := none }] }

/-- `opt.card` (R182). -/
def execOptCard (c : Reg) (s : State) : Host.Outcome State Fault Refusal :=
  outcome s do
    let va := s.x c
    raiseIf (!aligned va 128) 0x06 128 va
    let r ← s.readUnits va 16
    let s := r.2
    raiseIf (cardBad r.1) 0x0E 0x01 0
    s.awaitOpt
    s.settleStores
    .ok ((s.optEnter va (.card (parseCard r.1))).complete 4)

/-- `opt.step` (R191). `uaddr` of one that fails, which has neither a card nor a routine address, is its PC (DESIGN CHOICE, log entry 118). -/
def execOptStep (c : Reg) (s : State) : Host.Outcome State Fault Refusal :=
  outcome s do
    badId (decide (31 < (s.x c).toNat))
    s.awaitOpt
    s.settleStores
    .ok ((s.optEnter s.pc (.step (s.x c).toNat)).complete 4)

/-- `opt.rout` (R191). -/
def execOptRout (i a : Reg) (s : State) : Host.Outcome State Fault Refusal :=
  outcome s do
    badId (decide (63 < (s.x i).toNat))
    s.awaitOpt
    s.settleStores
    .ok ((s.optEnter (s.x a) (.rout (s.x i).toNat)).complete 4)

/-- `opt.wait` (R191, R192): the failures since the last one are forgotten, and the earliest that no wait has reported is raised (R282) (DEDUCED,
log entry 101). -/
def execOptWait (n : BitVec 7) (s : State) : Host.Outcome State Fault Refusal :=
  outcome s do
    if n.toNat < s.countMine .opt then .error .sleep
    else
      let s := (s.acquireMine .opt).sync.mapEng fun e => { e with optFails := e.optFails.filter fun x => !s.isMe x.handle x.wid }
      match s.myFail (· == .opt) with
      | none => .ok (s.complete 4)
      | some f => .error (.partly f.exc (s.mapEng fun e => { e with fails := e.fails.filter fun x => !(x.queue == .opt && s.isMe x.handle x.wid) }))

/-- `STEP` of a context on a die (R190). -/
def State.stepOf (s : State) (die ctx : Nat) : Word := ((s.eng.steps.find? fun x => x.1 == (die, ctx)).map (·.2)).getD 0

/-- Set `STEP` of a context on a die. -/
def State.setStep (s : State) (die ctx : Nat) (v : Word) : State :=
  s.mapEng fun e => { e with steps := ((die, ctx), v) :: e.steps.filter fun x => x.1 != (die, ctx) }

/-- The node of a handle holds a grant of a context (R190). -/
def State.granted (s : State) (handle ctx : Nat) : Bool :=
  match s.node handle with
  | none => false
  | some n => n.contexts.contains ctx

/-- `opt.stat` (R191). -/
def execOptStat (d x : Reg) (sel : BitVec 2) (s : State) : Host.Outcome State Fault Refusal :=
  outcome s do
    if sel == 0 then .ok ((s.setX d (word (s.countMine .opt))).complete 4)
    else if sel == 1 then do
      let ctx := (s.x x).toNat
      badId (decide (31 < ctx))
      let v := if s.granted s.core.me.handle ctx then s.stepOf (s.dieOf s.core.id) ctx else BitVec.allOnes 64
      .ok ((s.setX d v).complete 4)
    else
      let v := match s.eng.optFails.find? fun f => s.isMe f.handle f.wid with
        | none => 0
        | some f => failWord f.status f.cls f.count
      .ok ((s.setX d v).complete 4)

/-! ### Routines (R186, R187) -/

/-- Op of a micro-instruction. -/
def microOp (w : Word32) : Nat := w.toNat / 2 ^ 27
/-- Field d. -/
def microD (w : Word32) : Nat := w.toNat / 2 ^ 22 % 32
/-- Field a. -/
def microA (w : Word32) : Nat := w.toNat / 2 ^ 17 % 32
/-- Field b. -/
def microB (w : Word32) : Nat := w.toNat / 2 ^ 12 % 32
/-- Field c. -/
def microC (w : Word32) : Nat := w.toNat / 2 ^ 7 % 32

/-- An op uses field b (R186). -/
def usesB (op : Nat) : Bool := decide (op ≤ 5) || op == 8 || op == 9 || op == 10
/-- An op uses field c. -/
def usesC (op : Nat) : Bool := op == 3 || op == 4 || op == 10

/-- A word of a routine is valid: its op, its unused fields, and the registers that it names (R187). -/
def microOk (w : Word32) : Bool :=
  let op := microOp w
  if op = 12 then w == 0x60000000
  else decide (op < 12) && w.toNat % 128 == 0 && (usesB op || microB w == 0) && (usesC op || microC w == 0)
    && [microD w, microA w, microB w, microC w].all (fun r => decide (r < 30)) && !(decide (3 ≤ microD w) && decide (microD w ≤ 13))

/-- The routine that words up to the first `end` are, when it is valid (R187). -/
def routineOf : List Word32 → Option (List Word32)
  | [] => none
  | w :: rest =>
    if !microOk w then none
    else if microOp w = 12 then some [w]
    else (routineOf rest).map (w :: ·)

/-- One micro-instruction on the registers (R186). -/
def microStep (w : Word32) (r : List Nat) : List Nat :=
  let a := r.getD (microA w) 0; let b := r.getD (microB w) 0; let c := r.getD (microC w) 0
  let f : FFmt := .f32
  let v : Nat :=
    match microOp w with
    | 0 => (fAdd f .rne a b).1
    | 1 => (fSub f .rne a b).1
    | 2 => (fMul f .rne a b).1
    | 3 => (fFma f .rne c a b).1
    | 4 => (fFma f .rne c (f.negBits a) b).1
    | 5 => (fDiv f .rne a b).1
    | 6 => (sqrtVal f .rne (f.val a)).1
    | 7 => (rsqrtVal f .rne (f.val a)).1
    | 8 => (fPick f true a b).1
    | 9 => (fPick f false a b).1
    | 10 => if f.signBit c then b else a
    | _ => a
  r.set (microD w) v

/-- A routine up to its `end` (R185). -/
def runRoutine : List Word32 → List Nat → List Nat
  | [], r => r
  | w :: rest, r => if microOp w = 12 then r else runRoutine rest (microStep w r)

/-! ### Performing a card (R183 to R185, R188) -/

/-- FP32 one. -/
def f32One : Nat := 0x3F800000

/-- c^t by squaring over the low `n` bits of t, from the highest down (R188). -/
def powBits (c : Nat) (t : Word) : Nat → Nat → Nat
  | 0, p => p
  | n + 1, p =>
    let q := (fMul .f32 .rne p p).1
    powBits c t n (if t.getLsbD n then (fMul .f32 .rne q c).1 else q)

/-- RN(1 − c^t) (R188). -/
def biasOf (c : BitVec 32) (t : Word) : BitVec 32 := BitVec.ofNat 32 (fSub .f32 .rne f32One (powBits c.toNat t 64 f32One)).1

/-- The agent of a command of an optimiser queue. -/
def State.optAgent (s : State) (c : OptCmd) : Agent := s.cmdAgent .opt c.core c.pc c.region c.prior

/-- The addresses of a command of an optimiser queue. -/
def OptCmd.space (c : OptCmd) : Space := cmdSpace c.root c.handle c.wid

/-- `n` words of 4 bytes from `va` up, read by a command. -/
def State.optWords (s : State) (c : OptCmd) (va : Word) : Nat → Mem → Except CmdHalt (List (BitVec 32) × Mem)
  | 0, m => .ok ([], m)
  | n + 1, m =>
    match ({ s with mem := m } : State).cmdRead c.space (s.optAgent c) va 4 with
    | .error e => .error e
    | .ok (v, m) => match s.optWords c (va + 4) n m with
      | .error e => .error e
      | .ok (l, m) => .ok (BitVec.ofNat 32 v :: l, m)

/-- Direction i is spoiled (R183). -/
def spoiledDir (drop : BitVec 16) (i : Nat) (x : BitVec 32) : Bool := (FFmt.f32.val x.toNat).special || drop.getLsbD i

/-- Why a card is not performed now: a status and class (R189), or it awaits an answer of the fabric. -/
inductive CardHalt where
  | fails (f : BitVec 7 × BitVec 8)
  | await (s : State)
  deriving DecidableEq, Repr

/-- An access of a card that is not made. -/
def CmdHalt.card : CmdHalt → CardHalt
  | .failed e => .fails (elementStatus e)
  | .await s => .await s

/-- The step value of a card: the one that it has read, or that it reads when it reaches the head of the queue (R183). -/
def State.cardStep (s : State) (c : OptCmd) (k : Card) : Word := c.fixed.getD (if k.ctx then s.stepOf c.die k.step.toNat else k.step)

/-- The step value stays while the card awaits its scalars. -/
def State.keepStep (s : State) (id : Nat) (t : Word) : State :=
  s.mapEng fun e => { e with opt := e.opt.map fun c => if c.id = id then { c with fixed := some t } else c }

/-- What fixing a card finds: its run, with the memories after the reads (R183). -/
def State.cardFix (s : State) (c : OptCmd) (k : Card) : Except CardHalt (CardRun × Mem) :=
  match s.eng.routs.find? fun x => x.1 == (c.die, k.rout) with
  | none => .error (.fails (0x02, 0))
  | some r =>
    if k.ctx && !s.granted c.handle k.step.toNat then .error (.fails (0x03, 0))
    else
      let t := s.cardStep c k
      match s.optWords c k.scal k.k s.mem with
      | .error e => .error e.card
      | .ok (l, m) =>
        let healthy := ((List.range l.length).zip l).map fun x => !spoiledDir k.drop x.1 x.2
        if k.refuse && healthy.contains false then .error (.fails (0x04, 0))
        else if !healthy.contains true then .error (.fails (0x05, 0))
        else .ok ({ prog := r.2, t := t, scal := l, healthy := healthy, b1 := biasOf (k.consts.getD 1 0) t, b2 := biasOf (k.consts.getD 2 0) t, count := 0 }, m)

/-- The estimate g of element `e` (R184). -/
def estimate (k : Card) (r : CardRun) (e : Nat) : Nat :=
  let j := k.jbase + word e
  let add (acc : Nat) (x : Nat × BitVec 32) : Nat :=
    (fFma .f32 .rne acc x.2.toNat (seedTangent .f32 k.sigma (dirNeg k.seed (bits r.t 0 32) k.stream x.1 j))).1
  let h := (((List.range r.scal.length).zip r.scal).zip r.healthy).filterMap fun x => if x.2 then some x.1 else none
  (fDiv .f32 .rne (h.foldl add 0) (cvtIF h.length .f32 .rne).1).1

/-- An array of a card: the micro-register that holds its element, its base and whether it is bf16 (R185, R187). -/
structure CardArray where
  reg : Nat
  base : Word
  bf : Bool
  deriving DecidableEq, Repr

/-- The arrays in use. -/
def Card.arrays (k : Card) : List CardArray :=
  ⟨0, k.w, k.wbf⟩ :: (if k.st1 = 0 then [] else [⟨1, k.st1, k.stbf⟩]) ++ (if k.st2 = 0 then [] else [⟨2, k.st2, k.stbf⟩])

/-- Bytes of an element of an array. -/
def CardArray.size (a : CardArray) : Nat := if a.bf then 2 else 4

/-- Address of element `e`. -/
def CardArray.at (a : CardArray) (e : Nat) : Word := a.base + word (e * a.size)

/-- The element is loaded into its register (R185). -/
def State.cardLoad (s : State) (c : OptCmd) (e : Nat) : List CardArray → List Nat → Mem → Except CmdHalt (List Nat × Mem)
  | [], r, m => .ok (r, m)
  | a :: rest, r, m =>
    if !aligned (a.at e) a.size then .error (.failed ⟨0x06, BitVec.ofNat 8 a.size, a.at e, 0⟩)
    else match ({ s with mem := m } : State).cmdRead c.space (s.optAgent c) (a.at e) a.size with
      | .error x => .error x
      | .ok (v, m) => s.cardLoad c e rest (r.set a.reg (if a.bf then (cvtFF .bf16 .f32 .rne v).1 else v)) m

/-- Every element of the arrays may be written: places and races, before any store (R189). -/
def State.cardPlaces (s : State) (c : OptCmd) (e : Nat) : List CardArray → Except Exc (List (CardArray × Loc))
  | [] => .ok []
  | a :: rest =>
    match Machine.locate s.part s.mem c.space (a.at e) a.size .store with
    | .error x => .error x
    | .ok l => match raceCheck s.part s.mem (s.optAgent c) true l a.size (a.at e) with
      | .error x => .error x
      | .ok _ => match s.cardPlaces c e rest with
        | .error x => .error x
        | .ok r => .ok ((a, l) :: r)

/-- What register 0, 1 or 2 stores to its array (R185). -/
def CardArray.out (a : CardArray) (r : List Nat) : Nat :=
  let v := r.getD a.reg 0
  if a.bf then (cvtFF .f32 .bf16 .rne v).1 else v

/-- The stores to arrays in fabric windows, each of which is answered before the next and before any other (DESIGN CHOICE, log entry 94). -/
def State.cardFar (s : State) (c : OptCmd) (e : Nat) (r : List Nat) : List (CardArray × Loc) → Except CmdHalt Unit
  | [] => .ok ()
  | (a, .fabric w _) :: rest => match s.cmdFar c.space (s.optAgent c) .write .weak w (a.at e) a.size (bytesOf (a.out r) a.size) with
    | .error h => .error h
    | .ok _ => s.cardFar c e r rest
  | _ :: rest => s.cardFar c e r rest

/-- The registers 0, 1 and 2 are stored to the arrays (R185). -/
def State.cardStore (s : State) (c : OptCmd) (r : List Nat) (l : List (CardArray × Loc)) : State :=
  s.mapMem fun m => l.foldl (fun m x => match x.2 with
    | .fabric _ _ => m
    | q => noteAccess (writeLoc m q x.1.size (x.1.out r)) (s.optAgent c) true q x.1.size) m

/-- The registers at the start of an element (R187). -/
def cardRegs (k : Card) (r : CardRun) (e : Nat) : List Nat :=
  [0, 0, 0, estimate k r e] ++ k.consts.map (·.toNat) ++ [r.b1.toNat, r.b2.toNat] ++ List.replicate 18 0

/-- One element of a card (R185): it is updated, or fails with none of its memory touched. -/
def State.cardElement (s : State) (c : OptCmd) (k : Card) (r : CardRun) (e : Nat) : Except CmdHalt State := do
  let (regs, m) ← s.cardLoad c e k.arrays (cardRegs k r e) s.mem
  let s' : State := { s with mem := m }
  let l ← liftC (s'.cardPlaces c e k.arrays)
  let out := runRoutine r.prog regs
  s'.cardFar c e out l
  .ok ((s'.cardStore c out l).dropFar c.handle c.wid (some c.region))

/-- Elements from `e` on, `n` of them at most: how many are complete, what stops them, and the state. -/
def State.cardElements (s : State) (c : OptCmd) (k : Card) (r : CardRun) (e : Nat) : Nat → Nat × Option CmdHalt × State
  | 0 => (e, none, s)
  | n + 1 =>
    match s.cardElement c k r e with
    | .error x => (e, some x, s)
    | .ok s' => s'.cardElements c k r (e + 1) n

/-- A failure of a command of an optimiser queue is recorded against its thread. -/
def State.optFail (s : State) (c : OptCmd) (f : BitVec 7 × BitVec 8) (n : Nat) : State :=
  let x : CmdFail := ⟨c.id, .opt, c.handle, c.wid, f.1, f.2, n, c.addr, c.pc⟩
  (s.fail x).mapEng fun e => { e with optFails := e.optFails ++ [x] }

/-- A command leaves its queue, and what came for it is gone. -/
def State.optPop (s : State) (c : OptCmd) : State :=
  (s.mapEng fun e => { e with opt := e.opt.filter fun q => q.id != c.id }).dropFar c.handle c.wid (some c.region)

/-- The completion store of a card, which then leaves its queue (R189); a fault is recorded when `report`. While the card awaits the answer of
a fabric window it stays. -/
def State.cardDone (s : State) (c : OptCmd) (k : Card) (v : Word) (n : Nat) (report : Bool) : Except State State :=
  if k.done = 0 then .ok (s.optPop c)
  else match s.completionStore c.space (s.optAgent c) k.done v .sys with
    | .ok m => .ok (({ s with mem := m } : State).optPop c)
    | .error (.failed e) => .ok (if report then (s.optPop c).optFail c (0x06, e.cls) n else s.optPop c)
    | .error (.await t) => .error t

/-- A card fails after `n` elements (R189). A fault of the store of its failure word is dropped, and the failure stands as it was (DESIGN CHOICE,
log entry 119). -/
def State.cardFails (s : State) (c : OptCmd) (k : Card) (f : BitVec 7 × BitVec 8) (n : Nat) : State :=
  match s.cardDone c k (failWord f.1 f.2 n) n false with
  | .error t => t.mapEng fun e => { e with opt := e.opt.map fun q => if q.id = c.id then { q with failed := some (f, n) } else q }
  | .ok s' => s'.optFail c f n

/-- The die that a step names: its own choice, else that of the active core. -/
def State.dieChoice (s : State) : Nat :=
  match s.choice with
  | .die d => d.toNat
  | _ => s.dieOf s.core.id

/-- The head of the optimiser queue of a die, when nothing holds it. -/
def State.optHead (s : State) (die : Nat) : Option OptCmd :=
  match s.eng.opt.find? fun c => c.die == die with
  | none => none
  | some c => if s.fenced c.id then none else some c

/-- A command has been given its run. -/
def State.optRun (s : State) (id : Nat) (r : CardRun) : State :=
  s.mapEng fun e => { e with opt := e.opt.map fun c => if c.id = id then { c with run := some r } else c }

/-- CARD_START (R183). -/
def execCardStart (s : State) : Host.Outcome State Fault Refusal :=
  match s.optHead s.dieChoice with
  | none => .next s
  | some c => match c.body, c.run, c.failed with
    | .card k, none, some f => .next (s.cardFails c k f.1 f.2)
    | .card k, none, none => match s.cardFix c k with
      | .error (.fails f) => .next (s.cardFails c k f 0)
      | .error (.await t) => .next (t.keepStep c.id (s.cardStep c k))
      | .ok (r, m) => .next ((({ s with mem := m } : State).optRun c.id r).dropFar c.handle c.wid (some c.region))
    | _, _, _ => .next s

/-- CARD_COMPLETE (R184, R185, R189): the elements of a started card that are left, then its completion word. -/
def execCardComplete (s : State) : Host.Outcome State Fault Refusal :=
  match s.optHead s.dieChoice with
  | none => .next s
  | some c => match c.body, c.run, c.failed with
    | .card k, some _, some f => .next (s.cardFails c k f.1 f.2)
    | .card k, some r, none => match s.cardElements c k r r.count (k.n - r.count) with
      | (n, some (.failed x), s') => .next ((s'.optRun c.id { r with count := n }).cardFails c k (elementStatus x) n)
      | (n, some (.await t), _) => .next (t.optRun c.id { r with count := n })
      | (n, none, s') => match (s'.optRun c.id { r with count := n }).cardDone c k k.doneval n true with
        | .ok t => .next t
        | .error t => .next t
    | _, _, _ => .next s

/-- The words up to the first `end`, at most `n` (R191). -/
def State.routWords (s : State) (c : OptCmd) (va : Word) : Nat → Mem → Except CmdHalt (List Word32 × Mem)
  | 0, m => .ok ([], m)
  | n + 1, m =>
    if !aligned va 4 then .error (.failed ⟨0x06, 4, va, 0⟩)
    else match ({ s with mem := m } : State).cmdRead c.space (s.optAgent c) va 4 with
      | .error e => .error e
      | .ok (v, m) =>
        if microOp (BitVec.ofNat 32 v) = 12 then .ok ([BitVec.ofNat 32 v], m)
        else match s.routWords c (va + 4) n m with
          | .error e => .error e
          | .ok (l, m) => .ok (BitVec.ofNat 32 v :: l, m)

/-- A routine is installed on a die. -/
def State.install (s : State) (die id : Nat) (l : List Word32) : State :=
  s.mapEng fun e => { e with routs := ((die, id), l) :: e.routs.filter fun x => x.1 != (die, id) }

/-- ROUTINE_INSTALL (R191). -/
def execRoutineInstall (s : State) : Host.Outcome State Fault Refusal :=
  match s.optHead s.dieChoice with
  | none => .next s
  | some c => match c.body with
    | .rout id => match s.routWords c c.addr 16 s.mem with
      | .error (.await t) => .next t
      | .error (.failed e) => .next ((s.optPop c).optFail c (elementStatus e) 0)
      | .ok (l, m) =>
        let s' := ({ s with mem := m } : State).optPop c
        match routineOf l with
        | none => .next (s'.optFail c (0x08, 0) 0)
        | some p => .next (s'.install c.die id p)
    | .card _ => .next s
    | .step _ => .next s

/-- STEP_INCREMENT (R191). -/
def execStepIncrement (s : State) : Host.Outcome State Fault Refusal :=
  match s.optHead s.dieChoice with
  | none => .next s
  | some c => match c.body with
    | .step ctx =>
      if s.granted c.handle ctx then .next ((s.optPop c).setStep c.die ctx (s.stepOf c.die ctx + 1))
      else .next ((s.optPop c).optFail c (0x03, 0) 0)
    | .card _ => .next s
    | .rout _ => .next s

end Sys2Proof.Machine
end

