-- ==== Sys2Proof/Machine/Pool.lean ====
section
/-! DEFINITION. Node records (R16, R17), their checks at submission (R18, R21) and the edges of an accepted node (R19). -/

namespace Sys2Proof.Machine

/-- The scheduler changed by `f`. -/
def State.mapSched (s : State) (f : Sched → Sched) : State := { s with sched := f s.sched }

/-- The node of a handle changed by `f`. -/
def State.mapNode (s : State) (handle : Nat) (f : Node → Node) : State :=
  s.mapSched fun d => { d with nodes := d.nodes.map fun n => if n.handle = handle then f n else n }

/-! ### Records (R16, R17) -/

/-- A region mode by its code. -/
def rgMode (c : Nat) : RgMode := if c = 0 then .unused else if c = 1 then .read else if c = 2 then .write else .both

/-- Region entry `i` of a record. -/
def regionOf (l : List Byte) (i : Nat) : NodeRegion :=
  let b := field l (0x80 + 16 * i) 8
  { mode := rgMode (b / 2 ^ 62), base := b % 2 ^ 52, extent := field l (0x88 + 16 * i) 8 }

/-- The record that 256 bytes hold. -/
def parseRecord (l : List Byte) : Record :=
  let flags := field l 0xD 1; let place := field l 0xE 1
  { prog := field8 l 0, threads := field l 8 4, prio := field l 0xC 1 % 8, coResident := flags % 2 == 1, needsMx := flags / 2 % 2 == 1
    place := place % 8, placeDie := place / 8 % 2 == 1
    widths := (List.range (field l 0xF 1)).map fun i => field l (0x10 + i) 1
    spad := field l 0x18 4, vstack := field l 0x1C 4, cgslots := field l 0x20 1, qcopy := field l 0x21 1, qmx := field l 0x22 1
    qopt := field l 0x23 1, qfab := field l 0x24 1, done := field8 l 0x28, doneval := field8 l 0x30
    preds := ((List.range 4).map fun i => field l (0x38 + 8 * i) 8).filter (· != 0), stream := BitVec.ofNat 32 (field l 0x58 4)
    regions := (List.range 8).map (regionOf l) }

/-- Sum of the first `n` field widths (R24). -/
def sumWidths (w : List Nat) (n : Nat) : Nat := (w.take n).sum

/-- A reserved field is not zero (R4), or a region's mode and extent do not agree (R17). -/
def reservedBad (l : List Byte) : Bool :=
  field l 0xC 1 / 8 != 0 || field l 0xD 1 / 4 != 0 || field l 0xE 1 / 16 != 0 || field l 0x16 2 != 0 || field l 0x25 3 != 0
    || field l 0x5C 32 != 0
    || (List.range 8).any fun i => bits (field8 l (0x80 + 16 * i)) 52 10 != 0 || ((regionOf l i).mode == .unused) != ((regionOf l i).extent == 0)

/-- The conditions of R18 with status BADREC. -/
def recordBad (l : List Byte) : Bool :=
  let r := parseRecord l; let nf := field l 0xF 1
  let sum := sumWidths r.widths nf
  reservedBad l || r.threads == 0 || nf == 0 || decide (6 < nf) || r.widths.any (fun w => w == 0 || decide (64 < w))
    || (List.range 6).any (fun i => decide (nf ≤ i) && field l (0x10 + i) 1 != 0) || decide (64 < sum)
    || (decide (sum < 64) && decide (2 ^ sum < r.threads)) || decide (nf < r.place)
    || decide (0xF8000 < r.spad) || decide (0x4000000 < r.vstack) || decide (16 < r.cgslots) || decide (64 < r.qcopy) || decide (16 < r.qmx)
    || decide (64 < r.qopt) || decide (64 < r.qfab) || !aligned r.prog 4 || !aligned r.done 8

/-- Threads of the largest company at the record's placement level (R25). -/
def Record.company (r : Record) : Nat := min r.threads (2 ^ sumWidths r.widths r.place)

/-- Cores of a cluster or a die, as the placement scope names (R21). -/
def Record.unit (p : Part) (r : Record) : Nat := if r.placeDie then p.coresPerDie else p.coresPerCluster

/-- The record is UNSATISFIABLE (R21). -/
def Record.unsatisfiable (p : Part) (r : Record) : Bool :=
  (r.needsMx && !p.hasMx) || (r.coResident && (decide (p.cores < r.threads) || decide (r.unit p < r.company)))

/-! ### Submission (R18, R19) -/

/-- Statuses of a submission (R266). -/
inductive SubStatus where
  | torn | badRec | badPred | poolFull | unsatisfiable | badArg | noRoom | denied
  deriving DecidableEq, Repr

/-- The code of a status (R266, R406). -/
def SubStatus.code : SubStatus → BitVec 7
  | .torn => 1 | .badRec => 2 | .badPred => 3 | .poolFull => 4 | .unsatisfiable => 5 | .badArg => 6 | .noRoom => 7 | .denied => 8

/-- The result word of a refusal (R266, R402). -/
def SubStatus.word (x : SubStatus) : Word := 1#1 ++ SubStatus.code x ++ 0#56

/-- Two regions share a byte and one of the two is written (R19). -/
def NodeRegion.conflicts (a b : NodeRegion) : Bool :=
  let writes (m : RgMode) : Bool := m == .write || m == .both
  a.mode != .unused && b.mode != .unused && (writes a.mode || writes b.mode)
    && decide (a.base < b.base + b.extent) && decide (b.base < a.base + a.extent)

/-- The new record waits for a node of the pool (R19); for the node `giver` whose thread submits it, only when it names that one (R266). -/
def waitsFor (r : Record) (giver : Option Nat) (p : Node) : Bool :=
  r.preds.contains p.handle
    || (giver != some p.handle && p.record.stream == r.stream && p.record.regions.any fun a => r.regions.any a.conflicts)

/-- What the innkeeper keeps of a stream. -/
def State.stream (s : State) (id : BitVec 32) : Option Stream := s.streams.find? fun x => x.id == id

/-- The node that a record becomes, submitted by a thread of the node `giver` or by the host. -/
def State.newNode (s : State) (r : Record) (giver : Option Nat) (seen : List Nat) : Node :=
  let edges := (s.sched.nodes.filter (waitsFor r giver)).map (·.handle)
  let st := s.stream r.stream
  { handle := s.sched.nextHandle, record := r, host := giver.isNone, prio := r.prio, waited := 0,
    readyAt := if edges.isEmpty then some s.sched.decisions else none, edges := edges, nextWid := 0, retired := 0, ended := none,
    root := 0, contexts := (s.grants.filter fun g => g.2 == r.stream).map (·.1),
    slots := (st.map (·.slots)).getD [], pool := (st.bind (·.pool)).getD 256, itin := 0,
    seen := seen, after := [], reserve := [] }

/-- The dispatcher checks the record that 256 bytes hold, and accepts or refuses it (R18): the result word. -/
def State.submitRecord (s : State) (l : List Byte) (giver : Option Nat) (seen : List Nat) : Word × State :=
  let r := parseRecord l
  if (recordCrc l 0x7C).toNat ≠ field l 0x7C 4 then (SubStatus.word .torn, s)
  else if recordBad l then (SubStatus.word .badRec, s)
  else if r.preds.any fun h => decide (s.sched.nextHandle ≤ h) then (SubStatus.word .badPred, s)
  else if 65536 ≤ s.sched.nodes.length then (SubStatus.word .poolFull, s)
  else if r.unsatisfiable s.part then (SubStatus.word .unsatisfiable, s)
  else (word s.sched.nextHandle,
    s.mapSched fun d => { d with nodes := d.nodes ++ [s.newNode r giver seen], nextHandle := d.nextHandle + 1 })

end Sys2Proof.Machine
end

