-- ==== Sys2Proof/Machine/Sync.lean ====
section
/-! DEFINITION. The SYNC instructions: barrier objects (R257 to R263), fences (R264), `waita` (R265) and `node.sub` (R266). -/

namespace Sys2Proof.Machine

/-! ### Barrier objects (R257 to R263) -/

/-- The word that `bar.init` writes (R260). -/
def initWord (old n : Word) : Word := (bits old 48 16 + 1) ++ bits n 0 16 ++ bits n 0 16 ++ 0#16

/-- `bar.init` (R260). -/
def execBarInit (b n : Reg) (sc : Scope) (s : State) : Host.Outcome State Fault Refusal :=
  outcome s do
    let va := s.x b
    let k ← s.barPlace va .store
    badId (s.x n == 0 || decide (65535 < (s.x n).toNat))
    s.awaitChain (.spad k) 8
    s.settleStores
    let old ← s.barWord k true sc va
    let m := noteBoth (writeLoc s.mem (.spad k) 8 (initWord old (s.x n)).toNat) (s.agent true sc) (.spad k) 8
    let m := { m with marks := (k / 8, sc) :: m.marks, arrivals := m.arrivals.filter fun a => a.word != k }
    .ok ((({ s with mem := m } : State).publish (.spad k) 8 sc true).sync.complete 4)

/-- `bar.arr` (R261). -/
def execBarArr (d b : Reg) (rlx : Bool) (s : State) : Host.Outcome State Fault Refusal :=
  outcome s do
    let va := s.x b
    let k ← s.barPlace va .store
    let sc ← s.barScope k
    s.settleStores
    let old ← s.barWord k true sc va
    let m := noteBoth (putObject s.mem k (arriveWord old)) (s.agent true sc) (.spad k) 8
    let passed := s.core.fenced ++ if rlx then [] else s.core.seen.map fun r => (r, sc)
    let l : List BarArrival := passed.map fun r => ⟨k, bits old 48 16, bits old 1 15, r.1, s.core.id, r.2⟩
    let s' : State := { s with mem := { m with arrivals := m.arrivals ++ l } }
    .ok (((if rlx then s' else s'.sync).setX d old).complete 4)

/-- What a comparison of an object with a token finds (R262). -/
inductive Phase where
  | stale | pending | complete
  deriving DecidableEq, Repr

/-- The comparison of R262. -/
def phaseOf (w t : Word) : Phase :=
  if bits w 48 16 ≠ bits t 48 16 then .stale else if bits w 0 16 ≠ bits t 0 16 then .complete else .pending

/-- The waiter acquires the phase that a token names (R243): what the arrivals counted in it pass on whose scope includes the waiter. -/
def State.acquirePhase (s : State) (k : Nat) (t : Word) : State :=
  let l := s.mem.arrivals.filter fun a =>
    a.word == k && a.gen == bits t 48 16 && a.phase == bits t 1 15 && includes s.part a.scope a.core s.core.id
  (s.mapCore fun c => { c with seen := c.seen ++ l.map (·.region) }).sync

/-- The object and the comparison, as a strong read at its scope. -/
def State.barCompare (s : State) (b t : Reg) : Except Halt (Nat × Scope × Phase × State) := do
  let va := s.x b
  let k ← s.barPlace va .load
  let sc ← s.barScope k
  let w ← s.barWord k false sc va
  .ok (k, sc, phaseOf w (s.x t), s.mapMem fun m => noteAccess m (s.agent true sc) false (.spad k) 8)

/-- `bar.wait` (R262). -/
def execBarWait (b t : Reg) (s : State) : Host.Outcome State Fault Refusal :=
  outcome s do
    let r ← s.barCompare b t
    match r.2.2.1 with
    | .stale => raise 0x0E 0x0E
    | .pending => .error (.sleepAs r.2.2.2)
    | .complete => .ok ((r.2.2.2.acquirePhase r.1 (s.x t)).complete 4)

/-- `bar.test` (R262). -/
def execBarTest (d b t : Reg) (s : State) : Host.Outcome State Fault Refusal :=
  outcome s do
    let r ← s.barCompare b t
    let s' := r.2.2.2
    match r.2.2.1 with
    | .stale => .ok ((s'.setX d 2).complete 4)
    | .pending => .ok ((s'.setX d 0).complete 4)
    | .complete => .ok (((s'.acquirePhase r.1 (s.x t)).setX d 1).complete 4)

/-! ### Fences (R264) -/

/-- The fence has an acquire side. -/
def FenceKind.acquires : FenceKind → Bool
  | .full => true | .acq => true | .rel => false

/-- The fence has a release side. -/
def FenceKind.releases : FenceKind → Bool
  | .full => true | .rel => true | .acq => false

/-- A strong load of the thread from a fabric window has not returned. -/
def State.loadsOwed (s : State) : Bool :=
  s.fab.reqs.any fun r => s.mine r && Order.strong r.packet.order && !Packet.writes r.packet && (match r.use with | .scalar _ _ _ => true | _ => false)

/-- `fence` (R264). Its acquire side waits for the strong loads before it, which may read a release (DEDUCED, log entry 125). -/
def execFence (kind : FenceKind) (sc : Scope) (s : State) : Host.Outcome State Fault Refusal :=
  outcome s do
    s.settleStores
    if FenceKind.acquires kind && s.loadsOwed then .error .wait
    let s := if FenceKind.acquires kind then s.acquire sc s.core.loaded else s
    let s := if FenceKind.releases kind then s.mapCore fun c => { c with fenced := c.fenced ++ c.seen.map fun r => (r, sc) } else s
    .ok (s.sync.complete 4)

/-! ### `waita` and `node.sub` (R265, R266) -/

/-- A condition of `waita` on the word read and the operand. -/
def WCond.holds (c : WCond) (w x : Word) : Bool :=
  match c with
  | .eq => w == x | .ne => w != x | .ge => decide (x.toNat ≤ w.toNat)

/-- The word that a `waita` tests: of a fabric window, what a read brings (R349). -/
def State.waitaWord (s : State) (l : Loc) (va : Word) (sc : Scope) : Except Halt (Nat × State) :=
  match l with
  | .fabric win _ => (s.farLoad ⟨.acq, sc, []⟩ win va 8).map fun v => (v, s.dropFar s.core.me.handle s.core.me.wid none)
  | l => (liftE (loadLoc s.part s.mem (s.agent true sc) l 8 va)).map fun r => (r.1, { s with mem := r.2 })

/-- `waita` (R265). It reads each time that it is tried; a read of a fabric window is sent anew (DESIGN CHOICE, log entry 94). -/
def execWaita (a b : Reg) (sc : Scope) (c : WCond) (s : State) : Host.Outcome State Fault Refusal :=
  outcome s do
    let va := s.x a
    let l ← s.locate va 8 .load
    s.awaitChain l 8
    let r ← s.waitaWord l va sc
    if WCond.holds c (word r.1) (s.x b) then
      .ok ((((r.2.acquire sc (pubsAt s.mem l 8)).acquireAt atPackage sc (s.farRead va 8)).touch va).sync.complete 4)
    else .error (.sleepAs r.2)

/-- `node.sub` (R266). The detail of misaligned, 256, is 0 in the eight bits of the cause (DEDUCED, log entry 44). -/
def execNodeSub (d r : Reg) (s : State) : Host.Outcome State Fault Refusal :=
  outcome s do
    let va := s.x r
    raiseIf (!aligned va 256) 0x06 0 va
    let l ← s.readUnits va 32
    let s := l.2
    s.settleStores
    let (w, s) := s.sync.submitRecord l.1 (some s.core.me.handle) s.core.seen
    .ok ((s.setX d w).complete 4)

end Sys2Proof.Machine
end

