-- ==== Sys2Proof/Machine/Itin.lean ====
section
/-! DEFINITION. Itineraries and the porter: entries (R322), page moves (R323 to R329) and the ITIN instructions (R330 to R337). -/

namespace Sys2Proof.Machine

/-- The porter changed by `f`. -/
def State.mapPorter (s : State) (f : Porter → Porter) : State := { s with porter := f s.porter }

/-! ### Frames -/

/-- Number of frames in some ranges. -/
def countFrames (l : List (Nat × Nat)) : Nat := (l.map (·.2)).sum

/-- The first frame of some ranges, with the others. -/
def takeFrame : List (Nat × Nat) → Option (Nat × List (Nat × Nat))
  | [] => none
  | (f, n) :: rest => if n = 0 then takeFrame rest else some (f, if n = 1 then rest else (f + 1, n - 1) :: rest)

/-- `n` frames of some ranges that hold as many, with the others. -/
def takeFrames (n : Nat) : List (Nat × Nat) → List (Nat × Nat) × List (Nat × Nat)
  | [] => ([], [])
  | (f, k) :: rest =>
    if n = 0 then ([], (f, k) :: rest)
    else if k ≤ n then let r := takeFrames (n - k) rest; ((f, k) :: r.1, r.2)
    else ([(f, n)], (f + n, k - n) :: rest)

/-- Ranges without frames `a` to `a + n - 1`. -/
def cutFrames (a n : Nat) : List (Nat × Nat) → List (Nat × Nat)
  | [] => []
  | (f, k) :: rest =>
    [(f, min (f + k) a - f), (max f (a + n), f + k - max f (a + n))].filter (fun x => x.2 != 0) ++ cutFrames a n rest

/-! ### Pages and leaf entries (R165, R166, R320) -/

/-- The place, value and level of the leaf entry that maps an address (DEDUCED, log entry 29). -/
def leafPlace (m : Memory) (va : Nat) : Nat → Nat → Option (Nat × Word × Nat)
  | 0, base =>
    let a := base + 8 * (va / 2 ^ 16 % 512)
    let e := word (m.read a 8)
    if !e.getLsbD 0 || pteMalformed e 0 then none else some (a, e, 0)
  | l + 1, base =>
    let a := base + 8 * (va / 2 ^ pageShift (l + 1) % 512)
    let e := word (m.read a 8)
    if !e.getLsbD 0 || pteMalformed e (l + 1) then none
    else if e.getLsbD 1 then some (a, e, l + 1)
    else leafPlace m va l ((bits e 12 40).toNat * 4096)

/-- The leaf entry of a page under a root. -/
def pageLeaf (m : Memory) (root va : Word) : Option (Nat × Word × Nat) :=
  if bits va 52 12 != 0 then none else leafPlace m va.toNat 3 ((bits root 12 40).toNat * 4096)

/-- Tier of a leaf. -/
def tierOf (e : Word) : Nat := (bits e 3 2).toNat

/-- 64 KiB frame that a leaf names. -/
def frameOfLeaf (e : Word) : Nat := (bits e 16 36).toNat

/-- Entries of the table at `base` that memory lists. -/
def tableEntries (m : Memory) (base : Nat) : List Word :=
  (((Memory.below (base + 4096) (Memory.above base m.cells)).map fun c => c.1 / 8).dedup).map fun a => word (m.read (8 * a) 8)

/-- Frames that the pages of a tier hold in a table at level `l`. -/
def mappedFrames (m : Memory) (tier : Nat) : Nat → Nat → List (Nat × Nat)
  | 0, base => (tableEntries m base).filterMap fun e =>
      if !e.getLsbD 0 || pteMalformed e 0 || e.getLsbD 9 || tierOf e != tier then none else some (frameOfLeaf e, 1)
  | l + 1, base => (tableEntries m base).flatMap fun e =>
      if !e.getLsbD 0 || pteMalformed e (l + 1) then []
      else if e.getLsbD 1 then (if e.getLsbD 9 || tierOf e != tier then [] else [(frameOfLeaf e, 2 ^ (9 * (l + 1)))])
      else mappedFrames m tier l ((bits e 12 40).toNat * 4096)

/-- Roots of the address spaces that the innkeeper keeps. -/
def State.roots (s : State) : List Word :=
  ((s.streams.map (·.root)) ++ (s.sched.nodes.map (·.root)) ++ (s.cores.map (·.sup.ptbase)) ++ (s.sched.swapped.map (·.me.root))).dedup.filter (· != 0)

/-- Ranges of frames without those of other ranges. -/
def cutAll (held l : List (Nat × Nat)) : List (Nat × Nat) := held.foldl (fun l x => cutFrames x.1 x.2 l) l

/-- Frames that pages of a tier hold in any address space. -/
def State.framesAt (s : State) (tier : Nat) : List (Nat × Nat) :=
  s.roots.flatMap fun r => mappedFrames s.mem.hbm tier 3 ((bits r 12 40).toNat * 4096)

/-- HBM frames that nothing holds: neither the innkeeper's books, nor a tier-0 page of any address space, nor a page that the porter is moving
(R321). -/
def State.freeFrames (s : State) : List (Nat × Nat) := cutAll (s.framesAt 0 ++ s.porter.moves.map fun m => (m.frame, 1)) s.porter.hbmFree

/-- Second-tier frames that nothing holds: neither the books, nor a tier-1 page of any address space, nor a page in HBM or on its way as its origin
(R321). -/
def State.freeOrigins (s : State) : List (Nat × Nat) :=
  cutAll (s.framesAt 1 ++ (s.porter.origins.map fun o => (o.2, 1)) ++ s.porter.moves.map fun m => (m.origin, 1)) s.porter.cxlFree

/-- An origin is reserved (R321). -/
def State.takeOrigin (s : State) (o : Nat) : State := s.mapPorter fun p => { p with cxlFree := cutFrames o 1 p.cxlFree }

/-- The first of them, with the state in which the innkeeper has taken it. -/
def State.takeHbm (s : State) : Option (Nat × State) :=
  (takeFrame s.freeFrames).map fun x => (x.1, s.mapPorter fun p => { p with hbmFree := cutFrames x.1 1 p.hbmFree })

/-- The innkeeper takes a frame back. -/
def State.giveHbm (s : State) (frame : Nat) : State := s.mapPorter fun p => { p with hbmFree := (frame, 1) :: cutFrames frame 1 p.hbmFree }

/-- A leaf with another frame and tier. -/
def setLeaf (e : Word) (frame tier : Nat) : Word :=
  (e &&& 0xFFF0000000000FE7) ||| word (frame * 65536) ||| word (tier * 8)

/-- A table entry that the porter or the innkeeper writes takes effect for the walker at once (R167, R326). -/
def writeEntry (m : Mem) (a : Nat) (e : Word) : Mem :=
  { m with hbm := m.hbm.write a e.toNat 8, tables := m.tables.filter fun x => x.word != a / 8 }

/-- A leaf entry is written, and the translations of its page are dropped package-wide (R326, R327). -/
def State.writeLeaf (s : State) (va : Word) (pte : Nat) (e : Word) : State :=
  let drop (c : Core) : Core := { c with tlb := c.tlb.filter fun t => va.toNat / 2 ^ t.shift != t.va / 2 ^ t.shift }
  { s.mapMem fun m => writeEntry m pte e with core := drop s.core, parked := s.parked.map drop }

/-! ### Entries (R322, R324, R329) -/

/-- The entry that 32 bytes hold. -/
def parseEntry (l : List Byte) : ItEntry :=
  let k := field l 4 1
  { milestone := field l 0 4, kind := if k = 0 then .fetch else if k = 1 then .evict else if k = 2 then .pin else .drop, lead := field l 5 1
    prio := field l 6 1, nocheck := field l 7 1 % 2 == 1, count := field l 8 2, va := field8 l 16, startedAt := none, taken := 0, moved := [],
    cause := none }

/-- The bytes break R322 or R4. -/
def entryBad (l : List Byte) : Bool :=
  field l 0 4 == 0xFFFFFFFF || decide (3 < field l 4 1) || decide (1 < field l 7 1) || field l 8 2 == 0 || field l 10 6 != 0
    || field l 16 8 % 65536 != 0 || field l 24 8 != 0

/-- States of an entry (R337). -/
inductive EntryState where
  | idle | moving | done | failed
  deriving DecidableEq, Repr

/-- The state of an entry; `busy` says that a move of it is in progress (R329). -/
def ItEntry.state (e : ItEntry) (busy : Bool) : EntryState :=
  if e.startedAt.isNone then .idle else if e.moved.length = e.count then .done else if e.cause.isSome && !busy then .failed else .moving

/-- The bound itinerary of a node. -/
def State.itinOf (s : State) (handle : Nat) : Option Itin := s.porter.itins.find? fun i => i.handle == handle

/-- The itinerary of a node changed by `f`. -/
def State.mapItin (s : State) (handle : Nat) (f : Itin → Itin) : State :=
  s.mapPorter fun p => { p with itins := p.itins.map fun i => if i.handle = handle then f i else i }

/-- Entry `n` of the itinerary of a node changed by `f`. -/
def State.mapEntry (s : State) (handle n : Nat) (f : ItEntry → ItEntry) : State :=
  s.mapItin handle fun i => { i with entries := i.entries.modify n f }

/-- A move of the entry is in progress. -/
def State.busy (s : State) (handle n : Nat) : Bool := s.porter.moves.any fun m => m.handle == handle && m.entry == n

/-- The state of entry `n` of an itinerary. -/
def State.entryState (s : State) (i : Itin) (n : Nat) : EntryState :=
  match i.entries[n]? with
  | none => .idle
  | some e => e.state (s.busy i.handle n)

/-- Entries due at milestone `m` start, in ascending index, with start numbers from `n` on (R324). -/
def startEntries (m : Nat) : Nat → List ItEntry → List ItEntry × Nat
  | n, [] => ([], n)
  | n, e :: rest =>
    if e.startedAt.isNone && decide (e.milestone ≤ m + e.lead) then
      let r := startEntries m (n + 1) rest; ({ e with startedAt := some n } :: r.1, r.2)
    else let r := startEntries m n rest; (e :: r.1, r.2)

/-- ENTRY_START (R324). -/
def State.startDue (s : State) (handle m : Nat) : State :=
  match s.itinOf handle with
  | none => s
  | some i =>
    let r := startEntries m s.porter.starts i.entries
    (s.mapItin handle fun i => { i with entries := r.1 }).mapPorter fun p => { p with starts := r.2 }

/-! ### Page moves (R323, R325 to R329) -/

/-- Codes of R328. -/
def causeSpace : BitVec 6 := 2
/-- The link of the origin is down. -/
def causeLink : BitVec 6 := 3
/-- The page is not what its kind needs. -/
def causeFault : BitVec 6 := 4
/-- An uncorrectable error in a byte of the copy. -/
def causeData : BitVec 6 := 5
/-- Another node has pinned the page. -/
def causePinned : BitVec 6 := 6

/-- A page of an entry counts as moved (R323). -/
def State.pageMoved (s : State) (handle n p : Nat) : State := s.mapEntry handle n fun e => { e with moved := e.moved ++ [p] }

/-- A page of an entry is not moved: the first stops the entry with its cause (R329). -/
def State.pageStopped (s : State) (handle n : Nat) (c : BitVec 6) : State :=
  s.mapEntry handle n fun e => { e with cause := if e.cause.isSome then e.cause else some c }

/-- The next page of the entry has been taken. -/
def State.takePage (s : State) (handle n : Nat) : State := s.mapEntry handle n fun e => { e with taken := e.taken + 1 }

/-- The link of an origin is down (R319, R328). -/
def State.linkDown (s : State) (origin : Nat) : Bool := s.porter.linksDown.contains (Config.cxlPort origin)

/-- A frame returns: to the pool of the node whose entry freed it, or to the innkeeper (R321). -/
def State.freeFrame (s : State) (handle frame : Nat) : State :=
  let toPool := s.porter.pooled.contains frame && (s.itinOf handle).isSome
  let s' := s.mapPorter fun p => { p with pooled := p.pooled.filter (· != frame) }
  if toPool then s'.mapItin handle fun i => { i with free := (frame, 1) :: i.free }
  else s'.giveHbm frame

/-- What the next page of an entry does when its turn comes (R323). -/
inductive PageTurn where
  | waits
  | counts
  | stops (c : BitVec 6)
  | moves (m : Move)
  deriving DecidableEq, Repr

/-- An evict or drop entry of the node is moving (R326). -/
def State.freeing (s : State) (i : Itin) : Bool :=
  (List.range i.entries.length).any fun n => match i.entries[n]? with
    | none => false
    | some e => (e.kind == .evict || e.kind == .drop) && e.state (s.busy i.handle n) == .moving

/-- The treatment of page `e.taken` of entry `n` (R323, R326, R327). -/
def State.pageTurn (s : State) (i : Itin) (n : Nat) (e : ItEntry) : PageTurn :=
  let va := e.va + word (e.taken * 65536)
  let root := ((s.node i.handle).map (·.root)).getD 0
  match pageLeaf s.mem.hbm root va with
  | none => .stops causeFault
  | some (pte, leaf, level) =>
    let tier := tierOf leaf
    let mv : Move := { handle := i.handle, entry := n, page := e.taken, kind := e.kind, va := va, pte := pte, leaf := leaf, frame := 0, origin := 0 }
    let origin := (s.porter.origins.find? fun o => o.1 == pte).map (·.2)
    let pinnedElsewhere := s.porter.pins.any fun p => p.1 == pte && p.2 != i.handle
    if level ≠ 0 ∨ leaf.getLsbD 9 then .stops causeFault
    else if tier = 2 ∨ s.porter.moves.any fun m => m.pte == pte then .waits
    else match e.kind with
      | .fetch =>
        if tier = 0 then .counts
        else match takeFrame i.free with
          | none => if s.freeing i then .waits else .stops causeSpace
          | some (f, _) => if s.linkDown (frameOfLeaf leaf) then .stops causeLink else .moves { mv with frame := f, origin := frameOfLeaf leaf }
      | .evict =>
        if tier = 1 then .counts
        else if pinnedElsewhere then .stops causePinned
        else match origin.orElse fun _ => (takeFrame s.freeOrigins).map (·.1) with
          | none => .stops causeSpace
          | some o => if s.linkDown o then .stops causeLink else .moves { mv with frame := frameOfLeaf leaf, origin := o }
      | .drop =>
        if tier = 1 then .counts
        else if pinnedElsewhere then .stops causePinned
        else match origin with
          | none => .stops causeFault
          | some o => .moves { mv with frame := frameOfLeaf leaf, origin := o }
      | .pin => if tier = 0 then .moves { mv with frame := frameOfLeaf leaf } else .stops causeFault

/-- A started entry whose pages are not all taken. -/
structure Candidate where
  itin : Itin
  index : Nat
  entry : ItEntry
  start : Nat
  deriving DecidableEq, Repr

/-- A node pins a page no longer. -/
def State.unpin (s : State) (handle pte : Nat) : State :=
  s.mapPorter fun p => { p with pins := p.pins.filter fun q => !(q.1 == pte && q.2 == handle) }

/-- A page that an evict or drop entry of its node names is no longer pinned by the node (R323). -/
def State.endPin (s : State) (c : Candidate) : State :=
  let root := ((s.node c.itin.handle).map (·.root)).getD 0
  match c.entry.kind, pageLeaf s.mem.hbm root (c.entry.va + word (c.entry.taken * 65536)) with
  | .evict, some (pte, _, _) => s.unpin c.itin.handle pte
  | .drop, some (pte, _, _) => s.unpin c.itin.handle pte
  | .fetch, _ => s
  | .pin, _ => s
  | _, none => s

/-- A move begins: the page goes to tier 2, or stays for a pin; a fetch takes its frame, and an evict without an origin takes one; the origin is
reserved (R321, R323, R326, R327). -/
def State.beginMove (s : State) (m : Move) : State :=
  let s' := s.mapPorter fun p => { p with moves := p.moves ++ [m] }
  match m.kind with
  | .pin => s'
  | .fetch =>
    let s' := (s'.mapItin m.handle fun i => { i with free := ((takeFrame i.free).map (·.2)).getD i.free }).takeOrigin m.origin
    s'.mapMem fun x => writeEntry x m.pte (setLeaf m.leaf m.origin 2)
  | .evict | .drop =>
    let own := s.porter.origins.any fun o => o.1 == m.pte
    let s' := (s'.mapPorter fun p => { p with origins := if own then p.origins else (m.pte, m.origin) :: p.origins }).takeOrigin m.origin
    s'.writeLeaf m.va m.pte (setLeaf m.leaf m.frame 2)

/-- The candidates of an itinerary, by index from `n`. -/
def candidatesOf (i : Itin) : Nat → List ItEntry → List Candidate
  | _, [] => []
  | n, e :: rest => match e.startedAt with
    | some t => if e.cause.isNone && decide (e.taken < e.count) then ⟨i, n, e, t⟩ :: candidatesOf i (n + 1) rest else candidatesOf i (n + 1) rest
    | none => candidatesOf i (n + 1) rest

/-- The order of R325. -/
def Candidate.first (a b : Candidate) : Bool :=
  if a.entry.prio ≠ b.entry.prio then decide (b.entry.prio < a.entry.prio)
  else if a.start ≠ b.start then decide (a.start < b.start) else decide (a.index ≤ b.index)

/-- Candidates by the order of R325. -/
def insertCandidate (a : Candidate) : List Candidate → List Candidate
  | [] => [a]
  | b :: rest => if a.first b then a :: b :: rest else b :: insertCandidate a rest

/-- The first candidate whose page does not wait, with what the page does. -/
def State.firstTurn (s : State) : List Candidate → Option (Candidate × PageTurn)
  | [] => none
  | c :: rest => match s.pageTurn c.itin c.index c.entry with
    | .waits => s.firstTurn rest
    | t => some (c, t)

/-- PORTER_MOVE_START (R325): the next page of the started entries is treated, when a move slot is free. -/
def execPorterMoveStart (s : State) : Host.Outcome State Fault Refusal :=
  let all := (s.porter.itins.flatMap fun i => candidatesOf i 0 i.entries).foldr insertCandidate []
  if 64 ≤ s.porter.moves.length then .next s
  else match s.firstTurn all with
    | none => .next s
    | some (c, t) =>
      let s' := (s.takePage c.itin.handle c.index).endPin c
      match t with
      | .waits => .next s
      | .counts => .next (s'.pageMoved c.itin.handle c.index c.entry.taken)
      | .stops x => .next (s'.pageStopped c.itin.handle c.index x)
      | .moves m => .next (s'.beginMove m)

/-- The move that a step names, with the state in which it is no longer in progress. -/
def State.endMove (s : State) (k : PKind) : Option (Move × State) :=
  match s.porter.moves[Choice.nth s.choice]? with
  | none => none
  | some m => if m.kind = k then some (m, s.mapPorter fun p => { p with moves := p.moves.erase m }) else none

/-- MOVE_FAILED (R328): the page goes back to the tier and frame it held, and the entry stops. -/
def State.moveFailed (s : State) (m : Move) (c : BitVec 6) : State :=
  let s' := (s.writeLeaf m.va m.pte m.leaf).pageStopped m.handle m.entry c
  if m.kind = .fetch then (s'.mapPorter fun p => { p with pooled := m.frame :: p.pooled }).freeFrame m.handle m.frame else s'

/-- Bytes of a 64 KiB frame. -/
def frameBytes : Nat := 65536

/-- An uncorrectable error lies in a frame, by granule of 32 bytes. -/
def frameBad (bad : List Nat) (frame : Nat) : Bool := bad.any fun g => g / 2048 == frame

/-- FETCH_COMPLETE (R326, R328). -/
def execFetchComplete (s : State) : Host.Outcome State Fault Refusal :=
  match s.endMove .fetch with
  | none => .next s
  | some (m, s') =>
    if frameBad s.mem.badCxl m.origin then .next (s'.moveFailed m causeData)
    else
      let s' := s'.mapMem fun x => writeBytesLoc x (.hbm (m.frame * frameBytes)) (x.cxl.bytes (m.origin * frameBytes) frameBytes)
      let s' := s'.mapPorter fun p => { p with origins := (m.pte, m.origin) :: p.origins, pooled := m.frame :: p.pooled }
      .next ((s'.writeLeaf m.va m.pte (setLeaf m.leaf m.frame 0)).pageMoved m.handle m.entry m.page)

/-- An access that translated a page of the frame before is not performed yet (R327). -/
def State.frameInUse (s : State) (frame : Nat) : Bool := s.mem.ops.any fun o => match o.loc with
  | .hbm a => a / frameBytes == frame
  | _ => false

/-- The page lies at its origin again (R327). -/
def State.sendHome (s : State) (m : Move) : State :=
  let s' := (s.writeLeaf m.va m.pte (setLeaf m.leaf m.origin 1)).mapPorter fun p => { p with origins := p.origins.filter fun o => o.1 != m.pte }
  (s'.freeFrame m.handle m.frame).pageMoved m.handle m.entry m.page

/-- EVICT_COMPLETE (R327, R328). -/
def execEvictComplete (s : State) : Host.Outcome State Fault Refusal :=
  match s.endMove .evict with
  | none => .next s
  | some (m, s') =>
    if s.frameInUse m.frame then .next s
    else if frameBad s.mem.badHbm m.frame then .next (s'.moveFailed m causeData)
    else .next ((s'.mapMem fun x => writeBytesLoc x (.cxl (m.origin * frameBytes)) (x.hbm.bytes (m.frame * frameBytes) frameBytes)).sendHome m)

/-- DROP_COMPLETE (R327). -/
def execDropComplete (s : State) : Host.Outcome State Fault Refusal :=
  match s.endMove .drop with
  | none => .next s
  | some (m, s') => if s.frameInUse m.frame then .next s else .next (s'.sendHome m)

/-- PIN_COMPLETE (R323). -/
def execPinComplete (s : State) : Host.Outcome State Fault Refusal :=
  match s.endMove .pin with
  | none => .next s
  | some (m, s') =>
    if (s.itinOf m.handle).isNone then .next s'
    else .next ((s'.mapPorter fun p => { p with pins := (m.pte, m.handle) :: p.pins }).pageMoved m.handle m.entry m.page)

/-- Moves through a link fail (R328). -/
def State.failLink (s : State) (p : BitVec 3) : List Move → State
  | [] => s
  | m :: rest =>
    if (m.kind = .fetch ∨ m.kind = .evict) ∧ Config.cxlPort m.origin = p then
      ((s.mapPorter fun q => { q with moves := q.moves.erase m }).moveFailed m causeLink).failLink p rest
    else s.failLink p rest

/-- CXL_LINK_DOWN (R328). -/
def execCxlLinkDown (s : State) : Host.Outcome State Fault Refusal :=
  match s.choice with
  | .port p =>
    if 8 ≤ p.toNat then .next s
    else
      let q : BitVec 3 := p.setWidth 3
      let s' := if s.porter.linksDown.contains q then s else s.mapPorter fun x => { x with linksDown := q :: x.linksDown }
      .next (s'.failLink q s.porter.moves)
  | _ => .next s

/-- ITINERARY_UNBIND (R332). -/
def State.unbindItin (s : State) (handle : Nat) : State :=
  match s.itinOf handle with
  | none => s
  | some i => s.mapPorter fun p => { p with
      itins := p.itins.filter fun x => x.handle != handle
      pins := p.pins.filter fun x => x.2 != handle
      hbmFree := i.free ++ p.hbmFree }

/-- The innkeeper makes a tier-1 page present (R287): a frame of the node's pool, else one from outside every pool. Nothing happens
when there is none, or the page cannot be read (DESIGN CHOICE, log entry 65). -/
def State.makePresent (s : State) (va : Word) : Option State :=
  let page := word (va.toNat / frameBytes * frameBytes)
  match pageLeaf s.mem.hbm s.core.sup.ptbase page with
  | none => none
  | some (pte, leaf, level) =>
    let o := frameOfLeaf leaf
    if level ≠ 0 ∨ leaf.getLsbD 9 ∨ tierOf leaf ≠ 1 ∨ s.linkDown o ∨ frameBad s.mem.badCxl o then none
    else
      let pool := (s.itinOf s.core.me.handle).bind fun i => takeFrame i.free
      let place (s' : State) (f : Nat) : State :=
        (s'.mapMem fun x => writeBytesLoc x (.hbm (f * frameBytes)) (x.cxl.bytes (o * frameBytes) frameBytes)).mapPorter
          (fun p => { p with origins := (pte, o) :: p.origins }) |>.takeOrigin o |>.writeLeaf page pte (setLeaf leaf f 0)
      match pool with
      | some (f, rest) =>
        some (place ((s.mapItin s.core.me.handle fun i => { i with free := rest }).mapPorter fun p => { p with pooled := f :: p.pooled }) f)
      | none => match s.takeHbm with
        | none => none
        | some (f, t) => some (place t f)

/-! ### The ITIN instructions (R333 to R337) -/

/-- Every earlier access of the thread has been performed (R334): its own, not those of its commands. One that has failed is not reported here. -/
def State.awaitAccesses (s : State) : Except Halt Unit := do
  s.drainOps
  if s.fab.reqs.any fun r => s.mine r && (match r.use with | .far cmd _ => cmd.isNone | .line _ _ => false | _ => true) then .error .wait
  .ok ()

/-- The lowest fetch due at `m` or earlier that is not done, from index `n` (R330). -/
def State.missed (s : State) (i : Itin) (m : Nat) : Nat → List ItEntry → Option (Nat × ItEntry)
  | _, [] => none
  | n, e :: rest =>
    if e.kind == .fetch && !e.nocheck && decide (e.milestone ≤ m) && s.entryState i n != .done then some (n, e) else s.missed i m (n + 1) rest

/-- Detail of a schedule miss (R330). -/
def State.missDetail (s : State) (i : Itin) (n : Nat) (e : ItEntry) : BitVec 8 :=
  if s.entryState i n = .failed then (e.cause.getD 1).setWidth 8 else 1

/-- `mile` (R334). Under schedule miss the post stands (DEDUCED, log entry 45). -/
def execMile (a : Reg) (s : State) : Host.Outcome State Fault Refusal :=
  outcome s do
    s.awaitAccesses
    let m := s.x a
    s.illegalIf (.mile a) (decide (0xFFFFFFFE < m.toNat) || (s.st.milestone != 0xFFFFFFFF && decide (m.toNat < s.st.milestone.toNat))) 0x06
    let h := s.core.me.handle
    let s := (s.sync).mapSt fun t => { t with milestone := m }
    match s.itinOf h with
    | none => .ok (s.complete 4)
    | some i => do
      let rises := i.reached.all fun r => decide (r < m.toNat)
      let s := if rises then (s.mapItin h fun i => { i with reached := some m.toNat }).startDue h m.toNat else s
      match s.itinOf h with
      | none => .ok (s.complete 4)
      | some i => match s.missed i m.toNat 0 i.entries with
        | none => .ok (s.complete 4)
        | some (n, e) => .error (.partly ⟨0x0A, s.missDetail i n e, word n, 0⟩ s)

/-- `itin` of every thread of a node that is on a core, and of the node (R335); those swapped out carry it in their images. -/
def State.setItin (s : State) (handle : Nat) (w : Word) : State :=
  let f (c : Core) : Core := if c.run ≠ .idle ∧ c.me.handle = handle then { c with sc := { c.sc with st := { c.sc.st with itin := w } } } else c
  let images := (s.sched.swapped.filter fun t => t.me.handle == handle).map fun t => t.me.image.toNat + 0xC00 + 8 * 0x60
  let s' := { s with core := f s.core, parked := s.parked.map f }
  (s'.mapMem fun m => { m with hbm := images.foldl (fun h a => h.write a w.toNat 8) m.hbm }).mapNode handle fun n => { n with itin := w }

/-- The entries in `n` records of 32 bytes, or BADITIN. -/
def parseEntries : Nat → List Byte → Option (List ItEntry)
  | 0, _ => some []
  | n + 1, l => if entryBad (l.take 32) then none else (parseEntries n (l.drop 32)).map (parseEntry (l.take 32) :: ·)

/-- `it.bind` (R335) (DEDUCED, log entry 45). -/
def execItBind (a n : Reg) (s : State) : Host.Outcome State Fault Refusal :=
  outcome s do
    let va := s.x a
    let cnt := (s.x n).toNat
    let h := s.core.me.handle
    raiseIf (!aligned va 32) 0x06 32 va
    badId (cnt == 0 || decide (4096 < cnt))
    match s.itinOf h with
    | some i =>
      if i.base = va ∧ i.entries.length = cnt then .ok ((s.mapSt fun t => { t with itin := va }).complete 4) else raise 0x0E 0x11
    | none => do
      let r ← s.readUnits va (4 * cnt)
      let s := r.2
      match parseEntries cnt r.1 with
      | none => raise 0x0E 0x10
      | some es => do
        raiseIf (decide (65536 < (s.porter.itins.map fun i => i.entries.length).sum + cnt)) 0x0E 0x12 0
        let pool := ((s.node h).map (·.pool)).getD 256
        raiseIf (decide (countFrames s.freeFrames < pool)) 0x0E 0x18 0
        let f := takeFrames pool s.freeFrames
        let i : Itin := { handle := h, base := va, entries := es, reached := none, granted := pool, free := f.1 }
        let s := (s.mapPorter fun p => { p with itins := p.itins ++ [i], hbmFree := f.1.foldl (fun l x => cutFrames x.1 x.2 l) p.hbmFree }).setItin h va
        .ok (((s.startDue h 0).mapSt fun t => { t with itin := va }).complete 4)

/-- The itinerary bound to the thread's node, or NOITIN (R333). -/
def State.myItin (s : State) : Except Halt Itin :=
  match s.itinOf s.core.me.handle with
  | none => raise 0x0E 0x13
  | some i => .ok i

/-- `it.wait` (R336). -/
def execItWait (i : Reg) (s : State) : Host.Outcome State Fault Refusal :=
  outcome s do
    let it ← s.myItin
    let n := (s.x i).toNat
    badId (decide (it.entries.length ≤ n))
    match s.entryState it n with
    | .idle => .error .sleep
    | .moving => .error .sleep
    | .done => .ok (s.sync.complete 4)
    | .failed => .ok (s.sync.complete 4)

/-- Code of a state (R337). -/
def EntryState.code : EntryState → BitVec 2
  | .idle => 0 | .moving => 1 | .done => 2 | .failed => 3

/-- The lowest page from `p` on that is not moved, within `fuel` pages. -/
def firstUnmoved (moved : List Nat) : Nat → Nat → Nat
  | 0, p => p
  | fuel + 1, p => if moved.contains p then firstUnmoved moved fuel (p + 1) else p

/-- The status word of an entry (R337). -/
def State.entryStatus (s : State) (i : Itin) (n : Nat) (e : ItEntry) : Word :=
  let st := s.entryState i n
  EntryState.code st ++ (if st = .failed then e.cause.getD 0 else 0#6) ++ 0#24 ++ BitVec.ofNat 16 e.moved.length
    ++ BitVec.ofNat 16 (firstUnmoved e.moved e.count 0)

/-- `it.stat` (R337). -/
def execItStat (d i : Reg) (s : State) : Host.Outcome State Fault Refusal :=
  outcome s do
    let it ← s.myItin
    let n := s.x i
    if n = BitVec.allOnes 64 then
      .ok ((s.setX d (match it.reached with | some r => word r | none => 0xFFFFFFFF)).complete 4)
    else if n = BitVec.allOnes 64 - 1 then
      .ok ((s.setX d (BitVec.ofNat 32 it.granted ++ BitVec.ofNat 32 (countFrames it.free))).complete 4)
    else match it.entries[n.toNat]? with
      | none => badId true *> .ok s
      | some e => .ok ((s.setX d (s.entryStatus it n.toNat e)).complete 4)

end Sys2Proof.Machine
end

