-- ==== Sys2Proof/Machine/Claim.lean ====
section
/-! DEFINITION. The claim store: members (R381, R382), courier messages (R384 to R386), claims from proposal to close (R387 to R394) and
the CLAIM instructions (R395 to R399). -/

namespace Sys2Proof.Machine

/-! ### Groups and members (R381, R382) -/

/-- Lmax of a group's span, in ns (R382). -/
def Group.lmax (g : Group) : Nat := if g.domain then 1200 else 96

/-- ε of a group's span, in ns (R382). -/
def Group.eps (g : Group) : Nat := if g.domain then Part.epsDomain else 0

/-- The least window of the group's span (R382). -/
def Group.minW (g : Group) : Nat := 2 * g.lmax + 2 * g.eps

/-- Endpoint of this package (R382). -/
def packageEp : BitVec 16 := Config.packageNumber.setWidth 16

/-- Endpoint of a core (R382). -/
def coreEp (c : Nat) : BitVec 16 := BitVec.ofNat 16 (0x8000 + c)

/-- The claim store changed by `f`. -/
def State.mapClaims (s : State) (f : ClaimStore → ClaimStore) : State := { s with claims := f s.claims }

/-- What a member of a group keeps. -/
def State.member (s : State) (tag : Word) (ep : BitVec 16) : Option ClaimMember :=
  s.claims.members.find? fun m => m.group.tag == tag && m.ep == ep

/-- What a member keeps, changed by `f`. -/
def State.mapMember (s : State) (tag : Word) (ep : BitVec 16) (f : ClaimMember → ClaimMember) : State :=
  s.mapClaims fun c => { c with members := c.members.map fun m => if m.group.tag = tag ∧ m.ep = ep then f m else m }

/-- Close time of a claim (R387). -/
def Claim.tc (c : Claim) : Nat := c.t0 + c.w

/-- Deadline of a claim (R387). -/
def Claim.deadline (c : Claim) (g : Group) : Int := (c.tc : Int) - g.lmax - g.eps

/-- The pair of `a` is smaller than that of `b` (R387). -/
def Claim.before (a b : Claim) : Bool := decide (a.t0 < b.t0) || (a.t0 == b.t0 && decide (a.who.toNat < b.who.toNat))

/-- The claim of a handle at a member. -/
def ClaimMember.find (m : ClaimMember) (h : Word) : Option Claim := m.claims.find? fun c => c.handle == h

/-- A claim of a member changed by `f`. -/
def ClaimMember.mapClaim (m : ClaimMember) (h : Word) (f : Claim → Claim) : ClaimMember :=
  { m with claims := m.claims.map fun c => if c.handle = h then f c else c }

/-- Open proposals of the member itself (R393). -/
def ClaimMember.openOwn (m : ClaimMember) : Nat := (m.claims.filter fun c => c.who == m.ep && c.outcome.isNone).length

/-- Claims open at the package (R393). -/
def State.openClaims (s : State) : Nat :=
  (s.claims.members.flatMap fun m => (m.claims.filter fun c => c.outcome.isNone).map fun c => (m.group.tag, c.handle)).dedup.length

/-- Time t0 + `extra` of the handle has passed. A handle holds t0 modulo 2 ^ 48, of which the time nearest to now is meant (R387)
(DEDUCED, log entry 46). -/
def State.handlePassed (s : State) (h : Word) (extra : Nat) : Bool :=
  let d := ((s.ftime : Int) - (h.toNat / 65536 : Nat) - extra) % 2 ^ 48
  decide (0 < d) && decide (d < 2 ^ 47)

/-! ### Notices (R379, R381, R392) -/

/-- The slot in which a node has a member's group, with the descriptor that was bound when the node was accepted (R381, R406). -/
def Node.binding (n : Node) (m : ClaimMember) : Option (Nat × Group) := n.slots.find? fun x => x.2.tag == m.group.tag

/-- A node that acts as a member, with the slot, the descriptor and the allotment that holds the member's ring. -/
structure Seat where
  node : Node
  slot : Nat
  group : Group
  allot : Allot
  deriving DecidableEq, Repr

/-- The allotment of a node that holds the ring of a member (R381). -/
def State.seatAt (s : State) (m : ClaimMember) (n : Node) : Option Seat :=
  (n.binding m).bind fun x =>
    (if x.2.domain then findAllot s.mem.allots n.handle 0 else findCoreAllot s.mem.allots n.handle (m.ep.toNat % 0x8000)).map fun a => ⟨n, x.1, x.2, a⟩

/-- The node that acts as a member: the oldest that has the group bound and holds the allotment of the ring (DESIGN CHOICE, log entry 49). -/
def State.memberSeat (s : State) (m : ClaimMember) : Option Seat := s.sched.nodes.findSome? (s.seatAt m)

/-- The descriptor that rules a member: that of its node, else the latest. -/
def State.memberGroup (s : State) (m : ClaimMember) : Group := ((s.memberSeat m).map (·.group)).getD m.group

/-- Place of byte `off` of the ring of a member, when the ring lies inside the allotment. -/
def Seat.ringLoc (x : Seat) (ep : BitVec 16) (off : Nat) : Option Loc :=
  match x.group.members.find? fun y => y.1 == ep with
  | none => none
  | some (_, ring) => if ring + 2048 ≤ x.allot.spad then some (.spad (x.allot.id * 2 ^ 20 + ring + off)) else none

/-- A notice is written: every other field first, and then seq, with release at `.pkg` by the claim store (R227, R379), which passes on what it has
acquired itself: the proposer's writes of a TAKEN claim (R246). -/
def writeNotice (m : Mem) (l : Loc) (low high : List Byte) (seq : Nat) (seen : List Nat) : Mem :=
  passOn (writeLoc (writeBytesLoc (writeBytesLoc m l low) (l.up 24) high) (l.up 16) 8 seq) (l.up 16) 8 atPackage (seen.map fun r => (r, .pkg))

/-- A notice is posted: its seq number is used even when it cannot be written (R381) (DEDUCED, log entry 48). -/
def State.notice (s : State) (m : ClaimMember) (c : Claim) (kind : Nat) (outcome : BitVec 4) (seen : List Nat) : State :=
  let n := m.seq + 1
  let low := bytesOf c.handle.toNat 8 ++ bytesOf c.payload.toNat 8
  let high (slot : Nat) := bytesOf c.key.toNat 2 ++ [BitVec.ofNat 8 kind, outcome.setWidth 8, BitVec.ofNat 8 slot, 0, 0, 0]
  let s' := s.mapMember m.group.tag m.ep fun x => { x with seq := n }
  match (s.memberSeat m).bind fun x => (x.ringLoc m.ep (32 * ((n - 1) % 64))).map fun l => (l, x.slot) with
  | none => s'
  | some (l, slot) => s'.mapMem fun x => writeNotice x l low (high slot) n seen

/-- The seq words of a ring are set to 0 when its allotment is reserved (R381). -/
def State.clearRing (s : State) (x : Seat) (ep : BitVec 16) : State :=
  match x.ringLoc ep 0 with
  | none => s
  | some l => s.mapMem fun m => (List.range 64).foldl (fun m i => writeLoc m (l.up (32 * i + 16)) 8 0) m

/-- The rings in the allotment that a thread of a node has just received. -/
def State.clearRings (s : State) (n : Node) (a : Allot) : State :=
  s.claims.members.foldl (fun s m => match s.seatAt m n with
    | none => s
    | some x => if x.allot = a then s.clearRing x m.ep else s) s

/-! ### Messages (R384, R385, R388, R389) -/

/-- When a message of time `t` has reached a member by `now` (R384): a step of the clock over the end of its bound does not make it late, so that an
objection of the deadline still arrives before the close (DEDUCED, log entry 50). -/
def Group.arrival (g : Group) (now t : Nat) : Nat := min now (t + g.lmax + g.eps - 1)

/-- A claim with an objection of time `t` that has reached the member by `now` (R388). -/
def Claim.objectAt (c : Claim) (g : Group) (now t : Nat) : Claim :=
  if c.outcome.isNone ∧ g.arrival now t < c.tc ∧ (t : Int) ≤ c.deadline g then { c with objected := true } else c

/-- An objection reaches a member, known claim or not (R388). -/
def State.objectionAt (s : State) (m : ClaimMember) (h : Word) (t : Nat) : State :=
  s.mapMember m.group.tag m.ep fun x => match x.find h with
    | none => { x with held := x.held ++ [(h, t)] }
    | some _ => x.mapClaim h fun c => c.objectAt x.group s.ftime t

/-- Members of a group in this package other than `ep`, and in other packages. -/
def Group.others (g : Group) (ep : BitVec 16) : List (BitVec 16) := (g.members.map (·.1)).filter (· != ep)

/-- The flit of a message: kind 0 proposal, 1 objection, 2 breach notice (R385). -/
def Courier.flit (m : Courier) (kind : Nat) : List Byte :=
  [BitVec.ofNat 8 kind, 0] ++ bytesOf m.sender.toNat 2 ++ bytesOf m.tag.toNat 8 ++ bytesOf m.handle.toNat 8 ++ bytesOf m.key.toNat 2
    ++ bytesOf m.w.toNat 4 ++ bytesOf m.payload.toNat 8 ++ bytesOf m.tsend 8 ++ List.replicate 22 0

/-- A breach notice of this package (R385). Its key is 0 (DEDUCED, log entry 47). -/
def breachNotice (t : Nat) : Courier := { sender := packageEp, tag := 0, handle := 0, key := 0, w := 0, payload := 0, tsend := t }

/-- The message has the form of a breach notice (R385). -/
def Courier.isBreach (m : Courier) : Bool := m.tag == 0 && m.handle == 0 && m.w == 0 && m.payload == 0

/-- A breach notice of time `t` originates here: it reaches the package's own store, and leaves for the others (R386) (DEDUCED, log entry 47). -/
def State.originateBreach (s : State) (t : Nat) : State :=
  s.mapClaims fun c => { c with breaches := c.breaches ++ [t], sentBreaches := c.sentBreaches ++ [breachNotice t] }

/-- The package takes its time as outside its bound: the flag of R367 is set, which originates a breach notice (R386). The AMK-2048-L has a time base of
its own (R9). -/
def State.loseTime (s : State) : State :=
  if s.fab.timeFlag || !s.part.hasFab then s else ({ s with fab := { s.fab with timeFlag := true } } : State).originateBreach s.ftime

/-- A courier message leaves for the other members of a group; a package outside its clock bound sends a breach notice with it (R386). -/
def State.courierSend (s : State) (g : Group) (ep : BitVec 16) (objection : Bool) (m : Courier) (seen : List Nat) : State :=
  let s' := s.mapClaims fun c => { c with flights := c.flights ++ [⟨objection, m, g.others ep, seen⟩] }
  if s.fab.timeFlag then s'.originateBreach m.tsend else s'

/-- A member objects at time `t` to the claim of handle `h` on `key`: its own store at once, then the others (R388, R389). -/
def State.sendObjection (s : State) (m : ClaimMember) (h : Word) (key : BitVec 16) (t : Nat) : State :=
  let msg : Courier := { sender := m.ep, tag := m.group.tag, handle := h, key := key, w := 0, payload := 0, tsend := t }
  (s.objectionAt m h t).courierSend m.group m.ep true msg []

/-- The t0 that a handle names, as the time nearest to `now` (DEDUCED, log entry 46). -/
def nearT0 (now : Nat) (h : Word) : Nat :=
  let d := ((h.toNat / 65536 : Nat) - (now : Int)) % 2 ^ 48
  (now + (if d < 2 ^ 47 then d else d - 2 ^ 48) : Int).toNat

/-- The package keeps as many open claims as it can, and the claim of a handle is not among them (R393). -/
def State.claimsFull (s : State) (tag h : Word) : Bool :=
  decide (4096 ≤ s.openClaims) && !s.claims.members.any fun m => m.group.tag == tag && m.claims.any fun c => c.handle == h && c.outcome.isNone

/-- A proposal reaches a member: it opens the claim, meets the objections held for it, posts a notice, and draws the member's standing
objection (R379, R388, R389). A proposal that would open one claim more than the package keeps is lost (R393) (DESIGN CHOICE, log entry 106). -/
def State.proposalAt (s : State) (m : ClaimMember) (p : Courier) (seen : List Nat) : State :=
  if (m.find p.handle).isSome || s.claimsFull m.group.tag p.handle then s
  else
    let c : Claim := { handle := p.handle, t0 := p.tsend, w := p.w.toNat, key := p.key, payload := p.payload, who := p.sender, objected := false,
                       outcome := none, effectFailed := none, seen := seen }
    let held := (m.held.filter fun x => x.1 == p.handle).map (·.2)
    let c := held.foldl (fun c t => c.objectAt m.group s.ftime t) c
    let s' := s.mapMember m.group.tag m.ep fun x => { x with claims := x.claims ++ [c], held := x.held.filter fun y => y.1 != p.handle }
    let s' := s'.notice m c 1 0 []
    if m.holds.any fun x => x.1 == p.key then s'.sendObjection m p.handle p.key (m.group.arrival s.ftime p.tsend) else s'

/-- The message in flight for a member, with the state in which it has reached it. -/
def State.landFlight (s : State) (objection : Bool) (m : Courier) (dest : BitVec 16) : Option (Flight × State) :=
  match s.claims.flights.find? fun f => f.objection == objection && f.msg == m && f.dests.contains dest with
  | none => none
  | some f => some (f, s.mapClaims fun c => { c with
      flights := (c.flights.map fun g => if g = f then { g with dests := g.dests.filter (· != dest) } else g).filter fun g => !g.dests.isEmpty })

/-- A message of a group that must have reached a core of this package by now is still in flight: to the member, or to another that may object when it
arrives (R384, R389) (DEDUCED, log entry 50). -/
def State.overdue (s : State) (m : ClaimMember) : Bool :=
  s.claims.flights.any fun f => f.msg.tag == m.group.tag && !m.group.domain && decide (f.msg.tsend + m.group.lmax ≤ s.ftime)

/-- The state after a message has reached a member of this package, with the regions that its release covers: one of this package's own
cores, in flight, or one that another package has sent and the plane can still deliver (R384) (DEDUCED, log entry 50). -/
def State.receive (s : State) (objection : Bool) (m : Courier) (dest : BitVec 16) : Option (ClaimMember × List Nat × State) :=
  match s.member m.tag dest with
  | none => none
  | some x =>
    if x.group.domain then
      if m.sender ≠ packageEp ∧ (x.group.members.any fun y => y.1 == m.sender) ∧ s.ftime ≤ m.tsend + x.group.lmax + x.group.eps then some (x, [], s)
      else none
    else match s.landFlight objection m dest with
      | none => none
      | some (f, s') => some (x, f.seen, s')

/-- PROPOSAL_RECEIVED (R389). -/
def execProposalReceived (s : State) : Host.Outcome State Fault Refusal :=
  match s.choice with
  | .courier m dest => match s.receive false m dest with
    | none => .next s
    | some (x, seen, s') => .next (s'.proposalAt x m seen)
  | _ => .next s

/-- OBJECTION_RECEIVED (R388). -/
def execObjectionReceived (s : State) : Host.Outcome State Fault Refusal :=
  match s.choice with
  | .courier m dest => match s.receive true m dest with
    | none => .next s
    | some (x, _, s') => .next (s'.objectionAt x m.handle m.tsend)
  | _ => .next s

/-- The plane can deliver a message of another package of time `t` now (R384). -/
def State.inTransit (s : State) (t : Nat) : Bool := decide (t ≤ s.ftime + Part.epsDomain) && decide (s.ftime ≤ t + 1200 + Part.epsDomain)

/-- BREACH_NOTICE_RECEIVED (R390): a notice of another package or of a stage node. -/
def execBreachNoticeReceived (s : State) : Host.Outcome State Fault Refusal :=
  match s.choice with
  | .breach m =>
    if Courier.isBreach m && m.sender != packageEp && s.inTransit m.tsend then .next (s.mapClaims fun c => { c with breaches := c.breaches ++ [m.tsend] })
                 else .next s
  | _ => .next s

/-- BREACH_NOTICE_ORIGINATE (R386). A package originates one as it sets the flag of R367, and this step is that setting where it finds
the flag clear. -/
def execBreachNoticeOriginate (s : State) : Host.Outcome State Fault Refusal :=
  match s.choice with
  | .cause .timeFlag => .next s.loseTime
  | .cause .pathFailed => .next (s.originateBreach s.ftime)
  | .cause .spaceLost => .next (s.originateBreach s.ftime)
  | _ => .next s

/-- HELD_OBJECTION_DISCARD (R388). -/
def execHeldObjectionDiscard (s : State) : Host.Outcome State Fault Refusal :=
  match s.choice with
  | .claim tag ep h =>
    if s.handlePassed h 1048576 ∧ !((s.member tag ep).any s.overdue) then .next (s.mapMember tag ep fun m => { m with held := m.held.filter fun x => x.1 != h })
                       else .next s
  | _ => .next s

/-! ### Closing (R390, R391) -/

/-- Outcome codes (R378). -/
def taken : BitVec 4 := 1
/-- REFUSED. -/
def refusedClaim : BitVec 4 := 2
/-- YIELDED. -/
def yielded : BitVec 4 := 3
/-- BREACHED. -/
def breached : BitVec 4 := 4

/-- The claim yields to another (R390). -/
def Claim.yields (x : Claim) (l : List Claim) : Bool :=
  l.any fun y => y.handle != x.handle && y.key == x.key && y.before x && decide (x.t0 ≤ y.t0 + x.w) && decide (x.t0 ≤ y.tc)

/-- The decision of R390. -/
def decideClaim (g : Group) (breaches : List Nat) (known : List Claim) (x : Claim) : BitVec 4 :=
  if breaches.any fun t => decide (x.t0 ≤ t + x.w) && decide ((t : Int) ≤ x.deadline g) then breached
  else if x.objected then refusedClaim
  else if x.yields known then yielded else taken

/-- The addresses of the node of a member, or of its stream when no node is there (R391). -/
def State.memberSpace (s : State) (m : ClaimMember) : Space :=
  match s.memberSeat m with
  | some x => cmdSpace x.node.root x.node.handle x.allot.wid
  | none => cmdSpace (((s.stream m.stream).map (·.root)).getD 0) 0 0

/-- `STEP` of a context on every die (R391, R407). -/
def State.setStepAll (s : State) (ctx : Nat) (v : Word) : State := (List.range s.part.dies).foldl (fun s d => s.setStep d ctx v) s

/-- Who makes the effect store of a member to a fabric window, as a handle and wid that no thread has. -/
def effectBy (m : ClaimMember) : FarBy := ⟨0, 2 ^ 64 + m.group.tag.toNat, m.ep.toNat, 0, none⟩

/-- Address of the effect of a claim at a member (R391). -/
def State.effectAddr (s : State) (m : ClaimMember) (c : Claim) : Word := (s.memberGroup m).effect + word (8 * c.key.toNat)

/-- What has become of a member's effect store to a fabric window. -/
def State.effectAns (s : State) (m : ClaimMember) (c : Claim) : Option FarAns :=
  s.farAns (effectBy m).handle (effectBy m).wid none true (s.effectAddr m c) 8

/-- The effect store of a TAKEN claim (R391), by an agent at the package (R227): the state after it, and the address when it failed, or the state in
which it awaits the answer to its packet (DESIGN CHOICE, log entry 51). It releases what the proposer had acquired and done, at `.sys` (R246). -/
def State.effectStore (s : State) (m : ClaimMember) (c : Claim) : Except State (State × Option Word) :=
  let va := s.effectAddr m c; let b := effectBy m
  match Machine.locate s.part s.mem (s.memberSpace m) va 8 .store with
  | .error _ => .ok (s, some va)
  | .ok (.fabric win _) => match s.effectAns m c with
    | some (.data _) => .ok (s.dropFar b.handle b.wid none, none)
    | some (.failed _ _) => .ok (s.dropFar b.handle b.wid none, some va)
    | some .awaited => .error s
    | none => .error (s.farSend b .write ⟨.rel, .sys, c.seen.map fun r => ⟨r, .sys, false⟩⟩ win va 8 (bytesOf c.payload.toNat 8))
  | .ok l => match badAt s.mem l with
    | some _ => .ok (s, some va)
    | none => .ok (s.mapMem fun x => passOn (writeLoc x l 8 c.payload.toNat) l 8 atPackage (c.seen.map fun r => (r, .sys)), none)

/-- The group bound to a slot of the thread's node (R28). -/
def State.slotGroup (s : State) (g : Nat) : Option Group :=
  (s.node s.core.me.handle).bind fun n => (n.slots.find? fun x => x.1 == g).map (·.2)

/-- The slot is one of those that the thread's node has (R395). -/
def State.hasSlot (s : State) (g : Nat) : Bool := (s.node s.core.me.handle).any fun n => decide (g < n.record.cgslots)

/-- The member as which the thread acts in a slot, under the descriptor bound to its node, or NOGROUP (R395) (DESIGN CHOICE, log entry 49). -/
def State.actsAs (s : State) (g : BitVec 4) : Except Halt ClaimMember :=
  match (s.slotGroup g.toNat).filter fun _ => s.hasSlot g.toNat with
  | none => raise 0x0E 0x16
  | some grp => match s.member grp.tag (if grp.domain then packageEp else coreEp s.core.id) with
    | none => raise 0x0E 0x16
    | some m => .ok { m with group := grp }

/-- The claim that the `cl.wait` at the PC of the active core names: tag, endpoint and handle. -/
def State.claimAt (s : State) : Option (Word × BitVec 16 × Word) :=
  match s.atPc with
  | .ok (.clWait _ r g) => match s.actsAs g with
    | .ok x => some (x.group.tag, x.ep, s.x r)
    | .error _ => none
  | _ => none

/-- The sleepers of a claim of a member are woken, on their cores or swapped out (R379, R391). -/
def State.wakeClaim (s : State) (m : ClaimMember) (h : Word) : State :=
  let c := some (m.group.tag, m.ep, h)
  let wake (k : Core) : Core := if k.run = .asleep ∧ ({ s with core := k } : State).claimAt = c then { k with run := .running } else k
  { s with core := wake s.core, parked := s.parked.map wake
           sched := { s.sched with swapped := s.sched.swapped.map fun t => if t.claim = c then { t with asleep := false, claim := none } else t } }

/-- A claim closes at a member: on TAKEN the effect store and the step, then the notice, and the sleepers wake (R391); or it awaits the answer to the
effect store. -/
def State.closeClaim (s : State) (m : ClaimMember) (c : Claim) (out : BitVec 4) : Except State State :=
  let g := s.memberGroup m
  let close (s : State) (failed : Option Word) (seen : List Nat) : State :=
    let t := (s.notice m c 2 out seen).mapMember m.group.tag m.ep fun x => x.mapClaim c.handle fun c => { c with outcome := some out, effectFailed := failed }
    t.wakeClaim m c.handle
  if out = taken then
    match s.effectStore m c with
    | .error t => .error t
    | .ok (t, failed) => .ok (close (if c.key = g.stepkey ∧ g.stepkey ≠ 0xFFFF then t.setStepAll g.ctx c.payload else t) failed c.seen)
  else .ok (close s none [])

/-- Claim `a` closes at a member before claim `b` (R379). -/
def Claim.closesBefore (a b : Claim) : Bool := decide (a.tc < b.tc) || (a.tc == b.tc && a.before b)

/-- The claim of a member can close now (R379, R390): its close time has come, what must have arrived has, and those before it at the same endpoint, in
whatever group, have closed. -/
def State.mayClose (s : State) (m : ClaimMember) (c : Claim) : Bool :=
  c.outcome.isNone && decide (c.tc ≤ s.ftime) && !s.overdue m
    && !(s.claims.members.any fun x => x.ep == m.ep && x.claims.any fun y => y.outcome.isNone && y.closesBefore c)

/-- The outcome of a claim that closes: the decision of R390, which stands once an effect store of it has left (R391). -/
def State.outcomeOf (s : State) (m : ClaimMember) (c : Claim) : BitVec 4 :=
  if (s.effectAns m c).isSome then taken else decideClaim m.group s.claims.breaches m.claims c

/-- CLAIM_CLOSE (R390): a member decides the next of its claims whose close time has come. -/
def execClaimClose (s : State) : Host.Outcome State Fault Refusal :=
  match s.choice with
  | .claim tag ep h => match s.member tag ep with
    | none => .next s
    | some m => match m.find h with
      | none => .next s
      | some c =>
        if !s.mayClose m c then .next s
        else match s.closeClaim m c (s.outcomeOf m c) with
          | .error t => .next t
          | .ok t => .next t
  | _ => .next s

/-- Time for which a closed claim is kept, in ns (R393). -/
def keepTime : Nat := 1048576

/-- The package has forgotten a claim (R393). -/
def State.forgotten (s : State) (c : Claim) : Bool := c.outcome.isSome && decide (c.tc + keepTime < s.ftime)

/-- The claim of a handle that a member knows now. -/
def State.knownClaim (s : State) (m : ClaimMember) (h : Word) : Option Claim := (m.find h).filter fun c => !s.forgotten c

/-- An open claim of a member may yield to a closed one, or a claim that has still to arrive may: the decision is that of the close time (R390). -/
def State.stillMeets (s : State) (m : ClaimMember) (c : Claim) : Bool :=
  s.overdue m || m.claims.any fun x => x.outcome.isNone && x.key == c.key && c.before x

/-- CLAIM_FORGET (R393): what is kept of a forgotten claim goes, once no decision can depend on it. -/
def execClaimForget (s : State) : Host.Outcome State Fault Refusal :=
  match s.choice with
  | .claim tag ep h =>
    .next (s.mapMember tag ep fun m => { m with claims := m.claims.filter fun c => !(c.handle == h && s.forgotten c && !s.stillMeets m c) })
  | _ => .next s

/-- Claims are open at the members of a node's groups (R394). -/
def State.claimsOpen (s : State) (n : Node) : Bool :=
  s.claims.members.any fun m => (n.binding m).isSome && m.claims.any fun c => c.outcome.isNone

/-- A proposal that must have arrived by now has not, at a member where the node has a standing objection (R384, R389). -/
def State.holdsMeet (s : State) (handle : Nat) : Bool := s.claims.members.any fun m => s.overdue m && m.holds.any fun x => x.2 == handle

/-- The standing objections of a node end (R394). -/
def State.dropHolds (s : State) (handle : Nat) : State :=
  s.mapClaims fun c => { c with members := c.members.map fun m => { m with holds := m.holds.filter fun x => x.2 != handle } }

/-! ### The CLAIM instructions (R395 to R399) -/

/-- The key in a register. -/
def State.keyOf (s : State) (r : Reg) : BitVec 16 := (s.x r).setWidth 16

/-- The t0 of a new proposal of an endpoint (R387). -/
def State.newT0 (s : State) (ep : BitVec 16) : Nat :=
  match s.claims.lastT0.find? fun x => x.1 == ep with
  | none => s.ftime
  | some x => max s.ftime (x.2 + 1)

/-- `cwin` of a slot. -/
def State.cwin (s : State) (g : BitVec 4) : Word := s.st.cwin.get g.toFin

/-- The proposal that a member makes now (R397). -/
def State.propose (s : State) (m : ClaimMember) (key : BitVec 16) (payload w : Word) : Word × State :=
  let t0 := s.newT0 m.ep
  let h := word (t0 % 2 ^ 48 * 65536 + m.ep.toNat)
  let msg : Courier := { sender := m.ep, tag := m.group.tag, handle := h, key := key, w := w.setWidth 32, payload := payload, tsend := t0 }
  let s' := s.mapClaims fun c => { c with lastT0 := (m.ep, t0) :: c.lastT0.filter fun x => x.1 != m.ep }
  (h, (s'.proposalAt m msg s.core.seen).courierSend m.group m.ep false msg s.core.seen)

/-- `cl.prop` (R397). -/
def execClProp (h key val : Reg) (g : BitVec 4) (s : State) : Host.Outcome State Fault Refusal :=
  outcome s do
    let m ← s.actsAs g
    s.awaitAccesses
    s.drainFabric
    let s := s.sync
    if m.group.quota ≤ m.openOwn ∨ 4096 ≤ s.openClaims then .ok ((s.setX h (BitVec.allOnes 64)).complete 4)
    else
      let (hd, s) := s.propose m (s.keyOf key) (s.x val) (s.cwin g)
      .ok ((s.setX h hd).complete 4)

/-- The claim that an instruction names: none while it is not yet known (R396), or its proposal must have arrived and is still to be taken in (R384). -/
def State.claimOf (s : State) (m : ClaimMember) (h : Word) : Except Halt (Option Claim) :=
  if h = BitVec.allOnes 64 then raise 0x0E 0x09
  else match s.knownClaim m h with
    | some c => .ok (some c)
    | none => if s.handlePassed h (m.group.lmax + m.group.eps) && !s.overdue m then raise 0x0E 0x14 else .ok none

/-- `cl.obj` (R398). -/
def execClObj (h : Reg) (g : BitVec 4) (s : State) : Host.Outcome State Fault Refusal :=
  outcome s do
    let m ← s.actsAs g
    match ← s.claimOf m (s.x h) with
    | none => .error .wait
    | some c =>
      if c.deadline m.group < (s.ftime : Int) then raiseAt 0x0D 0x01 (word s.ftime)
      else .ok ((s.sendObjection m c.handle c.key s.ftime).complete 4)

/-- The thread acquires what a TAKEN claim publishes (R246) (DEDUCED, log entry 52). -/
def State.acquireClaim (s : State) (c : Claim) : State := s.mapCore fun k => { k with seen := k.seen ++ c.seen }

/-- `cl.wait` (R398). -/
def execClWait (d h : Reg) (g : BitVec 4) (s : State) : Host.Outcome State Fault Refusal :=
  outcome s do
    let m ← s.actsAs g
    match ← s.claimOf m (s.x h) with
    | none => .error .sleep
    | some c => match c.outcome with
      | none => .error .sleep
      | some o =>
        let s' := (if o = taken then s.acquireClaim c else s).sync
        match c.effectFailed with
        | some va => .error (.partly ⟨0x0E, 0x15, va, 0⟩ s')
        | none => .ok ((s'.setX d (o.setWidth 64)).complete 4)

/-- `cl.stat` (R398) (DEDUCED, log entry 52). -/
def execClStat (d h : Reg) (sel : Bool) (g : BitVec 4) (s : State) : Host.Outcome State Fault Refusal :=
  outcome s do
    let m ← s.actsAs g
    if sel then .ok ((s.setX d (word m.openOwn)).complete 4)
    else match s.claimOf m (s.x h) with
      | .ok none => .ok ((s.setX d 0).complete 4)
      | .ok (some c) => match c.outcome with
        | none => .ok ((s.setX d 0).complete 4)
        | some o => .ok (((if o = taken then s.acquireClaim c else s).setX d (o.setWidth 64)).complete 4)
      | .error (.exc e) => if e.detail = 0x14 then .ok ((s.setX d 0xF).complete 4) else .error (.exc e)
      | .error x => .error x

/-- Standing objections of an endpoint across its slots (R389). -/
def State.holdCount (s : State) (ep : BitVec 16) : Nat := ((s.claims.members.filter fun m => m.ep == ep).map fun m => m.holds.length).sum

/-- A standing objection is filed or freed after the arrivals before it (R389). -/
def State.awaitArrivals (s : State) (m : ClaimMember) : Except Halt Unit := if s.overdue m then .error .wait else .ok ()

/-- `cl.hold` (R399). -/
def execClHold (key : Reg) (g : BitVec 4) (s : State) : Host.Outcome State Fault Refusal :=
  outcome s do
    let m ← s.actsAs g
    s.awaitArrivals m
    let k := s.keyOf key
    if m.holds.any fun x => x.1 == k then .ok (s.complete 4)
    else if 64 ≤ s.holdCount m.ep then raise 0x0E 0x17
    else .ok ((s.mapMember m.group.tag m.ep fun x => { x with holds := x.holds ++ [(k, s.core.me.handle)] }).complete 4)

/-- `cl.free` (R399). -/
def execClFree (key : Reg) (g : BitVec 4) (s : State) : Host.Outcome State Fault Refusal :=
  outcome s do
    let m ← s.actsAs g
    s.awaitArrivals m
    .ok ((s.mapMember m.group.tag m.ep fun x => { x with holds := x.holds.filter fun y => y.1 != s.keyOf key }).complete 4)

/-- The unknown claim at which the thread waits: the error that its instruction has met (R398). -/
def State.claimGone (s : State) : Option Exc :=
  let check (h : Reg) (g : BitVec 4) : Option Exc := match s.actsAs g with
    | .ok m => match s.claimOf m (s.x h) with
      | .error (.exc e) => some e
      | _ => none
    | .error _ => none
  match s.atPc with
  | .ok (.clObj h g) => check h g
  | .ok (.clWait _ h g) => check h g
  | _ => none

/-- NOCLAIM (R398). -/
def execNoclaim (s : State) : Host.Outcome State Fault Refusal :=
  if s.core.run = .waiting ∨ s.core.run = .asleep then
    match s.claimGone with
    | some e => .next ((s.setRun .running).except e)
    | none => .next s
  else .next s

end Sys2Proof.Machine
end

