-- ==== Sys2Proof/Machine/Fabric.lean ====
section
/-! DEFINITION. The Eweham fabric: the FAB instructions (R368 to R373), the requester's replies and timers (R357 to R361), multicast (R363 to
R366), the target's checks (R347 to R354) and fabric time (R367). -/

namespace Sys2Proof.Machine

/-! ### Replies (R359, R360, R366) -/

/-- Fabric error for a failed packet (R359, R369). -/
def Req.exc (r : Req) (st : MStatus) : Exc := { cls := 0x15, detail := (MStatus.code st).setWidth 8, addr := r.addr, via := r.pc }

/-- A request leaves now: its timer starts, and its path is the one of this moment (R346, R361). -/
def State.depart (s : State) (q : Req) : Req :=
  { q with sent := s.ftime, packet := { q.packet with alternate := s.takesAlternate q.packet.target.toNat q.packet.attempt.toNat } }

/-- Of the requests `l` are still outstanding; those that the others alone held back leave now. -/
def State.keepReqs (s : State) (l : List Req) : State :=
  s.mapFab fun f => { f with reqs := l.map fun q => if heldBehind s.fab.reqs q && !heldBehind l q then s.depart q else q }

/-- A request is no longer outstanding. -/
def State.dropReq (s : State) (r : Req) : State := s.keepReqs (s.fab.reqs.erase r)

/-- Plane `p` of a register with element `e` of `w` bits replaced. -/
def VReg.putLane (r : VReg) (p w e v : Nat) : VReg :=
  let l := r.planes ++ List.replicate (p + 1 - r.planes.length) 0
  let x := r.plane p
  { r with planes := l.set p (x - elem w x e * 2 ^ (w * e) + v % 2 ^ w * 2 ^ (w * e)) }

/-- Elements of a reply go to their places. -/
def putLanes (p w : Nat) (r : VReg) : List Nat → List Byte → VReg
  | [], _ => r
  | e :: rest, l => putLanes p w (r.putLane p w e (valueOfBytes (l.take (w / 8)))) rest (l.drop (w / 8))

/-- A fill of a register has failed (DESIGN CHOICE, log entry 18). -/
def Core.failFill (c : Core) (r : VSpec) (e : Exc) : Core := { c with fills := c.fills ++ [⟨r, some e⟩] }

/-- Bytes that a reply to a request carries when its packet was performed (R357, R359). -/
def Req.replyBytes (r : Req) : Nat :=
  match r.use with
  | .lanes _ b _ l => b / 8 * l.length
  | .scalar _ n _ => n
  | .quant _ _ l => (Packet.size r.packet) * l.length
  | .member _ _ => (Packet.size r.packet) * r.packet.count
  | .far _ write => if write then 0 else (Packet.size r.packet) * r.packet.count
  | .store => 0
  | .line _ _ => 0

/-- A plane of a mask image has 2 × MVL bits (R44, R273). -/
def VReg.trimMask (r : VReg) (mvl : Nat) : VReg := if r.tag.fmt = .mask then { r with planes := r.planes.map (· % 2 ^ (2 * mvl)) } else r

/-! ### Quantised blocks in fabric windows (R179) -/

/-- The parts that a packet brings of the blocks of a register. -/
def quantParts (core : Nat) (r : VSpec) (size : Nat) : List (Nat × Nat) → List Byte → List QPart
  | [], _ => []
  | x :: rest, l => ⟨core, r, x.1, x.2, valueOfBytes (l.take size)⟩ :: quantParts core r size rest (l.drop size)

/-- Part `p` of block `b` of a register among the parts that have come. -/
def qpart (l : List QPart) (b p : Nat) : Option Nat := (l.find? fun q => q.block == b && q.part == p).map (·.val)

/-- The elements below `n` of block `b` go to their places when all four parts of the block have come (R94, R95). -/
def putBlock (l : List QPart) (n : Nat) (r : VReg) (b : Nat) : VReg :=
  match qpart l b 0, qpart l b 1, qpart l b 2, qpart l b 3 with
  | some c0, some c1, some c2, some e =>
    ((List.range 32).filter fun i => decide (32 * b + i < n)).foldl
      (fun r i => r.putLane 0 32 (32 * b + i) (lnsDecode e (lnsAt (c0 + 2 ^ 64 * c1 + 2 ^ 128 * c2) i))) r
  | _, _, _, _ => r

/-- The parts of a packet come. -/
def State.quantReply (s : State) (core : Nat) (d : VSpec) (n : Nat) (parts : List (Nat × Nat)) (size : Nat) (data : List Byte) : State :=
  let s' := s.mapFab fun f => { f with qparts := f.qparts ++ quantParts core d size parts data }
  let l := s'.fab.qparts.filter fun q => q.core == core && q.reg == d
  s'.onCore core fun c => { c with vec := c.vec.mapReg d fun q => ((parts.map (·.1)).dedup).foldl (putBlock l n) q }

/-- Write `x[d]` of a core. -/
def Core.setX (c : Core) (d : Reg) (v : Word) : Core :=
  if d = 0 then c else { c with sc := { c.sc with x := c.sc.x.set d.toNat v d.isLt } }

/-! ### Values for a thread, wherever it is (R38, R315) -/

/-- `x[d]` of a thread that issued on core `core`: in the core that holds it now, or in its context image (R312). -/
def State.returnX (s : State) (core handle wid : Nat) (d : Reg) (v : Word) : State :=
  match s.away handle wid with
  | none => s.onCore (s.seatOf core handle wid) fun c => c.setX d v
  | some t => if d = 0 then s else s.mapMem fun m => writeLoc m (.hbm (t.me.image.toNat + 0xE0 + 8 * d.toNat)) 8 v.toNat

/-- The pending value of `x[d]` of a thread has failed (R359). -/
def State.returnFail (s : State) (core handle wid : Nat) (d : Reg) (e : Exc) : State :=
  if d = 0 then s
  else match s.away handle wid with
    | none => s.onCore (s.seatOf core handle wid) fun c => { c with xfail := c.xfail ++ [(d, e)] }
    | some t => { s with sched := { s.sched with swapped := s.sched.swapped.map fun x =>
        if x = t then { t with xfail := t.xfail ++ [(d, e)] } else x } }

/-- The status of a member of a multicast store comes, unless it has one (R365); no retry for it is outstanding any more. -/
def State.lineStatus (s : State) (job i : Nat) (st : MStatus) : State :=
  (s.keepReqs (s.fab.reqs.filter fun q => q.use != .line job i)).mapFab fun f => { f with
    jobs := f.jobs.map fun x => if x.id = job then { x with codes := x.codes.modify i fun c => if c.isSome then c else some st } else x }

/-- What the answered read or atomic of a scalar access orders: an acquire synchronises with the releases that it read, and a relaxed access leaves
them to a later fence (R231, R264). -/
def State.orderReply (s : State) (r : Req) : State :=
  if Order.acquires r.packet.order then s.acquireFar r.core r.handle r.wid r.packet.scope r.read
  else if Order.strong r.packet.order then s.hear r.core r.handle r.wid [] r.read else s

/-- What a packet that was performed brings. -/
def State.replyOk (s : State) (r : Req) (data : List Byte) : State :=
  match r.use with
  | .lanes d w p l => s.onCore r.core fun c =>
      { c with vec := c.vec.mapReg d fun q => (putLanes p w q l data).trimMask (groups c.vec.shapeN c.vec.shapeK * s.part.eg) }
  | .scalar d n sgn => (s.orderReply r).returnX r.core r.handle r.wid d (widen sgn n (valueOfBytes data))
  | .quant d n l => s.quantReply r.core d n l (Packet.size r.packet) data
  | .far cmd write => s.farReply r cmd write (.data data)
  | .store => s
  | .member j i => s.mapFab fun f => { f with ldrs := f.ldrs.map fun x => if x.id = j then { x with replies := x.replies.set i (some (.ok, data)) } else x }
  | .line j i => s.lineStatus j i .ok

/-- A failed store or atomic is kept for its thread's next wait (R360). -/
def State.storeFails (s : State) (r : Req) (e : Exc) : State :=
  if Packet.writes r.packet then s.mapFab fun f => { f with fails := f.fails ++ [⟨r.handle, r.wid, e⟩] } else s

/-- What a packet that has failed leaves (R359, R360, R365, R366): `e` is what its destination's first reader, or its thread's next wait,
raises. -/
def State.replyFail (s : State) (r : Req) (st : MStatus) (e : Exc) : State :=
  match r.use with
  | .lanes d _ _ _ => (s.storeFails r e).onCore r.core fun c => c.failFill d e
  | .scalar d _ _ => (s.storeFails r e).returnFail r.core r.handle r.wid d e
  | .quant d _ _ => s.onCore r.core fun c => c.failFill d e
  | .far cmd write => s.farReply r cmd write (.failed e.cls e.detail)
  | .store => s.storeFails r e
  | .member j i => s.mapFab fun f => { f with ldrs := f.ldrs.map fun x => if x.id = j then { x with replies := x.replies.set i (some (st, [])) } else x }
  | .line j i => s.lineStatus j i st

/-- A request ends with a status and data. -/
def State.endReq (s : State) (r : Req) (st : MStatus) (data : List Byte) : State :=
  if st = .ok then (s.dropReq r).replyOk r data else (s.dropReq r).replyFail r st (r.exc st)

/-! ### `mc.ldr` (R366, R371) -/

/-- Format of a type of `mc.ldr`. -/
def LdrTy.ffmt : LdrTy → FFmt
  | .f32 => .f32 | .f16 => .f16 | .bf16 => .bf16

/-- Bytes of an element of `mc.ldr`. -/
def LdrTy.bytes : LdrTy → Nat
  | .f32 => 4 | .f16 => 2 | .bf16 => 2

/-- An offer converted to FP32; a NaN becomes the canonical NaN (R366). -/
def LdrTy.exact (t : LdrTy) (b : Nat) : Nat := (cvtFF (LdrTy.ffmt t) .f32 .rne b).1

/-- Combine of R366. -/
def LdrOp.combine (o : LdrOp) (a b : Nat) : Nat :=
  match o with
  | .add => (fAdd .f32 .rne a b).1
  | .min => (fPick .f32 false a b).1
  | .max => (fPick .f32 true a b).1

/-- The offers of one member. -/
def LdrTy.offers (t : LdrTy) : Nat → List Byte → List Nat
  | 0, _ => []
  | n + 1, l => LdrTy.exact t (valueOfBytes (l.take (LdrTy.bytes t))) :: LdrTy.offers t n (l.drop (LdrTy.bytes t))

/-- The reduction of R366 over the members that responded, in ascending index. -/
def LdrJob.reduce (j : LdrJob) : List Nat :=
  let all := j.replies.filterMap fun r => match r with
    | some (.ok, d) => some (LdrTy.offers j.ty j.vl d)
    | _ => none
  match all with
  | [] => List.replicate j.vl 0
  | x :: rest => rest.foldl (fun acc o => List.zipWith (LdrOp.combine j.op) acc o) x

/-- Bits of the members that responded. -/
def respBits (n : Nat) : List (Option (MStatus × List Byte)) → Nat
  | [] => 0
  | r :: rest => (match r with | some (.ok, _) => 2 ^ n | _ => 0) + respBits (n + 1) rest

/-- Status of the lowest member that is excluded, OK when none is (R342). -/
def LdrJob.excluded (j : LdrJob) : MStatus :=
  (j.replies.findSome? fun r => match r with
    | some (.ok, _) => none
    | some (st, _) => some st
    | none => none).getD .ok

/-- The status word (R342). -/
def LdrJob.word (j : LdrJob) : Word := 0#1 ++ MStatus.code j.excluded ++ BitVec.ofNat 56 (respBits 0 j.replies)

/-- The sums as a register, whose elements at and above `vl` stay (R41). -/
def LdrJob.result (j : LdrJob) (full : Bool) (old : VReg) : VReg :=
  old.write { Tag.of .f32 0 with full := full } 32 0 (j.reduce.map fun v => ⟨v, []⟩)

/-- Every member has a status. -/
def LdrJob.complete (j : LdrJob) : Bool := j.replies.all (·.isSome)

/-- A load-and-reduce that no instruction awaits ends: sums and status word reach their registers (R371). -/
def State.endLdrs (s : State) : State :=
  (s.fab.ldrs.filter fun j => j.complete && !j.waits).foldl (fun s j =>
    ((s.onCore j.core fun c => { c with vec := c.vec.mapReg (.v j.v) (j.result false), fills := c.fills ++ [⟨.v j.v, none⟩] }).returnX
      j.core j.handle j.wid j.s j.word).mapFab fun f => { f with ldrs := f.ldrs.filter fun x => x.id != j.id }) s

/-- Unit absent on a part without FAB instructions (R9, R76). -/
def State.fabUnit (s : State) : Except Halt Unit := raiseIf (!s.part.hasFab) 0x02 0x1A 0

/-! ### Groups (R363) -/

/-- Base of a table that a supervisor register names (DESIGN CHOICE, log entry 41). -/
def tableBase (w : Word) : Nat := (bits w 4 48).toNat * 16

/-- Member records from `a` up. -/
def readMembers (m : Memory) (a : Nat) : Nat → List Member
  | 0 => []
  | n + 1 => ⟨BitVec.ofNat 16 (m.read a 2), word (m.read (a + 8) 8)⟩ :: readMembers m (a + 16) n

/-- A member record whose reserved bytes are not zero (R4, R363). -/
def memberBad (m : Memory) (a : Nat) (i : Nat) : Bool := m.read (a + 16 * i + 2) 6 != 0

/-- The members of a group, none when it is not assigned (R363) or its descriptor or a member record breaks R363 (R4) (DESIGN CHOICE, log
entry 41). -/
def State.group (s : State) (gid : Nat) : Option (List Member) :=
  if gid = 0 ∨ 1024 ≤ gid ∨ tableBase s.fab.sgtab = 0 then none
  else
    let d := tableBase s.fab.sgtab + 16 * gid
    let a := s.mem.hbm.read d 8
    let n := s.mem.hbm.read (d + 8) 2
    if n = 0 ∨ 512 < n ∨ s.mem.hbm.read (d + 10) 6 ≠ 0 ∨ a % 16 ≠ 0 ∨ (List.range n).any (memberBad s.mem.hbm a) then none
    else some (readMembers s.mem.hbm a n)

/-- The members of a group of at most `most`, or BADGROUP (R369). -/
def State.needGroup (s : State) (gid : Word) (most : Nat) : Except Halt (List Member) :=
  match s.group gid.toNat with
  | none => raise 0x15 0x07
  | some l => if most < l.length then raise 0x15 0x07 else .ok l

/-- `x[g + 1]`. -/
def State.xNext (s : State) (g : Reg) : Word := s.x (g + 1)

/-- The request to member `i` of a load-and-reduce. -/
def State.memberReq (s : State) (id i : Nat) (off : Word) (size vl : Nat) (m : Member) : Req :=
  let p : Packet :=
    { kind := 4, esize := log2Size size, indexed := false, alternate := s.takesAlternate m.pkg.toNat 0, attempt := 0,
      requester := packageEp, target := m.pkg, count := vl, op := 0, opTy := 0, core := BitVec.ofNat 16 s.core.id,
      seq := s.core.seq + BitVec.ofNat 32 i, token := m.token, offset := off, stride := word size, indexes := [], data := [], status := 0, members := [] }
  { core := s.core.id, handle := s.core.me.handle, wid := s.core.me.wid, packet := p, use := .member id i, addr := off, pc := s.pc, win := none,
    sent := s.ftime }

/-- The requests of a load-and-reduce leave. -/
def State.startLdr (s : State) (v : BitVec 6) (d : Reg) (off : Word) (op : LdrOp) (ty : LdrTy) (waits : Bool) (l : List Member) : State :=
  let id := s.eng.nextId
  let j : LdrJob := { id := id, handle := s.core.me.handle, wid := s.core.me.wid, core := s.core.id, pc := s.pc, v := v, s := d, op := op, ty := ty,
                      vl := s.core.vec.vl, waits := waits, replies := l.map fun _ => none }
  let reqs := l.zipIdx.map fun x => s.memberReq id x.2 off (LdrTy.bytes ty) s.core.vec.vl x.1
  ((s.mapFab fun f => { f with ldrs := f.ldrs ++ [j], reqs := f.reqs ++ reqs }).mapEng fun e => { e with nextId := e.nextId + 1 }).mapCore
    fun c => { c with seq := c.seq + BitVec.ofNat 32 l.length }

/-- The load-and-reduce of the instruction at the PC that the thread awaits. -/
def State.myLdr (s : State) : Option LdrJob := s.fab.ldrs.find? fun j => j.waits && s.isMe j.handle j.wid && j.pc == s.pc

/-- The destination is empty until it is filled (R50). -/
def State.emptyLdr (s : State) (v : BitVec 6) : State :=
  s.setVreg (.v v) ((s.vreg (.v v)).write { Tag.of .f32 0 with full := false } 32 0 [])

/-- The end of an awaited load-and-reduce: after completing, an excluded member raises fabric error with the next PC (R371). -/
def State.finishLdr (s : State) (j : LdrJob) : State :=
  let s' := (s.mapFab fun f => { f with ldrs := f.ldrs.filter fun x => x.id != j.id }).setVreg (.v j.v) (j.result true (s.vreg (.v j.v)))
  let s' := (s'.setX j.s j.word).complete 4
  if j.excluded = .ok then s' else s'.countIssue.deliver ⟨0x15, (MStatus.code j.excluded).setWidth 8, 0, 0⟩ (s.pc + 4)

/-- The checks of `mc.ldr` at issue (R371) (DEDUCED, log entry 53). -/
def State.ldrChecks (s : State) (ins : Instr) (v : BitVec 6) (g : Reg) : Except Halt (List Member) := do
  s.fabUnit
  s.needVec
  s.illegalIf ins (decide (s.nregs ≤ v.toNat)) 0x03
  s.illegalIf ins (decide (256 < s.core.vec.vl)) 0x06
  s.needGroup (s.x g) 56

/-- `mc.ldr` (R371) (DEDUCED, log entry 53). -/
def execMcLdr (v : BitVec 6) (d g : Reg) (op : LdrOp) (t : LdrTy) (s : State) : Host.Outcome State Fault Refusal :=
  match s.myLdr with
  | some j => if j.complete then .next (s.finishLdr j) else .next (s.setRun .waiting)
  | none =>
    match s.ldrChecks (.mcLdr v d g op t) v g with
    | .error h => outcome s (.error h)
    | .ok l =>
      if s.core.vec.vl = 0 then .next ((s.setX d 0).complete 4)
      else if s.empty (.v v) && (s.vreg (.v v)).failed.isNone then .next (s.setRun .waiting)
      else if s.st.udeleg.getLsbD 21 then .next ((s.startLdr v d (s.xNext g) op t true l).setRun .waiting)
      else .next ((((s.startLdr v d (s.xNext g) op t false l).emptyLdr v).pend d).complete 4)

/-! ### `mc.st` (R364, R365, R370) -/

/-- The spots of `n` bytes from `va` up, as units of 8 bytes and then single ones (R370). -/
def ackSpots (va : Word) (n : Nat) : List (Word × Nat) :=
  ((List.range (n / 8)).map fun i => (va + word (8 * i), 8)) ++ (List.range (n % 8)).map fun i => (va + word (n / 8 * 8 + i), 1)

/-- Spots are writable (R370). -/
def State.writable (s : State) : List (Word × Nat) → Except Halt Unit
  | [] => .ok ()
  | x :: rest => do
    let _ ← s.locate x.1 x.2 .store
    s.writable rest

/-- `mc.st` (R370). -/
def execMcSt (g a k : Reg) (lenc : BitVec 5) (s : State) : Host.Outcome State Fault Refusal :=
  outcome s do
    s.fabUnit
    let r ← s.readUnits (s.x a) (lenc.toNat + 1)
    let cnt := ((s.group (s.x g).toNat).map (·.length)).getD 0
    raiseIf (!aligned (s.x k) 8) 0x06 8 (s.x k)
    s.writable (ackSpots (s.x k) (8 + cnt))
    let _ ← s.needGroup (s.x g) 512
    s.awaitDepth .fabric
    s.settleStores
    let (c, t) := r.2.newCmd .fabric none
    let j : McJob := { id := c.id, handle := s.core.me.handle, wid := s.core.me.wid, core := s.core.id, pc := s.pc, root := s.core.sup.ptbase,
                       region := c.region, prior := c.prior, gid := (s.x g).toNat, off := s.xNext g, ack := s.x k, line := r.1, started := false,
                       sent := 0, members := [], seqs := [], codes := [] }
    .ok ((t.mapFab fun f => { f with jobs := f.jobs ++ [j] }).complete 4)

/-- The head of the core's fabric queue, when nothing holds it (R226, R241). -/
def State.fabHead (s : State) : Option McJob :=
  match s.fab.jobs.find? fun j => j.core == s.core.id with
  | none => none
  | some j => if s.fenced j.id then none else some j

/-- A multicast store changed by `f`. -/
def State.mapJob (s : State) (id : Nat) (f : McJob → McJob) : State :=
  s.mapFab fun x => { x with jobs := x.jobs.map fun j => if j.id = id then f j else j }

/-- The stage node of a member's path, and whether it is the alternate path: the primary one unless a link of it is down (R346, R364). -/
def State.pathOf (s : State) (m : Member) : BitVec 8 × Bool :=
  let alt := s.takesAlternate m.pkg.toNat 0
  (if alt then Config.alternateNode m.pkg.toNat else Config.primaryNode m.pkg.toNat, alt)

/-- Paths of some members, each once, in order of first use (R364). -/
def State.stagePaths (s : State) (l : List Member) : List (BitVec 8 × Bool) := (l.map s.pathOf).dedup

/-- Indexes of the members behind a stage node. -/
def State.branchesOf (s : State) (l : List Member) (n : BitVec 8 × Bool) : List Nat := (l.zipIdx.filter fun x => s.pathOf x.1 == n).map (·.2)

/-- The multicast packet of some members, which share a path (R364). -/
def State.linePacket (s : State) (j : McJob) (l : List Member) (seq : BitVec 32) : Packet :=
  { kind := 3, esize := 3, indexed := false, alternate := (l.head?.map fun m => (s.pathOf m).2).getD false, attempt := 0,
    requester := packageEp, target := ((l.head?.map (·.pkg)).getD 0),
    count := j.line.length / 8, op := 0, opTy := 0, core := BitVec.ofNat 16 s.core.id, seq := seq, token := (l.head?.map (·.token)).getD 0,
    offset := j.off, stride := 8, indexes := [], data := j.line, status := 0, members := l.map fun m => (m.pkg, m.token) }

/-- MC_ST_START (R363, R364, R370): the descriptor is read, and a packet leaves for each stage node (DEDUCED, log entry 54). -/
def execMcStStart (s : State) : Host.Outcome State Fault Refusal :=
  match s.fabHead with
  | none => .next s
  | some j =>
    if j.started then .next s
    else
      let l := (s.group j.gid).getD []
      let nodes := s.stagePaths l
      let seqOf (m : Member) : BitVec 32 := s.core.seq + BitVec.ofNat 32 (nodes.findIdx fun n => n == s.pathOf m)
      let s' := s.mapJob j.id fun x => { x with started := true, sent := s.ftime, members := l, seqs := l.map seqOf, codes := l.map fun _ => none }
      let behind (n : BitVec 8 × Bool) : List Member := l.filter fun m => s.pathOf m == n
      let banks := nodes.map fun n => (⟨j.id, n.1, false, s.branchesOf l n, s.linePacket j (behind n) (((behind n).head?.map seqOf).getD 0)⟩ : Bank)
      .next ((s'.mapFab fun f => { f with banks := f.banks ++ banks }).mapCore fun c => { c with seq := c.seq + BitVec.ofNat 32 nodes.length })

/-- MULTICAST_BANK_ACCEPT (R364). -/
def execMulticastBankAccept (s : State) : Host.Outcome State Fault Refusal :=
  .next (s.mapFab fun f => { f with banks := f.banks.modify (Choice.nth s.choice) fun b => { b with accepted := true } })

/-- The copy of a multicast packet that goes to a member: that member's number and token (R364). -/
def Packet.toMember (p : Packet) (m : BitVec 16) : Packet :=
  match p.members.find? fun x => x.1 == m with
  | some x => { p with target := x.1, token := x.2 }
  | none => p

/-- MULTICAST_BRANCH_FORWARD (R364): a copy goes to a member; the bank is free when its last branch has gone. -/
def execMulticastBranchForward (s : State) : Host.Outcome State Fault Refusal :=
  match s.choice with
  | .branch i m => match s.fab.banks[i]? with
    | none => .next s
    | some b =>
      if !b.accepted then .next s
      else
        let b' : Bank := { b with branches := b.branches.filter (· != m) }
        .next (s.mapFab fun f => { f with banks := if b'.branches.isEmpty then f.banks.eraseIdx i else f.banks.set i b' })
  | _ => .next s

/-- Members with a code. -/
def countCode (l : List (Option MStatus)) (p : MStatus → Bool) : Nat := (l.filter fun c => c.any p).length

/-- The summary word of an acknowledgement record (R343). -/
def summaryWord (l : List (Option MStatus)) : Word :=
  let ok := countCode l (· == .ok); let absent := countCode l (· == .absent)
  BitVec.ofBool (ok != l.length) ++ 1#1 ++ 0#4 ++ BitVec.ofNat 10 ok ++ 0#6 ++ BitVec.ofNat 10 (l.length - ok - absent) ++ 0#6
    ++ BitVec.ofNat 10 absent ++ 0#6 ++ BitVec.ofNat 10 l.length

/-- A store of part of a granule that holds an uncorrectable error meets the error, as a record write may (R370) (DEDUCED, log entry 95). -/
def meetsBad (m : Mem) (l : Loc) (n : Nat) : Option (BitVec 8) :=
  match l with
  | .spad a => if a % 8 = 0 ∧ n = 8 then none else badAt m l
  | l => badAt m l

/-- One spot of a record is written: the memories after it. -/
def State.writeSpot (s : State) (sp : Space) (a : Agent) (x : Word × Nat) (v : Nat) : Except CmdHalt Mem := do
  let q ← liftC (Machine.locate s.part s.mem sp x.1 x.2 .store)
  match meetsBad s.mem q x.2 with
  | some d => .error (.failed ⟨0x11, d, x.1, 0⟩)
  | none => s.cmdWrite sp a q x.1 x.2 v

/-- The member bytes of a record are written (R343). -/
def State.writeCodes (s : State) (sp : Space) (a : Agent) : List (Word × Nat) → List Byte → Except (CmdHalt × State) State
  | [], _ => .ok s
  | x :: rest, l => match s.writeSpot sp a x (valueOfBytes (l.take x.2)) with
    | .error e => .error (e, s)
    | .ok m => ({ s with mem := m } : State).writeCodes sp a rest (l.drop x.2)

/-- A failed multicast store, for `fab.stat` (R373): its code, class and the PC of its instruction (DEDUCED, log entry 40). -/
def State.jobFail (s : State) (j : McJob) (st : BitVec 7) (cls : BitVec 8) : State :=
  s.fail ⟨j.id, .fabric, j.handle, j.wid, st, cls, j.pc.toNat % 2 ^ 48, j.pc, j.pc⟩

/-- The multicast store has been performed. -/
def State.dropJob (s : State) (j : McJob) : State :=
  (s.mapFab fun f => { f with jobs := f.jobs.filter fun x => x.id != j.id }).dropFar j.handle j.wid (some j.region)

/-- The summary word of a record meets an error in its granule (R370). -/
def State.summaryMeets (s : State) (sp : Space) (va : Word) : Bool :=
  match Machine.locate s.part s.mem sp va 8 .store with
  | .error _ => false
  | .ok l => (meetsBad s.mem l 8).isSome

/-- The acknowledgement record of a multicast store, which is then performed (R343, R365, R370), or awaits an answer of the fabric. -/
def State.writeAck (s : State) (j : McJob) : State :=
  let sp := cmdSpace j.root j.handle j.wid
  let a := s.cmdAgent .fabric j.core j.pc j.region j.prior
  let codes := j.codes.map fun c => (MStatus.code (c.getD .ok)).setWidth 8
  match s.writeCodes sp a (ackSpots (j.ack + 8) codes.length) codes with
  | .error (.await t, _) => t
  | .error (.failed e, s') => (s'.dropJob j).jobFail j 0x06 e.cls
  | .ok s' =>
    if s'.summaryMeets sp j.ack then (s'.dropJob j).jobFail j 0x06 0x11
    else match s'.completionStore sp a j.ack (summaryWord j.codes) .sys with
    | .error (.await t) => t
    | .error (.failed e) => (s'.dropJob j).jobFail j 0x06 e.cls
    | .ok m =>
      let t := ({ s' with mem := m } : State).dropJob j
      match j.codes.findSome? fun c => c.bind fun st => if st = .ok then none else some st with
      | none => t
      | some st => t.jobFail j (MStatus.code st) 0

/-- Multicast stores all of whose members have a status are performed (R365). -/
def State.endJobs (s : State) : State :=
  (s.fab.jobs.filter fun j => j.started && j.codes.all (·.isSome) && !s.farWaits j.region).foldl (fun s j => s.writeAck j) s

/-! ### What this package answers itself (R363) -/

/-- A status with data from a target: one from this package itself is among its replies (R341, R363). -/
def State.answered (s : State) (target core : BitVec 16) (seq : BitVec 32) (st : MStatus) (data : List Byte) : Bool :=
  target != packageEp || s.fab.sentReplies.any fun r =>
    r.requester == packageEp && r.core == core && r.seq == seq && r.status == st && r.data.take data.length == data

/-- The packet writes a line as its elements of 8 bytes (R370). -/
def Packet.isLine (p : Packet) (line : List Byte) : Bool :=
  p.data == line && p.count == line.length / 8 && p.esize == 3 && p.stride == 8 && !p.indexed && p.indexes == []

/-- A packet that claims to come from this package has left it: a request without a reply that nothing holds back, or the copy of a multicast
packet whose branch has gone. -/
def State.hasSent (s : State) (p : Packet) : Bool :=
  p.requester != packageEp || (s.fab.reqs.any fun r =>
      { r.packet with attempt := p.attempt, alternate := p.alternate } == p && decide (p.attempt.toNat ≤ r.packet.attempt.toNat)
        && !heldBehind s.fab.reqs r) || s.fab.jobs.any fun j =>
    j.started && p.kind == 3 && Packet.isLine p j.line && p.offset == j.off && p.core.toNat == j.core && (j.members.zipIdx.any fun x =>
      x.1.pkg == packageEp && x.1.token == p.token && j.seqs.getD x.2 0 == p.seq && !s.fab.banks.any fun b => b.job == j.id && b.branches.contains x.2)

/-- A status of a member arrives, unless its branch has not gone yet. -/
def State.memberStatus (s : State) (j : McJob) (x : Nat × MStatus) : State :=
  match j.members[x.1]? with
  | none => s
  | some m =>
    if (s.fab.banks.any fun b => b.job == j.id && b.branches.contains x.1) || !s.answered m.pkg (BitVec.ofNat 16 j.core) (j.seqs.getD x.1 0) x.2 []
    then s else s.lineStatus j.id x.1 x.2

/-- ACKNOWLEDGEMENT_ARRIVAL (R365). -/
def execAcknowledgementArrival (s : State) : Host.Outcome State Fault Refusal :=
  match s.choice with
  | .statuses l => match s.fabHead with
    | none => .next s
    | some j => if j.started then .next ((l.foldl (fun s x => s.memberStatus j x) s).endJobs) else .next s
  | _ => .next s

/-! ### Timers (R346, R361) -/

/-- Duration of the timer of an attempt, in ns (R361). -/
def attemptTime : Nat := 2000

/-- The next attempt of a request, or its failure (R361). -/
def State.expire (s : State) (r : Req) : State :=
  if r.packet.attempt = 3 then ((s.endReq r .absent []).endLdrs).endJobs
  else
    let n := r.packet.attempt + 1
    let p := { r.packet with attempt := n, alternate := s.takesAlternate r.packet.target.toNat n.toNat }
    s.mapFab fun f => { f with reqs := f.reqs.map fun q => if q = r then { r with packet := p, sent := s.ftime } else q }

/-- The request that retries a line of a multicast store point to point (R365). -/
def State.lineReq (s : State) (j : McJob) (i : Nat) (m : Member) : Req :=
  let p : Packet :=
    { kind := 1, esize := 3, indexed := false, alternate := s.takesAlternate m.pkg.toNat 1, attempt := 1, requester := packageEp, target := m.pkg,
      count := j.line.length / 8, op := 0, opTy := 0, core := BitVec.ofNat 16 j.core, seq := j.seqs.getD i 0, token := m.token, offset := j.off,
      stride := 8, indexes := [], data := j.line, status := 0, members := [] }
  { core := j.core, handle := j.handle, wid := j.wid, packet := p, use := .line j.id i, addr := j.off, pc := j.pc, win := none, sent := s.ftime }

/-- A member without a status when the timer of a multicast store expires is retried. -/
def State.retryLine (s : State) (j : McJob) (i : Nat) : State :=
  match j.members[i]? with
  | none => s
  | some m =>
    if !j.started || j.codes.getD i (some .ok) != none || (s.fab.reqs.any fun r => r.use == .line j.id i) || decide (s.ftime < j.sent + attemptTime) then s
    else s.mapFab fun f => { f with reqs := f.reqs ++ [s.lineReq j i m] }

/-- FABRIC_ATTEMPT_TIMEOUT (R361, R365). -/
def execFabricAttemptTimeout (s : State) : Host.Outcome State Fault Refusal :=
  match s.choice with
  | .index i => match s.fab.reqs[i]? with
    | none => .next s
    | some r => if s.ftime < r.sent + attemptTime ∨ heldBehind s.fab.reqs r then .next s else .next (s.expire r)
  | .branch i m => match s.fab.jobs[i]? with
    | none => .next s
    | some j => .next (s.retryLine j m)
  | _ => .next s

/-- FABRIC_REPLY_ARRIVAL (R359): the reply to a packet of the active core. One that answers no outstanding packet is discarded (R361). -/
def execFabricReplyArrival (s : State) : Host.Outcome State Fault Refusal :=
  match s.choice with
  | .reply target seq st data => match s.fab.reqs.find? fun r => r.core == s.core.id && r.packet.target.toNat == target && r.packet.seq.toNat == seq with
    | none => .next s
    | some r =>
      if heldBehind s.fab.reqs r || (st == .ok && data.length != r.replyBytes) || !s.answered r.packet.target r.packet.core r.packet.seq st data then .next s
      else .next (((s.endReq r st data).endLdrs).endJobs)
  | _ => .next s

/-- ABORT_FLIT (R362): the whole packet is discarded and nothing of it performed. -/
def execAbortFlit (s : State) : Host.Outcome State Fault Refusal := .next s

/-- FABRIC_LINK_DOWN (R346). A courier path of this package runs over each of its links, so that one of them down originates a breach notice (R386)
(DEDUCED, log entry 47). -/
def execFabricLinkDown (s : State) : Host.Outcome State Fault Refusal :=
  match s.choice with
  | .port p =>
    if s.fab.down.contains p then .next s
    else
      let t := s.mapFab fun f => { f with down := p :: f.down }
      .next (if s.part.hasFab then t.originateBreach s.ftime else t)
  | .link n t => .next (s.mapFab fun f => { f with downFar := if f.downFar.contains (n, t) then f.downFar else (n, t) :: f.downFar })
  | _ => .next s

/-- FABRIC_LINK_UP (R346). -/
def execFabricLinkUp (s : State) : Host.Outcome State Fault Refusal :=
  match s.choice with
  | .port p => .next (s.mapFab fun f => { f with down := f.down.filter (· != p) })
  | .link n t => .next (s.mapFab fun f => { f with downFar := f.downFar.filter (· != (n, t)) })
  | _ => .next s

/-! ### The target (R347, R351 to R354, R357) -/

/-- The MAC key of an index (R411). -/
def macKey (i : Nat) : List Byte := shake256 (ascii "EWEHAM-KEY" ++ Config.packageSecret ++ [BitVec.ofNat 8 i]) 32

/-- The MAC of the upper bits of a token for a requester (R352). -/
def tokenMac (t : Word) (requester : Nat) : Nat :=
  let m := ((t.toNat / 2 ^ 24) * 2 ^ 24 + requester) % 2 ^ 64
  valueOfBytes (kmac256 (macKey ((bits t 24 8).toNat)) (bytesOf m 8) 3 (ascii "EWEHAM-GRANT"))

/-- The current epoch (R353). -/
def State.epoch (s : State) : Nat := s.ftime / 2 ^ 36 % 4096

/-- A token is expired (R353). -/
def State.expired (s : State) (t : Word) : Bool :=
  let d := (s.epoch + 4096 - (bits t 36 12).toNat) % 4096
  decide (1 ≤ d) && decide (d ≤ 2047)

/-- A window table entry (R347). -/
structure WinEntry where
  state : Nat
  rights : BitVec 4
  extent : Nat
  base : Nat
  deriving DecidableEq, Repr

/-- Entry `i` of the window table, when it is below `swcnt` and there is a table (R347, R350). -/
def State.window (s : State) (i : Nat) : Option WinEntry :=
  if s.fab.swcnt.toNat ≤ i ∨ tableBase s.fab.swtab = 0 then none
  else
    let v := s.mem.hbm.read (tableBase s.fab.swtab + 16 * i) 16
    some ⟨v / 2 ^ 116 % 4, BitVec.ofNat 4 (v / 2 ^ 112), v / 2 ^ 64 % 2 ^ 48, v % 2 ^ 52⟩

/-- Rights that a packet needs (R351, R354). -/
def Packet.needs (p : Packet) : BitVec 4 :=
  if p.kind == 0 then 1 else if p.kind == 1 then 2 else if p.kind == 2 then 4 else if p.kind == 3 then 0xA else 9

/-- Every byte lies within an extent. -/
def Packet.within (p : Packet) (extent : Nat) : Bool := (Packet.offsets p).all fun o => decide (o.toNat + (Packet.size p) ≤ extent)

/-- The checks of R354, in order: the window, or the status of the first that fails. -/
def State.admitted (s : State) (p : Packet) : Except MStatus WinEntry :=
  match s.window (bits p.token 48 16).toNat with
  | none => .error .revoked
  | some w =>
    if w.state ≠ 1 then .error .revoked
    else if s.fab.retired.contains (bits p.token 24 8).toNat then .error .revoked
    else if tokenMac p.token p.requester.toNat ≠ (bits p.token 0 24).toNat then .error .revoked
    else if s.expired p.token then .error .expired
    else if (bits p.token 32 4 &&& w.rights &&& (Packet.needs p)) ≠ (Packet.needs p) then .error .bounds
    else if !Packet.within p w.extent then .error .bounds
    else .ok w

/-- An uncorrectable error lies in a range of HBM. -/
def hbmRangeBad (m : Mem) (a n : Nat) : Bool := m.badHbm.any fun g => decide (g * 32 < a + n) && decide (a < g * 32 + 32)

/-- The elements of a read, and whether one met an uncorrectable error. -/
def State.performRead (s : State) (w : WinEntry) (p : Packet) : MStatus × List Byte :=
  let l := (Packet.offsets p).map fun o => w.base + o.toNat
  if l.any fun a => hbmRangeBad s.mem a (Packet.size p) then (.data, []) else (.ok, l.flatMap fun a => s.mem.hbm.bytes a (Packet.size p))

/-- The places of the elements of a packet. -/
def Packet.places (p : Packet) (w : WinEntry) : List Loc := (Packet.offsets p).map fun o => .hbm (w.base + o.toNat)

/-- The elements of a write. -/
def performWrite (w : WinEntry) (n : Nat) : Mem → List Word → List Byte → Mem
  | m, [], _ => m
  | m, o :: rest, d => performWrite w n (writeSoftBytes m (.hbm (w.base + o.toNat)) (d.take n)) rest (d.drop n)

/-- The elements of an atomic, by R252: old values, and whether one met an uncorrectable error (DEDUCED, log entry 31). -/
def performAtomic (w : WinEntry) (n : Nat) (op : AOp) (t : ETy) : Mem → List Word → List Byte → Mem × List Byte × Bool
  | m, [], _ => (m, [], false)
  | m, o :: rest, d =>
    let k := if op = .cas then 2 * n else n
    let a := w.base + o.toNat
    if hbmRangeBad m a n then
      let r := performAtomic w n op t m rest (d.drop k)
      (r.1, List.replicate n 0 ++ r.2.1, true)
    else
      let old := m.hbm.read a n
      let r := performAtomic w n op t (rmwLoc m (.hbm a) n (atomApply op t old (valueOfBytes (d.take n)) (valueOfBytes ((d.drop n).take n)))) rest (d.drop k)
      (r.1, bytesOf old n ++ r.2.1, r.2.2)

/-- A packet that passes the checks is performed: its status, the data of its reply, and the memories. -/
def State.performPacket (s : State) (w : WinEntry) (p : Packet) : MStatus × List Byte × Mem :=
  if p.kind == 0 || p.kind == 4 then let r := s.performRead w p; (r.1, r.2, s.mem)
  else if p.kind == 2 then
    let r := performAtomic w (Packet.size p) (AOp.ofCode p.op) (amoEty p.opTy) s.mem (Packet.offsets p) p.data
    if r.2.2 then (.data, [], r.1) else (.ok, r.2.1, r.1)
  else (.ok, [], healAll (performWrite w (Packet.size p) s.mem (Packet.offsets p) p.data) ((Packet.places p w).map fun l => (l, Packet.size p)))

/-- Where the agent of a packet is located: at the requesting package (R227). -/
def Packet.location (p : Packet) : Nat := if p.requester = packageEp then atPackage else atOther p.requester.toNat

/-- The request of this package itself that a packet is (R363). -/
def Req.sends (r : Req) (p : Packet) : Bool := p.requester == packageEp && r.packet.core == p.core && r.packet.seq == p.seq && r.packet.target == p.target

/-- What an access that arrives over the fabric orders, `s` being the state before it (R227 to R231): its reads find the releases of the bytes read.
An acquire of another package closes the regions of the commands whose completion stores it synchronises with (R235); one of this package itself
keeps them for its thread, and its stores pass on what they release. -/
def State.orderPacket (s : State) (w : WinEntry) (p : Packet) (t : State) : State :=
  let found := if p.kind == 1 || p.kind == 3 then [] else (Packet.places p w).flatMap fun l => pubsAt s.mem l (Packet.size p)
  let passes := ((t.fab.reqs.find? fun r => r.sends p).map (·.passes)).getD []
  let t := t.mapFab fun f => { f with reqs := f.reqs.map fun r => if r.sends p then { r with read := found } else r }
  let t := if p.requester != packageEp && Order.acquires p.order then t.mapMem fun m => closeHeard m (s.heard (Packet.location p) p.scope found) else t
  if Packet.writes p then t.mapMem fun m => (Packet.places p w).foldl (fun m l => passAll m l (Packet.size p) (Packet.location p) passes) m else t

/-! ### Packets as flits (R355) -/

/-- A flit of 64 bytes, filled up with zeros. -/
def flit (l : List Byte) : List Byte := l.take 64 ++ List.replicate (64 - l.length) 0

/-- The bytes of a list in whole flits. -/
def flitsOf : Nat → List Byte → List (List Byte)
  | 0, _ => []
  | n + 1, l => if l.isEmpty then [] else flit l :: flitsOf n (l.drop 64)

/-- The fields of a header in bytes 39:0. -/
def Packet.fields (p : Packet) : List Byte :=
  let form : Nat := p.esize % 4 + (if p.indexed then 4 else 0) + (if p.alternate then 8 else 0) + 16 * p.attempt.toNat
  bytesOf p.kind.toNat 1 ++ bytesOf form 1 ++ bytesOf p.requester.toNat 2 ++ bytesOf p.target.toNat 2 ++ bytesOf (p.count - 1) 1
    ++ bytesOf (p.op.toNat + 16 * p.opTy.toNat) 1 ++ bytesOf p.core.toNat 2 ++ bytesOf p.status.toNat 2 ++ bytesOf p.seq.toNat 4
    ++ bytesOf p.token.toNat 8 ++ bytesOf p.offset.toNat 8 ++ bytesOf (if p.indexed then 0 else p.stride.toNat) 8

/-- A packet as its flits: the header with the member list of a multicast packet from byte 40 on, the indexes, and the data (R355, R364)
(DESIGN CHOICE, log entry 97). -/
def Packet.flits (p : Packet) : List (List Byte) :=
  let all (l : List Byte) : List (List Byte) := flitsOf l.length l
  all (Packet.fields p ++ (if p.members.isEmpty then List.replicate 24 0 else Config.memberList p.members))
    ++ all (p.indexes.flatMap fun i => bytesOf i.toNat 8) ++ all p.data

/-- The packet that carries a reply or an acknowledgement (R355) (DESIGN CHOICE, log entry 97). -/
def SeqRec.packet (r : SeqRec) : Packet :=
  { kind := r.kind, esize := r.esize, indexed := false, alternate := false, attempt := 0, requester := packageEp, target := r.requester, count := r.count,
    op := 0, opTy := 0, core := r.core, seq := r.seq, token := 0, offset := 0, stride := 0, indexes := [], data := r.data,
    status := (MStatus.code r.status).setWidth 16, members := [] }

/-- The kind of the answer to a packet: a copy of a multicast write is acknowledged, and every other packet is replied to (R355, R364). -/
def Packet.answerKind (p : Packet) : BitVec 8 := if p.kind = 3 then 6 else 5

/-- The record of a packet that a target answers. -/
def Packet.record (p : Packet) (st : MStatus) (data : List Byte) (t : Nat) : SeqRec :=
  { kind := Packet.answerKind p, count := if data.isEmpty then 1 else p.count, esize := p.esize, requester := p.requester, core := p.core,
    seq := p.seq, status := st, data := data, at? := t }

/-- FABRIC_PACKET_ARRIVAL (R354, R357): the target answers a retry of what it has performed with the stored reply. -/
def execFabricPacketArrival (s : State) : Host.Outcome State Fault Refusal :=
  match s.choice with
  | .packet p =>
    let p := if p.kind = 3 then Packet.toMember p packageEp else p
    if p.target ≠ packageEp ∨ 4 < p.kind.toNat ∨ !s.part.hasFab ∨ !s.hasSent p then .next s
    else
      let writes := p.kind == 1 || p.kind == 2 || p.kind == 3
      match s.fab.records.find? fun r => r.requester == p.requester && r.core == p.core && r.seq == p.seq with
      | some r =>
        if writes then .next (s.mapFab fun f => { f with sentReplies := f.sentReplies ++ [{ r with kind := Packet.answerKind p }] })
        else .next (answer s p)
      | none => .next (answer s p)
  | _ => .next s
where
  /-- The packet is checked and performed, and its reply leaves. -/
  answer (s : State) (p : Packet) : State :=
    match s.admitted p with
    | .error st => s.mapFab fun f => { f with sentReplies := f.sentReplies ++ [Packet.record p st [] s.ftime] }
    | .ok w =>
      let r := s.performPacket w p
      let x := Packet.record p r.1 r.2.1 s.ftime
      let keep := p.kind == 1 || p.kind == 2 || p.kind == 3
      (s.orderPacket w p { s with mem := r.2.2 }).mapFab fun f =>
        { f with sentReplies := f.sentReplies ++ [x], records := if keep then f.records ++ [x] else f.records }

/-- Time for which a target keeps a record, in ns (R357). -/
def recordTime : Nat := 12000

/-- SEQUENCE_EXPIRY (R357). -/
def execSequenceExpiry (s : State) : Host.Outcome State Fault Refusal :=
  match s.choice with
  | .record r c q => .next (s.mapFab fun f => { f with records := f.records.filter fun x =>
      !(x.requester.toNat == r && x.core.toNat == c && x.seq.toNat == q && decide (x.at? + recordTime ≤ s.ftime)) })
  | _ => .next s

/-! ### Fabric time (R367) -/

/-- FTIME_RECEIVED (R367): a time that differs by more than the distribution allows sets the flag, one within it restores it
(DEDUCED, log entry 55). -/
def execFtimeReceived (s : State) : Host.Outcome State Fault Refusal :=
  match s.choice with
  | .time t bound =>
    if !s.part.hasFab then .next s
    else
      let u := s.mapFab fun f => { f with lastTime := s.ftime }
      .next (if t + bound < s.ftime ∨ s.ftime + bound < t then u.loseTime else u.mapFab fun f => { f with timeFlag := false })
  | _ => .next s

/-- FTIME_LOSS (R367). -/
def execFtimeLoss (s : State) : Host.Outcome State Fault Refusal :=
  if s.part.hasFab ∧ s.fab.lastTime + 1000000 ≤ s.ftime then .next s.loseTime else .next s

/-! ### Tokens and status (R372, R373) -/

/-- Supervisor-only in user mode (R299, R372). -/
def State.supervisorOnly (s : State) (ins : Instr) : Except Halt Unit := s.illegalIf ins (s.core.sup.mode == .user) 0x07

/-- `tok.set` (R372). -/
def execTokSet (i t w : Reg) (s : State) : Host.Outcome State Fault Refusal :=
  outcome s do
    s.fabUnit
    s.supervisorOnly (.tokSet i t w)
    let v := s.x w
    badId (decide (4095 < (s.x i).toNat) || bits v 52 12 != 0 || bits v 10 6 != 0 || decide (767 < (bits v 0 10).toNat))
    let e : TokEntry := { target := bits v 0 10, lbase := bits v 16 36, token := s.x t }
    let n := (s.x i).toNat
    .ok ((s.mapFab fun f => { f with tokens := (n, e) :: f.tokens.filter fun x => x.1 != n }).complete 4)

/-- Token table entry `n` is not valid from now on. -/
def State.clearToken (s : State) (n : Nat) : State := s.mapFab fun f => { f with tokens := f.tokens.filter fun x => x.1 != n }

/-- `tok.clr` (R372): it completes when every packet that used the entry has been answered or has failed. -/
def execTokClr (i : Reg) (s : State) : Host.Outcome State Fault Refusal :=
  match (do s.fabUnit; s.supervisorOnly (.tokClr i); badId (decide (4095 < (s.x i).toNat)) : Except Halt Unit) with
  | .error h => outcome s (.error h)
  | .ok _ =>
    let n := (s.x i).toNat
    let s' := s.clearToken n
    if s.fab.reqs.any fun r => r.win == some n then .next (s'.setRun .waiting) else .next (s'.complete 4)

/-- `fab.stat` (R373). -/
def execFabStat (d : Reg) (sel : BitVec 2) (s : State) : Host.Outcome State Fault Refusal :=
  outcome s do
    s.fabUnit
    if sel == 0 then .ok ((s.setX d (word (s.countMine .fabric))).complete 4)
    else if sel == 1 then do
      s.drainFabric
      match s.myFail (· == .fabric) with
      | none => .ok ((s.setX d 0).complete 4)
      | some f => .ok (((s.unfail f).setX d (failWord f.status f.cls f.count)).complete 4)
    else if sel == 2 then .ok ((s.setX d (BitVec.ofBool s.fab.timeFlag ++ 0#54 ++ Config.packageNumber)).complete 4)
    else .ok ((s.setX d (word s.epoch)).complete 4)

end Sys2Proof.Machine
end

