-- ==== Sys2Proof/Machine/Context.lean ====
section
/-! DEFINITION. State registers by number (R56, R286, R305, R350), context images (R309 to R314) and the ownership of vector state
(R311). -/

namespace Sys2Proof.Machine

/-! ### State registers by number (R56) -/

/-- A user state register that is scalar state of the thread, by number (R56, R309). -/
def StateRegs.get (r : StateRegs) (n : Nat) : Option Word :=
  match n with
  | 0x002 => some r.wid
  | 0x015 => some (r.bplane.setWidth 64)
  | 0x016 => some (r.slip.setWidth 64)
  | 0x017 => some (r.skew.setWidth 64)
  | 0x020 => some (r.fcsr.setWidth 64)
  | 0x021 => some r.tflags
  | 0x022 => some r.dhealth
  | 0x023 => some (r.tctl.setWidth 64)
  | 0x024 => some r.dkey
  | 0x025 => some r.dstep
  | 0x026 => some r.dsig
  | 0x040 => some r.stklim
  | 0x041 => some r.uvec
  | 0x042 => some r.uepc
  | 0x043 => some r.ucause
  | 0x044 => some r.uaddr
  | 0x045 => some r.uvia
  | 0x046 => some r.udeleg
  | 0x051 => some r.qcount
  | 0x060 => some r.itin
  | 0x061 => some r.milestone
  | n => if h : 0x70 ≤ n ∧ n < 0x80 then some (r.cwin[n - 0x70]'(by omega)) else none

/-- The value of `fcsr` after a write (R57): a rounding mode of 4 to 7 leaves the mode. -/
def fcsrWrite (old : BitVec 13) (w : Word) : BitVec 13 := bits w 3 10 ++ (if w.getLsbD 2 then bits old 0 3 else bits w 0 3)

/-- The value of `slip` after a write (R56): above 8 it is 8. -/
def slipWrite (w : Word) : BitVec 4 := if 8 < (bits w 0 4).toNat then 8 else bits w 0 4

/-- Bits of an address register that holds bits [51:2] (R284, R286). -/
def vecMask : Word := 0x000FFFFFFFFFFFFC

/-- Bits of `udeleg` (R284). -/
def udelegMask : Word := 0x0000000000AFFFFE

/-- A user state register of the thread with a value written to it; reserved bits are ignored (R3, R56, R57, R284). -/
def StateRegs.put (r : StateRegs) (n : Nat) (w : Word) : StateRegs :=
  match n with
  | 0x002 => { r with wid := w }
  | 0x015 => { r with bplane := bits w 0 32 }
  | 0x016 => { r with slip := slipWrite w }
  | 0x017 => { r with skew := bits w 0 4 }
  | 0x020 => { r with fcsr := fcsrWrite r.fcsr w }
  | 0x021 => { r with tflags := w }
  | 0x022 => { r with dhealth := w &&& 0xFFFF }
  | 0x023 => { r with tctl := bits w 0 4 }
  | 0x024 => { r with dkey := w }
  | 0x025 => { r with dstep := w }
  | 0x026 => { r with dsig := w &&& 0xFFFFFFFF }
  | 0x040 => { r with stklim := w }
  | 0x041 => { r with uvec := w &&& vecMask }
  | 0x042 => { r with uepc := w }
  | 0x043 => { r with ucause := w &&& 0x800000000000FFFF }
  | 0x044 => { r with uaddr := w }
  | 0x045 => { r with uvia := w }
  | 0x046 => { r with udeleg := w &&& udelegMask }
  | 0x051 => { r with qcount := w }
  | 0x060 => { r with itin := w }
  | 0x061 => { r with milestone := w }
  | n => if h : 0x70 ≤ n ∧ n < 0x80 then { r with cwin := r.cwin.set (n - 0x70) w (by omega) } else r

/-- A user state register that is vector state, by number (R310). -/
def Vec.get (p : Part) (v : Vec) (n : Nat) : Option Word :=
  match n with
  | 0x010 => some (word v.vl)
  | 0x011 => some (word (v.shapeN + 256 * v.shapeK))
  | 0x012 => some (word (groups v.shapeN v.shapeK * p.eg))
  | 0x013 => some v.vstart
  | 0x014 => some v.vfault
  | 0x030 => some v.mxprog
  | 0x031 => some (0#47 ++ bit1 v.mxImg ++ v.mxCols ++ v.mxRows)
  | _ => none

/-- A user state register by number (R56). -/
def State.userReg (s : State) (n : Nat) : Option Word :=
  match n with
  | 0x000 => some s.part.cap
  | 0x001 => some (word s.core.id)
  | 0x050 => some (word s.ftime)
  | n => (s.st.get n).orElse fun _ => s.core.vec.get s.part n

/-! ### Context images (R312, R313) -/

/-- The five words of the loop stack entry (R312); the index in bits [47:0]. -/
def LoopEntry.words (e : LoopEntry) : List Word :=
  [e.start, e.last, e.remaining, (if e.kind = .loop then 0#2 else 1#2) ++ 0#14 ++ bits e.index 0 48]

/-- The entry in four words; its addresses are those of words (R58). -/
def parseLoop (l : List Word) : LoopEntry :=
  let w := l.getD 3 0
  { kind := if w.getLsbD 62 then .frame else .loop, start := State.wordPc (l.getD 0 0), last := State.wordPc (l.getD 1 0),
    remaining := l.getD 2 0, index := w &&& 0xFFFFFFFFFFFF }

/-- The bytes of an `f` register (R312). -/
def FReg.bytes (f : FReg) : List Byte :=
  bytesOf f.tag.bits.toNat 8 ++ bytesOf f.val.toNat 4 ++ ((List.range 16).flatMap fun i => bytesOf (f.tan.getD i 0).toNat 4) ++ List.replicate 4 0

/-- The format of a code (R46). -/
def fmtOfCode (c : Nat) : Fmt :=
  match c with
  | 1 => .f32 | 2 => .f16 | 3 => .bf16 | 4 => .i8 | 5 => .i16 | 6 => .i32 | 7 => .i64 | 8 => .mask
  | _ => .void

/-- The bundle of a code (R46). -/
def bundleOfCode (c : Nat) : Bundle :=
  match c with
  | 1 => .w1 | 2 => .w2 | 3 => .w4 | 4 => .w8 | 5 => .w16
  | _ => .w0

/-- The tag in 16 bits (R46). -/
def parseTag (n : Nat) : Tag := { full := n / 128 % 2 == 1, bundle := bundleOfCode (n / 16 % 8), fmt := fmtOfCode (n % 16) }

/-- The `f` register in 80 bytes. -/
def parseF (l : List Byte) : FReg :=
  let t := parseTag (field l 0 2)
  { tag := t, val := BitVec.ofNat 32 (field l 8 4), tan := (List.range (Bundle.planes t.bundle)).map fun i => BitVec.ofNat 32 (field l (12 + 4 * i) 4) }

/-- The saved vector state of an image. -/
def State.savedVec (s : State) (image : Word) : Option Vec := (s.sched.vimages.find? fun v => v.image == image).map (·.vec)

/-- Matrix state is there to be saved. -/
def Vec.usesMx (v : Vec) : Bool := v.mx != .reset || v.tiles.toList.any fun t => t.tag != .void

/-- Slot bytes of a shape, S (R272). -/
def Vec.slotBytes (p : Part) (v : Vec) : Nat := groups v.shapeN v.shapeK * p.eg * 4 * (1 + v.shapeK) + 64

/-- Bytes of a mask: 2 × G × EG bits (R44). -/
def Vec.maskBytes (p : Part) (v : Vec) : Nat := groups v.shapeN v.shapeK * p.eg / 4

/-- The fingerprint of an image (R313) with the shape of some vector state. -/
def fingerprint (p : Part) (v : Vec) (vstate : Bool) : Word :=
  BitVec.ofNat 16 (groups v.shapeN v.shapeK * p.eg) ++ BitVec.ofNat 8 v.shapeN ++ BitVec.ofNat 5 v.shapeK ++ BitVec.ofBool p.hasMx
    ++ BitVec.ofBool (vstate && v.usesMx) ++ BitVec.ofBool vstate ++ BitVec.ofNat 8 p.lanes ++ BitVec.ofNat 8 p.eg ++ 0#8 ++ 1#8

/-- Size of an image (R312). -/
def imageSize (p : Part) (v : Vec) (vstate : Bool) : Nat :=
  0x1400 + (if vstate then (v.shapeN + 18) * v.slotBytes p + 7 * v.maskBytes p + (if v.usesMx then Config.matrixSection else 0) else 0)

/-- The fingerprint that stands at an image. -/
def State.imageHead (s : State) (image : Word) : Word := word (s.mem.hbm.read image.toNat 8)

/-- The image has a vector section (R313). -/
def State.hasVector (s : State) (image : Word) : Bool := (s.imageHead image).getLsbD 32

/-- A word of the image of the resident thread that belongs to its vector section: it stays, or is `w` when the image has none (R311). -/
def State.keptWord (s : State) (off : Nat) (w : Word) : Word :=
  if s.hasVector s.core.me.image then word (s.mem.hbm.read (s.core.me.image.toNat + off) 8) else w

/-- The user state registers of an image (R312): those of R310 belong to the vector section. -/
def State.imageRegs (s : State) : List Word :=
  (List.range 256).map fun n => if (Vec.get s.part s.core.vec n).isSome then s.keptWord (0xC00 + 8 * n) 0 else (s.userReg n).getD 0

/-- The scalar section of the image of the resident thread (R309, R312). -/
def State.imageBytes (s : State) : List Byte :=
  let v := if s.core.sup.vown = s.core.me.image then s.core.vec else Vec.reset
  let words (l : List Word) : List Byte := l.flatMap fun w => bytesOf w.toNat 8
  let loops := s.loops.flatMap LoopEntry.words
  words ([s.keptWord 0 (fingerprint s.part v false), s.keptWord 8 (word (imageSize s.part v false)), s.pc, word s.loops.length] ++ loops
      ++ List.replicate (24 - loops.length) 0)
    ++ words ((List.range 32).map fun i => s.x (BitVec.ofNat 5 i))
    ++ ((List.range 32).flatMap fun i => (s.f (BitVec.ofNat 5 i)).bytes)
    ++ bytesOf s.core.sc.p.toNat 8 ++ List.replicate 24 0 ++ words s.imageRegs

/-- The scalar state in the bytes of an image; `qcount` starts at 0 (R309). -/
def parseScalar (l : List Byte) : Scalar :=
  let w (off : Nat) : Word := field8 l off
  let regs := (List.range 256).foldl (fun r n => r.put n (w (0xC00 + 8 * n))) StateRegs.reset
  { pc := State.wordPc (w 0x10)
    loops := (List.range (field l 0x18 8)).map fun i => parseLoop ((List.range 4).map fun j => w (0x20 + 32 * i + 8 * j))
    x := Vector.ofFn fun i => w (0xE0 + 8 * i.val), f := Vector.ofFn fun i => parseF (l.drop (0x1E0 + 80 * i.val)), p := BitVec.ofNat 8 (field l 0xBE0 1)
    st := { regs with qcount := 0, fcsr := bits (w (0xC00 + 8 * 0x20)) 0 13 } }

/-- Bytes of the scalar section of an image. -/
def scalarSection : Nat := 0x1400

/-- Bytes of a slot of an image whose fingerprint is `f` (R272, R312). -/
def imageSlot (f : Word) : Nat := (bits f 48 16).toNat * 4 * (1 + (bits f 35 5).toNat) + 64

/-- The bits of `shape`, `mxshape` and `mxprog` that have a meaning (R56, R206, R210), or all of a register. -/
def vectorMask (n : Nat) : Word :=
  if n = 0x011 then 0x1FFF else if n = 0x031 then 0x1FFFF else if n = 0x030 then 0xFFFFF0007F01FC03 else BitVec.allOnes 64

/-- A slot of a user state register in an image that no register, or no bit of its register, takes (R3, R4, R312). -/
def slotReserved (n : Nat) (w : Word) : Bool :=
  match StateRegs.reset.get n with
  | some _ => if n = 0x020 then w.toNat / 2 ^ 13 != 0 else (StateRegs.reset.put n w).get n != some w
  | none =>
    if [0x000, 0x001, 0x010, 0x011, 0x012, 0x013, 0x014, 0x030, 0x031, 0x050].contains n then (w &&& ~~~vectorMask n) != 0 else w != 0

/-- A reserved field of the scalar section of an image is not zero (R4, R312, R313). -/
def imageReserved (l : List Byte) : Bool :=
  bits (field8 l 0) 8 8 != 0 || field l 0xE0 8 != 0 || field l 0xBE1 31 != 0
    || (List.range 6).any (fun i => let w := field8 l (0x20 + 32 * i + 24)
         w.getLsbD 63 || bits w 48 14 != 0 || (decide (field l 0x18 8 ≤ i) && (List.range 32).any fun j => field l (0x20 + 32 * i + j) 1 != 0))
    || (List.range 32).any (fun i => field l (0x1E1 + 80 * i) 7 != 0 || field l (0x22C + 80 * i) 4 != 0)
    || (List.range 256).any fun n => slotReserved n (field8 l (0xC00 + 8 * n))

/-- The check of R314 of an image against a part: the detail of context-restore mismatch. `heads` are the headers of its slots. Where the shape's MVL is
that of the image, a saved `vl` may exceed it as far as elements of 8 bits do (R44) (DESIGN CHOICE, log entry 57). -/
def imageBad (p : Part) (l : List Byte) (heads : List (List Byte)) : Option (BitVec 8) :=
  let f := field8 l 0
  let n := (bits f 40 8).toNat; let k := (bits f 35 5).toNat
  let mvl := groups n k * p.eg
  if !shapeOk n k then some 0x03
  else if f.getLsbD 32 && ((decide (mvl < (bits f 48 16).toNat) && decide (mvl < field l (0xC00 + 8 * 0x10) 8))
    || decide (4 * mvl < field l (0xC00 + 8 * 0x10) 8)) then some 0x01
  else if f.getLsbD 33 && !p.hasMx then some 0x02
  else if bits f 0 8 != 1 || decide (6 < field l 0x18 8) || imageReserved l
    || (f.getLsbD 32 && heads.any fun h => (headerTag n k (bits f 48 16).toNat h).isNone) then some 0x04
  else none

/-- The check of R314 of the image at an address. -/
def State.imageFault (s : State) (image : Word) : Option (BitVec 8) :=
  let f := s.imageHead image
  let count := if f.getLsbD 32 then (bits f 40 8).toNat + 18 else 0
  imageBad s.part (s.mem.hbm.bytes image.toNat scalarSection)
    ((List.range count).map fun i => s.mem.hbm.bytes (image.toNat + scalarSection + i * imageSlot f) 64)

/-- The image of the resident thread is written, in HBM (R309, R312). -/
def State.saveScalar (s : State) : State := s.mapMem fun m => writeBytesLoc m (.hbm s.core.me.image.toNat) s.imageBytes

/-- What stays with the resident thread when it is switched out (R315). -/
def State.swappedOut (s : State) (asleep : Bool) : Swapped :=
  { me := s.core.me, asleep := asleep, region := s.core.region, seen := s.core.seen, loaded := s.core.loaded, fenced := s.core.fenced,
    atFence := s.core.atFence, xfail := s.core.xfail, claim := if asleep then s.claimAt else none }

/-- The resident thread is switched out (R309). -/
def State.switchOut (s : State) (asleep : Bool) : State :=
  s.saveScalar.mapSched fun d => { d with swapped := d.swapped ++ [s.swappedOut asleep] }

/-- A thread of no node that the dispatcher knows, by its image. -/
def strayThread (image root : Word) (sc : Scalar) : Thread :=
  { handle := 0, wid := sc.st.wid.toNat, image := image, stackLo := sc.st.stklim, stackHi := sc.st.stklim, root := root }

/-- The `x` registers of a thread whose values the fabric still owes (R38). -/
def State.owedX (s : State) (handle wid : Nat) : BitVec 32 :=
  let one (d : Reg) : BitVec 32 := if d = 0 then 0 else 1#32 <<< d.toNat
  (s.fab.reqs.foldl (fun m r => match r.use with
    | .scalar d _ _ => if r.handle = handle ∧ r.wid = wid then m ||| one d else m
    | _ => m) 0) ||| s.fab.ldrs.foldl (fun m j => if j.handle = handle ∧ j.wid = wid ∧ !j.waits then m ||| one j.s else m) 0

/-- A core takes over what stayed with a thread while it was swapped out (R315). -/
def Core.seat (c : Core) (t : Swapped) : Core :=
  { c with me := t.me, region := t.region, seen := t.seen, loaded := t.loaded, fenced := t.fenced, atFence := t.atFence, xfail := t.xfail, via := 0,
           request := none, atTrap := false, looped := false, slept := false }

/-- The allotment of a thread moves to core `c` with it (R315). -/
def State.moveAllot (s : State) (t : Thread) (c : Nat) : State :=
  s.mapMem fun m => { m with allots := m.allots.map fun a => if a.handle = t.handle ∧ a.wid = t.wid then { a with core := c } else a }

/-- The thread whose scalar state is `sc` is switched in on the active core, with what stayed with it and with its allotment (R309, R315). -/
def State.switchIn (s : State) (image : Word) (sc : Scalar) : State :=
  match s.sched.swapped.find? fun t => t.me.image == image with
  | some t =>
    ((s.moveAllot t.me s.core.id).mapSched fun d => { d with swapped := d.swapped.erase t }).mapCore fun c =>
      { c.seat t with sc := sc, xpend := s.owedX t.me.handle t.me.wid }
  | none =>
    let (r, m) := openRegion s.mem
    ({ s with mem := m } : State).mapCore fun c =>
      { c with me := strayThread image c.sup.ptbase sc, sc := sc, region := r, seen := [], loaded := [], fenced := [], atFence := none, xfail := [],
               xpend := 0, via := 0, request := none, atTrap := false, looped := false, slept := false }

/-- Context-restore mismatch (R314): the image address in `saddr`. -/
def restoreMismatch (d : BitVec 8) (image : Word) : Exc := ⟨0x16, d, image, 0⟩

/-! ### Vector state (R310, R311) -/

/-- A fill of a register of core `c` has not completed (R50). -/
def State.fillsOpen (s : State) (c : Core) : Bool :=
  !c.fills.isEmpty || s.fab.reqs.any (fun r => r.core == c.id && (match r.use with | .lanes _ _ _ _ => true | .quant _ _ _ => true | _ => false))
    || s.fab.ldrs.any (fun j => j.core == c.id && !j.waits) || s.mem.ops.any fun o => o.core == c.id && o.dest.isSome

/-- The registers of an image's vector section, in order (R312). -/
def Vec.slotRegs (v : Vec) : List VReg := v.v.toList.take v.shapeN ++ v.o.toList ++ [v.l0, v.l1]

/-- A list of bytes filled up with zeros. -/
def padTo (n : Nat) (l : List Byte) : List Byte := l ++ List.replicate (n - l.length) 0

/-- The vector section of the image of the vector state that the active core holds: slots, masks, and the matrix section (R312) (DESIGN CHOICE,
log entry 57). No fill is under way, so that every register is full, but for those whose fill has failed. -/
def State.vectorBytes (s : State) : List Byte :=
  let v := s.core.vec
  (v.slotRegs.flatMap fun r => padTo (v.slotBytes s.part) (s.slotImage { r with tag := { r.tag with full := true } }))
    ++ ((List.range 7).flatMap fun i => bytesOf (v.k.toList.getD (i + 1) 0) (v.maskBytes s.part))
    ++ (if v.usesMx then (List.range Config.matrixSection).map (Config.matrixByte s.free) else [])

/-- The vector state of the active core is written into its owner's image (R311) (DESIGN CHOICE, log entry 57). -/
def State.saveVec (s : State) : State :=
  let v := s.core.vec; let a := s.core.sup.vown.toNat
  let regs := ((List.range 256).filterMap fun n => (Vec.get s.part v n).map fun w => (n, w))
  let m := s.mem.hbm.writeBytes (a + 0x1400) s.vectorBytes
  let m := m.write a (fingerprint s.part v true).toNat 8
  let m := m.write (a + 8) (imageSize s.part v true) 8
  let m := regs.foldl (fun m x => m.write (a + 0xC00 + 8 * x.1) x.2.toNat 8) m
  (({ s with mem := { s.mem with hbm := m }, free := s.free + 1 } : State).mapSched fun d =>
    { d with vimages := ⟨s.core.sup.vown, s.core.id, v⟩ :: d.vimages.filter fun x => x.image != s.core.sup.vown })

/-- The start state of R28 in the active core: void registers whose contents are free. -/
def State.startVec (s : State) : State := ((s.mapVec fun _ => Vec.reset).reshape 8 0)

/-- The register in a slot of an image whose own MVL is `own`, on a core whose MVL for the shape is `mvl`: what lies past it is discarded (R314).
`old` is the register that was saved there: a failed one is so again. -/
def slotReg (n k own mvl : Nat) (old : VReg) (l : List Byte) : VReg :=
  match headerTag n k own (l.take 64) with
  | none => .void
  | some t =>
    if t.fmt = .void then .void
    else
      let plane (i : Nat) : Nat := planeOf t.fmt own ((l.drop (64 + 4 * own * i)).take (4 * own)) % 2 ^ (if t.fmt = .mask then 2 * mvl else 32 * mvl)
      { tag := { t with full := old.failed.isNone || old.tag.full }, planes := (List.range (1 + Bundle.planes t.bundle)).map plane, failed := old.failed }

/-- The vector state in the bytes of an image with its matrix section (R310 to R314). -/
def parseVec (p : Part) (l : List Byte) (saved : Vec) : Vec :=
  let f := field8 l 0
  let n := (bits f 40 8).toNat; let k := (bits f 35 5).toNat; let own := (bits f 48 16).toNat
  let mvl := groups n k * p.eg
  let reg (i : Nat) (old : VReg) : VReg := slotReg n k own mvl old ((l.drop (scalarSection + i * imageSlot f)).take (imageSlot f))
  let masks := l.drop (scalarSection + (n + 18) * imageSlot f)
  let w (r : Nat) : Word := field8 l (0xC00 + 8 * r)
  { v := Vector.ofFn fun i => if i.val < n then reg i.val saved.v[i] else .void
    o := Vector.ofFn fun i => reg (n + i.val) saved.o[i]
    l0 := reg (n + 16) saved.l0, l1 := reg (n + 17) saved.l1
    k := Vector.ofFn fun i => if i.val = 0 then 0 else valueOfBytes ((masks.drop ((i.val - 1) * (own / 4))).take (own / 4)) % 2 ^ (2 * mvl)
    shapeN := n, shapeK := k, vl := (w 0x10).toNat, vstart := w 0x13, vfault := w 0x14, tiles := saved.tiles
    mxRows := bits (w 0x31) 0 8, mxCols := bits (w 0x31) 8 8, mxImg := (w 0x31).getLsbD 16, mxprog := w 0x30, mx := saved.mx }

/-- Bytes of an image whose fingerprint is `f`, without a matrix section (R312). -/
def imageLength (f : Word) : Nat := scalarSection + ((bits f 40 8).toNat + 18) * imageSlot f + 7 * ((bits f 48 16).toNat / 4)

/-- The matrix commands in an image that can no longer be loaded are reported failed, and what the image stood for is gone (R31, R314). -/
def State.dropImage (s : State) (image : Word) : State :=
  let l := (s.sched.vimages.filter fun v => v.image == image).flatMap fun v => v.vec.mx.queue
  (l.foldl (fun s c => s.fail ⟨c.id, .matrix, c.handle, c.wid, 0x06, 0x16, 0, image, c.via⟩) s).mapSched fun d =>
    { d with vimages := d.vimages.filter fun v => v.image != image }

/-- The vector state of the resident thread is loaded from its image, or is the start state when the image has none (R311) (DESIGN CHOICE, log
entry 57). -/
def State.loadVec (s : State) : State :=
  let image := s.core.me.image
  if s.hasVector image then
    let l := s.mem.hbm.bytes image.toNat (imageLength (s.imageHead image))
    let old := (s.savedVec image).getD Vec.reset
    (s.mapVec fun _ => parseVec s.part l old).mapSched fun d => { d with vimages := d.vimages.filter fun x => x.image != image }
  else (s.dropImage image).startVec

/-- Core `c` writes the vector state that it holds into its owner's image, and neither owns one nor has its commands (R311). -/
def State.writeOut (s : State) (c : Core) : State :=
  (((s.activate c.id).saveVec.mapVec fun v => { v with mx := .reset }).mapSup fun u => { u with vown := 0 }).activate s.core.id

/-- The innkeeper's three steps of R311: they wait for the fills of the owner, and of the core that still holds the thread's own state, which
writes it out. An image that fails the check leaves the core unchanged (R314). -/
def State.takeVec (s : State) : Except Halt State :=
  let image := s.core.me.image
  let holder := s.parked.find? fun c => c.sup.vown == image
  if s.core.sup.vown = image then .ok s
  else if s.fillsOpen s.core || holder.any s.fillsOpen then .error .wait
  else
    let s := (holder.map s.writeOut).getD s
    match if s.hasVector image then s.imageFault image else none with
    | some d => .error (.partly (restoreMismatch d image) (s.mapSup fun u => { u with scause := u.scause &&& 0x7FFFFFFFFFFFFFFF }))
    | none =>
      let s' := if s.core.sup.vown = 0 then s else s.saveVec
      .ok (s'.loadVec.mapSup fun u => { u with vown := image })

end Sys2Proof.Machine
end

