-- ==== Sys2Proof/Machine/Sched.lean ====
section
/-! DEFINITION. The dispatcher: placement (R21 to R26, R302 to R304), thread start (R28, R29, R416), pre-emption (R306 to R308), switching
(R309, R315), retirement (R31, R34, R287) and completion of a node (R32), with the steps of a core that sleeps or waits (R30, R38, R50,
R51) and of time and errors (R289, R290, R413). -/

namespace Sys2Proof.Machine

/-! ### Mapping pages (R165, R416) -/

/-- A leaf entry is written for a page that is not mapped, with tables of the innkeeper where they are missing. -/
def State.mapAt (s : State) (va : Nat) (leaf : Word) : Nat → Nat → Option State
  | 0, base =>
    let a := base + 8 * (va / 2 ^ 16 % 512)
    if (word (s.mem.hbm.read a 8)).getLsbD 0 then none else some (s.mapMem fun m => writeEntry m a leaf)
  | l + 1, base =>
    let a := base + 8 * (va / 2 ^ pageShift (l + 1) % 512)
    let e := word (s.mem.hbm.read a 8)
    if e.getLsbD 0 then (if e.getLsbD 1 then none else s.mapAt va leaf l ((bits e 12 40).toNat * 4096))
    else match s.takeHbm with
      | none => none
      | some (f, t) =>
        let s' := t.mapMem fun m =>
          let lo := f * frameBytes
          writeEntry { m with hbm := m.hbm.writeBytes lo (List.replicate 4096 0)
                              tables := m.tables.filter fun x => !(decide (lo / 8 ≤ x.1) && decide (x.1 < lo / 8 + 512)) } a (word (lo + 1))
        s'.mapAt va leaf l (f * frameBytes)

/-- The page at `va` is mapped under a root. -/
def State.mapLeaf (s : State) (root va : Word) (leaf : Word) : Option State :=
  if bits va 52 12 != 0 || decide (remoteBase ≤ va.toNat) then none else s.mapAt va.toNat leaf 3 ((bits root 12 40).toNat * 4096)

/-- A page of a vector stack: mapped at tier 0 with R and W, with a frame of its own when it was not mapped (R416) (DEDUCED, log entry 59). The
space for vector stacks that a die has is any HBM frame that nothing holds (R21) (DESIGN CHOICE, log entry 104). -/
def State.stackPage (s : State) (root va : Word) : Option (State × List Nat) :=
  match pageLeaf s.mem.hbm root va with
  | some (_, e, _) => if e.getLsbD 5 && e.getLsbD 6 && tierOf e == 0 && !e.getLsbD 9 then some (s, []) else none
  | none => match s.takeHbm with
    | none => none
    | some (f, t) => (t.mapLeaf root va (word (f * frameBytes + 0x63))).map fun u => (u, [f])

/-- The first `n` pages of a vector stack, with the frames given (DEDUCED, log entry 59). -/
def State.stackPages (s : State) (root va : Word) : Nat → Option (State × List Nat)
  | 0 => some (s, [])
  | n + 1 => match s.stackPage root va with
    | none => none
    | some (t, l) => (t.stackPages root (va + word frameBytes) n).map fun r => (r.1, l ++ r.2)

/-- Pages of a vector stack of some bytes. -/
def stackCount (bytes : Nat) : Nat := (bytes + 65535) / 65536

/-- Frames that the stacks of `k` threads of a node may take, with the tables that map them (R21) (DESIGN CHOICE, log entry 104). -/
def Node.stackFrames (n : Node) (k : Nat) : Nat := if n.record.vstack = 0 then 0 else k * (stackCount n.record.vstack + 7)

/-! ### What a core can take (R21 to R26) -/

/-- Granules of a scratchpad allotment (R21). -/
def granules (bytes : Nat) : Nat := (bytes + 7935) / 7936

/-- Granules of a core's scratchpad (R21). -/
def coreGranules : Nat := 128

/-- Granules that a core has given out. -/
def State.granulesUsed (s : State) (c : Nat) : Nat := ((s.mem.allots.filter fun a => a.core == c).map fun a => granules a.spad).sum

/-- Claim-group slots that a core has given out. -/
def State.slotsUsed (s : State) (c : Nat) : Nat :=
  ((s.mem.allots.filter fun a => a.core == c).map fun a => ((s.node a.handle).map fun n => n.record.cgslots).getD 0).sum

/-- The core has no thread. -/
def State.coreFree (s : State) (c : Nat) : Bool := (s.coreAt c).run == .idle

/-- There is vector stack space for `k` threads of a node (R21) (DESIGN CHOICE, log entry 104). -/
def State.stackRoom (s : State) (n : Node) (k : Nat) : Bool := decide (n.stackFrames k ≤ countFrames n.reserve + countFrames s.freeFrames)

/-- The frames that are kept for a node are free for it. -/
def State.unreserve (s : State) (n : Node) : State :=
  (s.mapPorter fun p => { p with hbmFree := n.reserve ++ p.hbmFree }).mapNode n.handle fun n => { n with reserve := [] }

/-- Frames are kept for the stacks of the threads of a co-resident node from `wid` on, so that it is placed whole (R33, R304). -/
def State.reserveFrom (s : State) (n : Node) (wid : Nat) : State :=
  if n.record.coResident then
    let f := (takeFrames (n.stackFrames (n.record.threads - wid)) s.freeFrames).1
    (s.mapPorter fun p => { p with hbmFree := cutAll f p.hbmFree }).mapNode n.handle fun n => { n with reserve := f }
  else s

/-- The scratchpad and the claim-group slots of a core have room for a thread of a node (R21). R21 does not say where in a scratchpad allotments lie,
so that only the number of free granules counts (DESIGN CHOICE, log entry 111). -/
def State.hasRoom (s : State) (n : Node) (c : Nat) : Bool :=
  (!n.record.needsMx || s.part.hasMx) && decide (s.granulesUsed c + granules n.record.spad ≤ coreGranules)
    && decide (s.slotsUsed c + n.record.cgslots ≤ 16)

/-- The core is free and meets the needs of a thread of a node (R21). -/
def State.meets (s : State) (n : Node) (c : Nat) : Bool := s.coreFree c && s.hasRoom n c && s.stackRoom n 1

/-- Cluster or die of a core, as the placement scope of a node names. -/
def State.unitOf (s : State) (n : Node) (c : Nat) : Nat := c / Record.unit s.part n.record

/-- Number of the company of a thread at the node's placement level (R25). -/
def Node.companyOf (n : Node) (wid : Nat) : Nat := wid / 2 ^ sumWidths n.record.widths n.record.place

/-- The cluster or die of a company of which a thread has been placed (R26). -/
def State.homeOf (s : State) (n : Node) (company : Nat) : Option Nat :=
  (s.mem.allots.find? fun a => a.handle == n.handle && n.companyOf a.wid == company).map fun a => s.unitOf n a.core

/-- Threads of a company from `wid` on. -/
def Node.restOf (n : Node) (wid : Nat) : Nat :=
  min n.record.threads ((n.companyOf wid + 1) * 2 ^ sumWidths n.record.widths n.record.place) - wid

/-- Free cores of the cluster or die `u` that meet a node's needs. -/
def State.roomIn (s : State) (n : Node) (u : Nat) : Nat :=
  let k := Record.unit s.part n.record
  ((List.range k).filter fun i => decide (u * k + i < s.part.cores) && s.meets n (u * k + i)).length

/-- Free cores of every cluster or die. -/
def State.rooms (s : State) (n : Node) : List Nat := (List.range (s.part.cores / Record.unit s.part n.record)).map (s.roomIn n)

/-- The companies that follow thread `wid`'s can be placed whole in the rooms left (R304). -/
def Node.restFits (n : Node) (wid : Nat) (rooms : List Nat) : Bool :=
  let size := n.record.company
  let left := n.record.threads - (wid + n.restOf wid)
  let full := left / size; let part := left % size
  let k := (rooms.map (· / size)).sum
  if part = 0 then decide (full ≤ k) else decide (full < k) || (full == k && rooms.any fun r => decide (part ≤ r % size))

/-- A thread of a co-resident node can be placed on core `c` so that all its others can be placed as well (R33, R304). -/
def State.wholeFits (s : State) (n : Node) (c : Nat) : Bool :=
  s.stackRoom n (n.record.threads - n.nextWid) &&
  if n.record.place = 0 then decide (n.record.threads - n.nextWid ≤ (s.rooms n).sum)
  else
    let u := s.unitOf n c
    let rest := n.restOf n.nextWid
    let rooms := s.rooms n
    decide (rest ≤ rooms.getD u 0) && n.restFits n.nextWid (rooms.set u (rooms.getD u 0 - rest))

/-- The next thread of a node can start on core `c` (R21, R26, R33). -/
def State.canStart (s : State) (n : Node) (c : Nat) : Bool :=
  decide (n.nextWid < n.record.threads) && s.meets n c
    && (n.record.place == 0 || (s.homeOf n (n.companyOf n.nextWid)).all fun u => u == s.unitOf n c)
    && (!n.record.coResident || s.wholeFits n c)

/-- The thread's allotment is on core `c`, or can move there (R21, R315). -/
def State.roomFor (s : State) (n : Node) (t : Swapped) (c : Nat) : Bool :=
  ((findAllot s.mem.allots t.me.handle t.me.wid).any fun a => a.core == c) || s.hasRoom n c

/-- The swapped-out thread of a node that can go on, on core `c` (R302). -/
def State.canResume (s : State) (n : Node) (c : Nat) : Option Swapped :=
  if !s.coreFree c then none
  else s.sched.swapped.find? fun t => t.me.handle == n.handle && !t.asleep && s.roomFor n t c
    && (n.record.place == 0 || (s.homeOf n (n.companyOf t.me.wid)).all fun u => u == s.unitOf n c)

/-! ### Order (R301 to R304) -/

/-- A ready node waits (R301). -/
def State.waits (s : State) (n : Node) : Bool :=
  n.readyAt.isSome && (decide (n.nextWid < n.record.threads) || s.sched.swapped.any fun t => t.me.handle == n.handle && !t.asleep)

/-- The effective priority: it has risen for every 2^20 decisions that have passed while the node waited (R303). -/
def Node.level (n : Node) : Nat := min 7 (n.prio + n.waited / 2 ^ 20)

/-- The order of R302. -/
def Node.first (a b : Node) : Bool :=
  if a.level ≠ b.level then decide (b.level < a.level)
  else if a.readyAt ≠ b.readyAt then decide (a.readyAt.getD 0 < b.readyAt.getD 0) else decide (a.handle ≤ b.handle)

/-- A node put in at its place. -/
def insertNode (a : Node) : List Node → List Node
  | [] => [a]
  | b :: rest => if a.first b then a :: b :: rest else b :: insertNode a rest

/-- The waiting nodes by the order of R302. -/
def State.waiting (s : State) : List Node := (s.sched.nodes.filter s.waits).foldr insertNode []

/-- A co-resident node that has not started and cannot be placed on any core. -/
def State.unplaceable (s : State) (n : Node) : Bool :=
  n.record.coResident && n.nextWid == 0 && !(List.range s.part.cores).any fun c => s.canStart n c

/-- The node that begins to hold dies: the oldest of the highest effective priority that cannot be placed (R304). -/
def State.newHolder (s : State) : Option Node :=
  match s.waiting with
  | [] => none
  | a :: rest => ((a :: rest).filter fun n => n.level == a.level).find? s.unplaceable

/-- Nodes that hold dies now (R304): those that still wait to be placed, and the new one. -/
def State.updateHolds (s : State) : State :=
  let old := s.sched.holding.filter fun h => (s.node h).any fun n => n.nextWid == 0
  let l := match s.newHolder with
    | none => old
    | some n => if old.contains n.handle then old else old ++ [n.handle]
  s.mapSched fun d => { d with holding := l }

/-- The fewest dies that could take a node (R304). -/
def Node.diesNeeded (p : Part) (n : Node) : Nat :=
  let size := n.record.company
  let perDie := if n.record.place = 0 then p.coresPerDie else p.coresPerDie / Record.unit p n.record * (Record.unit p n.record / size)
  let companies := if n.record.place = 0 then n.record.threads else (n.record.threads + size - 1) / size
  (companies + perDie - 1) / perDie

/-- Die `d` is among those that a node holds: of the fewest that could take it, which ones is not specified (R304) (DESIGN CHOICE, log entry 58). -/
def holdsDie (p : Part) (n : Node) (d : Nat) : Bool :=
  let below (e : Nat) : Bool := decide (Config.holdRank n.handle e < Config.holdRank n.handle d)
    || (Config.holdRank n.handle e == Config.holdRank n.handle d && decide (e < d))
  decide (((List.range p.dies).filter below).length < n.diesNeeded p)

/-- A node may not start a thread on core `c`, whose die another node of higher effective priority holds (R304). -/
def State.heldBack (s : State) (n : Node) (c : Nat) : Bool :=
  s.sched.nodes.any fun h => s.sched.holding.contains h.handle && h.handle != n.handle && decide (n.level < h.level) && holdsDie s.part h (s.dieOf c)

/-- A co-resident node some of whose threads have started and others not yet: it is placed whole, so its threads come first (R33). -/
def State.halfPlaced (s : State) : Option Node :=
  s.sched.nodes.find? fun n => n.record.coResident && decide (0 < n.nextWid) && decide (n.nextWid < n.record.threads)

/-- The first waiting node that core `c` can take (R302). -/
def State.chosen (s : State) (c : Nat) : Option Node :=
  match s.halfPlaced with
  | some n => if s.canStart n c then some n else none
  | none => s.waiting.find? fun n => !s.heldBack n c && ((s.canResume n c).isSome || s.canStart n c)

/-! ### Starting and resuming threads (R28, R29, R416) -/

/-- A dispatch decision has been made: waiting nodes age (R303). -/
def State.decision (s : State) : State :=
  s.mapSched fun d => { d with decisions := d.decisions + 1, nodes := d.nodes.map fun n => if s.waits n then { n with waited := n.waited + 1 } else n }

/-- Core `c` put in, wherever it is. -/
def State.putCore (s : State) (c : Core) : State :=
  if s.core.id = c.id then { s with core := c } else { s with parked := insertCore c s.parked }

/-- The scalar state of a thread at its first instruction (R28). -/
def startScalar (n : Node) (wid stack : Nat) : Scalar :=
  let r := n.record
  let region := match r.regions with
    | g :: _ => if g.mode = .unused then 0 else g.base
    | [] => 0
  let hi := stack + (r.vstack + 63) / 64 * 64
  let slot (i : Nat) : Word := ((n.slots.find? fun x => x.1 == i).map fun x => word x.2.wdef).getD 0
  let x := (Scalar.reset.x.set 5 (word region)).set 3 (if r.vstack = 0 then 0 else word hi)
  { Scalar.reset with
    pc := r.prog, x := x
    st := { StateRegs.reset with wid := word wid, stklim := if r.vstack = 0 then 0 else word stack, itin := n.itin, cwin := Vector.ofFn fun i => slot i.val } }

/-- The thread that starts. -/
def startThread (n : Node) (wid stack image : Nat) (root : Word) : Thread :=
  let hi := stack + (n.record.vstack + 63) / 64 * 64
  let z := n.record.vstack = 0
  { handle := n.handle, wid := wid, image := word image, stackLo := if z then 0 else word stack, stackHi := if z then 0 else word hi, root := root }

/-- The address space of a node: that of its stream, or the root that the innkeeper gives a stream without one (R406) (DESIGN CHOICE, log entry 86). -/
def State.rootFor (s : State) (stream : BitVec 32) (root : Nat) : Word := ((s.stream stream).map (·.root)).getD (word root &&& 0x000FFFFFFFFFF000)

/-- The stream with its root kept (R406) (DESIGN CHOICE, log entry 86). -/
def State.keepStream (s : State) (stream : BitVec 32) (root : Word) : State :=
  if (s.stream stream).isSome then s else { s with streams := s.streams ++ [⟨stream, root, [], none, 0⟩] }

/-- Two ranges of addresses overlap. -/
def rangesMeet (a n b k : Nat) : Bool := decide (a < b + k) && decide (b < a + n)

/-- The bounds of R416 on the place of a vector stack; a stack is held until its node completes (R29). -/
def State.stackOk (s : State) (n : Node) (root : Word) (stack : Nat) : Bool :=
  let size := (n.record.vstack + 63) / 64 * 64
  n.record.vstack == 0 || (decide (stack % frameBytes = 0) && decide (stack + size < remoteBase)
    && !(n.record.regions.any fun g => g.mode != .unused && rangesMeet stack size g.base g.extent)
    && !s.mem.allots.any fun a => a.root == root && rangesMeet stack size a.stack a.size)

/-- No other thread has the context image. -/
def State.imageFree (s : State) (image : Nat) : Bool :=
  decide (image % 4096 = 0) && image != 0 && !(s.cores.any fun c => (c.run != .idle && c.me.image == word image) || c.sup.vown == word image)
    && !(s.sched.swapped.any fun t => t.me.image == word image) && !s.sched.vimages.any fun v => v.image == word image

/-- The vector state of a core whose vector unit nobody owns is that of the thread that starts (R28, R311) (DEDUCED, log entry 56). -/
def State.ownVec (s : State) (image : Word) : State :=
  if s.core.sup.vown = 0 then s.startVec.mapSup fun u => { u with vown := image } else s

/-- The next thread of a node starts on core `c` (R28, R29, R381): its allotment is reserved, its claim rings are cleared, and its context image has
no vector section (DEDUCED, log entry 56). -/
def State.startOn (s : State) (n : Node) (c stack image : Nat) (root : Word) (frames : List Nat) : State :=
  let wid := n.nextWid
  let a : Allot := { id := s.eng.nextId, handle := n.handle, wid := wid, core := c, spad := n.record.spad, root := root,
                     stack := if n.record.vstack = 0 then 0 else stack, size := (n.record.vstack + 63) / 64 * 64, frames := frames }
  let s := s.decision.mapEng fun e => { e with nextId := e.nextId + 1 }
  let s := (s.keepStream n.record.stream root).mapNode n.handle fun n => { n with nextWid := wid + 1, root := root }
  let s := (s.mapMem fun m => { m with allots := m.allots ++ [a] }).clearRings n a
  let (r, m) := openRegion s.mem
  let s : State := { s with mem := m }
  let k := s.coreAt c
  let k : Core := { k with
    run := .running, me := startThread n wid stack image root, sc := startScalar n wid stack,
    sup := { k.sup with mode := .user, ptbase := root, sctx := word image }, xpend := 0, xfail := [], via := 0, request := none, atTrap := false,
    looped := false, slept := false, region := r, seen := n.seen, loaded := [], fenced := [], atFence := none }
  let active := s.core.id
  let s := s.mapMem fun m => { m with hbm := m.hbm.write image (fingerprint s.part Vec.reset false).toNat 8 }
  ((s.putCore k).activate c |>.ownVec (word image)).activate active

/-- A swapped-out thread goes on on core `c` (R309, R315). When its image fails the check the core's registers stay as they are, and the
innkeeper ends the thread (R314, R287). -/
def State.resumeOn (s : State) (t : Swapped) (c : Nat) : State :=
  let active := s.core.id
  let s := s.activate c
  let s := match s.imageFault t.me.image with
    | none => ((s.mapSup fun u => { u with mode := .user, ptbase := t.me.root, sctx := t.me.image }).switchIn t.me.image
        (parseScalar (s.mem.hbm.bytes t.me.image.toNat scalarSection))).setRun .running
    | some d => ((s.mapSched fun q => { q with swapped := q.swapped.erase t }).mapCore fun k => k.seat t).toInnkeeper
        (restoreMismatch d t.me.image) s.pc
  s.activate active

/-- Core `c` takes a thread of the first waiting node whose needs it meets (R302). A place for a stack that R416 does not allow, and an image that
another thread has, are taken by no thread. -/
def State.dispatchTo (s : State) (c stack image root : Nat) : State :=
  match s.chosen c with
  | none => s
  | some n => match s.canResume n c with
    | some t => s.resumeOn t c
    | none =>
      let r := s.rootFor n.record.stream root
      if !s.stackOk n r stack || !s.imageFree image then s
      else match (s.unreserve n).stackPages r (word stack) (stackCount n.record.vstack) with
        | none => s
        | some (t, l) => ((t.startOn n c stack image r l).reserveFrom n (n.nextWid + 1)).updateHolds

/-- DISPATCH_THREAD (R302): a free core takes a thread. -/
def execDispatchThread (s : State) : Host.Outcome State Fault Refusal :=
  match s.choice with
  | .dispatch c stack image root =>
    if c < s.part.cores ∧ s.coreFree c then .next (s.updateHolds.dispatchTo c stack image root) else .next s
  | _ => .next s

/-- PRIORITY_AGING (R303): the rise of the node that the step names, which `Node.level` counts already, is entered in its record. -/
def execPriorityAging (s : State) : Host.Outcome State Fault Refusal :=
  match s.choice with
  | .handle h => .next (s.mapNode h fun n => if 2 ^ 20 ≤ n.waited then { n with prio := min 7 (n.prio + 1), waited := n.waited - 2 ^ 20 } else n)
  | _ => .next s

/-! ### Pre-emption (R306 to R308) -/

/-- The core has a thread. -/
def Core.seated (c : Core) : Bool := c.run != .idle && c.run != .stopped

/-- The active core holds a thread in user mode (DEDUCED, log entry 61). -/
def State.userThread (s : State) : Bool := s.core.sup.mode == .user && s.core.seated

/-- Effective priority of the node of a core's thread. -/
def State.levelOf (s : State) (c : Core) : Nat := ((s.node c.me.handle).map (·.level)).getD 0

/-- The package with every core free whose thread has at most the effective priority `l`: pre-emption can give these to a node of that priority. -/
def State.freed (s : State) (l : Nat) : State :=
  let f (c : Core) : Core := if c.seated && decide (s.levelOf c ≤ l) then { c with run := .idle } else c
  { s with core := f s.core, parked := s.parked.map f }

/-- A waiting node of at least the running node's effective priority can use the active core (R306). A co-resident node can when all the cores that it
needs are free or can become free in the same way (R33). -/
def State.rival (s : State) : Bool :=
  s.waiting.any fun n => decide (s.levelOf s.core ≤ n.level) &&
    (let t := s.freed n.level
     (t.canResume n s.core.id).isSome || t.canStart n s.core.id)

/-- A pre-emption request is raised, when none is pending. -/
def State.raiseRequest (s : State) : State := s.mapCore fun c => { c with request := some (c.request.getD 0) }

/-- What follows when `qcount` has reached `squant` (R306). -/
def State.quantum (s : State) : State :=
  if s.userThread ∧ s.core.request.isNone ∧ s.core.sup.squant.toNat ≤ s.st.qcount.toNat then
    if s.rival then s.raiseRequest else s.mapSt fun t => { t with qcount := 0 }
  else s

/-- QUANTUM_EXPIRY (R306). -/
def execQuantumExpiry (s : State) : Host.Outcome State Fault Refusal := .next s.quantum

/-- PREEMPTION_REQUEST (R306): at any time; it pends while the innkeeper runs. -/
def execPreemptionRequest (s : State) : Host.Outcome State Fault Refusal := if s.core.seated then .next s.raiseRequest else .next s

/-- The thread of a core sleeps, at an instruction (R30) or at `halt` (R31). -/
def Core.sleeps (c : Core) : Bool := c.run == .asleep || c.run == .halting

/-- The boundaries of R307 (DEDUCED, log entry 61). -/
def State.atBoundary (s : State) : Bool := s.loops.isEmpty || s.core.looped || s.core.atTrap || s.core.sleeps

/-- Quantum/iteration overrun goes to the innkeeper; the matrix engine stops at a stop point by itself (R206, R307). -/
def State.overrun (s : State) (d : BitVec 8) : State :=
  (s.mapCore fun c => { c with request := none, slept := c.sleeps }).toInnkeeper ⟨0x18, d, 0, 0⟩ s.pc

/-- PREEMPTION_LANDING (R307). -/
def execPreemptionLanding (s : State) : Host.Outcome State Fault Refusal :=
  if s.userThread ∧ s.core.request.isSome ∧ s.atBoundary then .next (s.overrun 0x01) else .next s

/-- ITERATION_OVERRUN (R308). -/
def execIterationOverrun (s : State) : Host.Outcome State Fault Refusal :=
  if s.userThread ∧ s.core.request.any fun n => decide (s.core.sup.pdl.toNat ≤ n) then .next (s.overrun 0x02) else .next s

/-- A pending request is delivered before the next instruction of the thread: landed at a boundary, else overrun after `pdl` instructions (R307,
R308). -/
def State.landed (s : State) : Option State :=
  if s.userThread && s.core.request.isSome then
    if s.atBoundary then some (s.overrun 0x01)
    else if s.core.request.any fun n => decide (s.core.sup.pdl.toNat ≤ n) then some (s.overrun 0x02)
    else none
  else none

/-- SLEEPING_THREAD_SWITCH_OUT (R315): the image records the PC of the sleeping instruction, and the core is free. -/
def execSleepingThreadSwitchOut (s : State) : Host.Outcome State Fault Refusal :=
  if s.core.sleeps ∧ s.core.sup.mode = .user then .next ((s.switchOut true).setRun .idle) else .next s

/-- A matrix fault has arisen behind `halt`, which delivers it when it issues again (R207, R300). -/
def State.haltFault (s : State) : Bool := s.core.run == .halting && s.core.sup.vown == s.core.me.image && s.core.vec.mx.fault.isSome

/-- THREAD_WAKE (R30): the sleeping thread of the active core issues its instruction again, or the swapped-out one that the step names can be
dispatched. -/
def execThreadWake (s : State) : Host.Outcome State Fault Refusal :=
  match s.choice with
  | .index i => .next (s.mapSched fun d => { d with swapped := d.swapped.modify i fun t => { t with asleep := false } })
  | _ => if s.core.run = .asleep ∨ s.haltFault then .next (s.setRun .running) else .next s

/-- ISSUE_WAIT_RELEASE (R38, R51): the instruction that waits issues again. -/
def execIssueWaitRelease (s : State) : Host.Outcome State Fault Refusal := if s.core.run = .waiting then .next (s.setRun .running) else .next s

/-! ### Values that return (R38, R50) -/

/-- A pending value of `x[r]` still depends on a reply. -/
def State.awaitsReply (s : State) (r : Reg) : Bool :=
  s.fab.reqs.any (fun q => s.mine q && (match q.use with | .scalar d _ _ => d == r | _ => false))
    || s.fab.ldrs.any fun j => s.isMe j.handle j.wid && j.s == r

/-- SCALAR_VALUE_RETURN (R38). -/
def execScalarValueReturn (s : State) : Host.Outcome State Fault Refusal :=
  match s.choice with
  | .reg r => if s.awaitsReply r then .next s else .next (s.mapCore fun c => { c with xpend := c.xpend &&& ~~~(1#32 <<< r.toNat) })
  | _ => .next s

/-- Elements of a register of the active core are still to come. -/
def State.awaitsFill (s : State) (r : VSpec) : Bool :=
  s.fab.reqs.any (fun q => q.core == s.core.id && (match q.use with | .lanes d _ _ _ => d == r | .quant d _ _ => d == r | _ => false))
    || s.fab.ldrs.any (fun j => j.core == s.core.id && !j.waits && VSpec.v j.v == r)
    || s.mem.ops.any fun o => o.core == s.core.id && o.dest.any fun d => d.1 == r

/-- A fill has ended: the register is full, or failed with the first error of its fills (R50, R52, R292) (DESIGN CHOICE, log entry 18). -/
def State.endFill (s : State) (r : VSpec) : State :=
  let err := s.core.fills.findSome? fun f => if f.reg = r then f.error else none
  (s.mapVec fun v => v.mapReg r fun q => match err with
    | none => { q with tag := { q.tag with full := true } }
    | some e => { q with failed := some e }).mapCore fun c => { c with fills := c.fills.filter fun f => f.reg != r }

/-- REGISTER_FILL_COMPLETE (R50). -/
def execRegisterFillComplete (s : State) : Host.Outcome State Fault Refusal :=
  match s.choice with
  | .fill r => if s.empty r && (s.vreg r).failed.isNone && !s.awaitsFill r then .next (s.endFill r) else .next s
  | _ => .next s

/-! ### Retirement and completion (R31, R32, R34, R287) -/

/-- The thread on the active core has asked for a service by `inncall 0x40`: innkeeper call is not delegated (R297, R406). -/
def State.programAsks (s : State) : Bool :=
  s.core.sup.mode == .supervisor && bits s.core.sup.scause 62 2 == 3 && bits s.core.sup.scause 0 16 == 0x1340 && !s.st.udeleg.getLsbD 0x13

/-- The class ends the thread whose exception the innkeeper has received (R287). -/
def State.ending (s : State) : Bool :=
  let c := bits s.core.sup.scause 8 8; let d := bits s.core.sup.scause 0 8
  s.core.sup.mode == .supervisor && s.core.sup.scause.getLsbD 63 && c != 0x14 && c != 0x18 && !s.programAsks
    && !((c == 0x09 && d == 0x01) && (s.makePresent s.core.sup.saddr).isSome) && !(c == 0x09 && d == 0x02)

/-- The matrix queue of a thread that the innkeeper ends has stopped at a fault, and no instruction of the thread will set it going again (R207): its
commands are reported failed (R34) (DESIGN CHOICE, log entry 112). -/
def State.mxStopped (s : State) : Bool := s.core.sup.vown == s.core.me.image && s.core.vec.mx.stands

/-- Such commands are reported failed, with the class of the fault, or `cls` when it has been delivered (R31, R294) (DESIGN CHOICE, log entry 112). -/
def State.failQueue (s : State) (image : Word) (cls : BitVec 8) : State :=
  match s.cores.find? fun c => c.sup.vown == image with
  | none => s
  | some c =>
    let q := (c.vec.mx.fault.map (·.cls)).getD cls
    (c.vec.mx.queue.foldl (fun s x => s.fail ⟨x.id, .matrix, x.handle, x.wid, 0x06, q, 0, 0, x.via⟩) s).onCore c.id
      fun c => { c with vec := { c.vec with mx := .reset } }

/-- A command of a thread, its matrix commands left out or not, has neither been performed nor reported failed (R31), or one of its accesses not been
performed. -/
def State.owes (s : State) (t : Thread) (matrix : Bool) : Bool :=
  let its (handle wid : Nat) : Bool := handle == t.handle && wid == t.wid
  (s.outstanding.any fun c => its c.handle c.wid && (matrix || c.queue != .matrix)) || (s.mem.ops.any fun o => its o.handle o.wid)
    || (s.fab.reqs.any fun r => its r.handle r.wid) || s.fab.ldrs.any fun j => its j.handle j.wid

/-- The resident thread is owed something before it retires. -/
def State.unsettled (s : State) : Bool := s.owes s.core.me (s.core.run == .halting || !s.mxStopped)

/-- The node counts a retired thread, and the first that was ended (R32, R287). -/
def State.countRetired (s : State) (t : Thread) (seen : List Nat) (ended : Bool) : State :=
  let cls := bits s.core.sup.scause 8 8
  s.mapNode t.handle fun n => { n with
    retired := n.retired + 1, after := n.after ++ seen
    ended := if ended && n.ended.isNone then some (cls, t.wid) else n.ended }

/-- The core is free, and nobody owns the vector state that was the thread's. -/
def State.vacate (s : State) : State :=
  let image := s.core.me.image
  let s := s.mapCore fun c => { c with
    run := .idle, xpend := 0, xfail := [], fills := if c.sup.vown = image then [] else c.fills, request := none, seen := [], loaded := [],
    fenced := [], atFence := none
    sup := { c.sup with mode := .user, scause := c.sup.scause &&& 0x7FFFFFFFFFFFFFFF, vown := if c.sup.vown = image then 0 else c.sup.vown } }
  { s with parked := s.parked.map fun c => if c.sup.vown = image then { c with sup := { c.sup with vown := 0 } } else c
           sched := { s.sched with vimages := s.sched.vimages.filter fun v => v.image != image } }

/-- No core owns the vector state of an image any more. -/
def State.disown (s : State) (image : Word) : State :=
  let f (c : Core) : Core := if c.sup.vown = image then { c with sup := { c.sup with vown := 0 } } else c
  { s with core := f s.core, parked := s.parked.map f }

/-- The innkeeper ends a swapped-out thread whose image has failed the check (R314, R287); the resident thread stays as it is. What the thread and its
commands did happens before what follows its node (R20). -/
def State.endAway (s : State) (t : Swapped) : State :=
  let mine (r : CmdRegion) : Bool := r.handle == t.me.handle && r.wid == t.me.wid
  let s := ((s.dropImage t.me.image).failQueue t.me.image 0x16).disown t.me.image
  let s := ((s.endCmds mine).countRetired t.me (t.seen ++ s.priorOf mine) true).mapSched fun d => { d with swapped := d.swapped.erase t }
  (s.mapMem fun m => closeRegions m [t.region]).mapSup fun u => { u with sctx := s.core.me.image, scause := u.scause &&& 0x7FFFFFFFFFFFFFFF }

/-- The thread whose image the core could not take at an `eret` (R314). -/
def State.mismatched (s : State) : Option Swapped :=
  if bits s.core.sup.scause 8 8 = 0x16 ∧ s.core.sup.saddr ≠ s.core.me.image then s.sched.swapped.find? fun t => t.me.image == s.core.sup.saddr
  else none

/-- A swapped-out thread is owed something before it retires: of its matrix commands, those that a core's engine still performs. -/
def State.unsettledAway (s : State) (t : Thread) : Bool := s.owes t (s.cores.any fun c => c.sup.vown == t.image && !c.vec.mx.stands)

/-- THREAD_RETIRE (R31, R34): a halted thread, or one that the innkeeper ends. Matrix commands that stand in the image of a thread that ends are
loaded first, to be dealt with; when the image can not be loaded they are reported failed. -/
def execThreadRetire (s : State) : Host.Outcome State Fault Refusal :=
  if s.core.run = .halting ∨ (s.core.run = .running ∧ s.ending) then
    match if s.core.run = .halting then none else s.mismatched with
    | some t => if s.unsettledAway t.me then .next s else .next (s.endAway t)
    | none =>
      if s.savedWork then match s.takeVec with
        | .ok t => .next t
        | .error (.partly _ t) => .next ((t.dropImage s.core.me.image).mapSup fun u => { u with scause := s.core.sup.scause })
        | .error _ => .next s
      else if s.unsettled then .next s
      else
        let ended := s.core.run != .halting
        let t := if ended then s.failQueue s.core.me.image (bits s.core.sup.scause 8 8) else s
        let t := t.closeCmds fun r => s.isMe r.handle r.wid
        .next (((t.countRetired s.core.me t.core.seen ended).mapMem fun m => closeRegions m [s.core.region]).vacate)
  else .next s

/-- The word that completion stores (R32, R287). -/
def Node.doneWord (n : Node) : Word :=
  match n.ended with
  | none => n.record.doneval
  | some (c, w) => 1#1 ++ 0x0B#7 ++ c ++ BitVec.ofNat 48 w

/-- One more completion store of a stream has faulted (R32). -/
def State.doneFault (s : State) (stream : BitVec 32) : State :=
  { s with streams := s.streams.map fun t => if t.id = stream then { t with faults := t.faults + 1 } else t }

/-- Step 2 of R32: the completion store, or one more fault counted against the stream. The dispatcher makes it as an agent at the package (R227),
with release at `.sys`. In the local window `done` names the scratchpad of the node's last thread, and a store to a fabric window leaves as a packet
whose answer the completion awaits, in the state of the error (DESIGN CHOICE, log entry 102). -/
def State.nodeDone (s : State) (n : Node) : Except State State :=
  if n.record.done = 0 then .ok s
  else match Machine.locate s.part s.mem (cmdSpace n.root n.handle (n.record.threads - 1)) n.record.done 8 .store with
    | .error _ => .ok (s.doneFault n.record.stream)
    | .ok (.fabric win _) => match s.farAns n.handle n.record.threads none true n.record.done 8 with
      | some (.data _) => .ok (s.dropFar n.handle n.record.threads none)
      | some (.failed _ _) => .ok ((s.dropFar n.handle n.record.threads none).doneFault n.record.stream)
      | some .awaited => .error s
      | none => .error (s.farSend ⟨0, n.handle, n.record.threads, 0, none⟩ .write ⟨.rel, .sys, n.after.map fun r => ⟨r, .sys, false⟩⟩
          win n.record.done 8 (bytesOf n.doneWord.toNat 8))
    | .ok l => .ok (s.mapMem fun m => passOn (writeLoc m l 8 n.doneWord.toNat) l 8 atPackage (n.after.map fun r => (r, .sys)))

/-- COMPLETION_INTERRUPT (R403). -/
def State.nodeInterrupt (s : State) (n : Node) : State :=
  if n.host then { s with host := { s.host with msix := s.host.msix ++ [1 + n.record.stream.toNat % 63] } } else s

/-- A page of a vector stack whose frame the innkeeper gave is unmapped, and the frame is free; a page that an open fabric window holds in HBM stays
(R407). -/
def State.freeStack (s : State) (root : Word) (frames : List Nat) (va : Word) : State :=
  match pageLeaf s.mem.hbm root va with
  | none => s
  | some (pte, e, _) =>
    if frames.contains (frameOfLeaf e) && tierOf e == 0 && !(s.porter.pins.any fun p => p.1 == pte) then
      (s.writeLeaf va pte 0).giveHbm (frameOfLeaf e)
    else s

/-- The vector stacks of a node are released (R29, R32). -/
def State.releaseStacks (s : State) (handle : Nat) : State :=
  (s.mem.allots.filter fun a => a.handle == handle).foldl (fun s a =>
    (List.range (stackCount a.size)).foldl (fun s i => s.freeStack a.root a.frames (word (a.stack + i * frameBytes))) s) s

/-- Step 3 of R32: the allotments are released, with the barrier marks in them (R258) (DESIGN CHOICE, log entry 43). -/
def State.releaseAllots (s : State) (handle : Nat) : State :=
  let s := s.releaseStacks handle
  let mine := (s.mem.allots.filter fun a => a.handle == handle).map (·.id)
  s.mapMem fun m => { m with
    allots := m.allots.filter fun a => a.handle != handle
    marks := m.marks.filter fun x => !mine.contains (8 * x.1 / 2 ^ 20)
    badSpad := m.badSpad.filter fun g => !mine.contains (8 * g / 2 ^ 20)
    spad := ⟨m.spad.cells.filter fun c => !mine.contains (c.1 / 2 ^ 20)⟩ }

/-- Step 4 of R32: the node leaves the pool and its edges are satisfied (R19, R20). -/
def State.satisfyEdges (s : State) (n : Node) : State :=
  let free (x : Node) : Node :=
    if x.edges.contains n.handle then
      let l := x.edges.filter (· != n.handle)
      { x with edges := l, seen := x.seen ++ n.after, readyAt := if l.isEmpty then some s.sched.decisions else x.readyAt }
    else x
  s.mapSched fun d => { d with nodes := (d.nodes.filter fun x => x.handle != n.handle).map free }

/-- NODE_COMPLETE (R32): once its last thread has retired; its itinerary ends then (R332), and the rest follows when the claims open at it have
closed (R394). -/
def execNodeComplete (s : State) : Host.Outcome State Fault Refusal :=
  match s.choice with
  | .handle h => match s.node h with
    | none => .next s
    | some n =>
      if n.retired < n.record.threads ∨ s.holdsMeet h then .next s
      else
        let s := (s.dropHolds h).unbindItin h
        if s.claimsOpen n then .next s
        else match s.nodeDone n with
          | .error t => .next t
          | .ok t => .next (((t.nodeInterrupt n).releaseAllots h).satisfyEdges n)
  | _ => .next s

/-! ### Time, errors and clocks (R289, R290, R413) -/

/-- TIMING_ERROR (R289): within the replay window the instruction is executed again with no architectural effect; after it, a machine check
goes to the innkeeper. -/
def execTimingError (s : State) : Host.Outcome State Fault Refusal :=
  match s.choice with
  | .late true => if s.core.run = .running ∨ s.core.run = .waiting ∨ s.core.run = .asleep then .next (s.except ⟨0x11, 0x10, 0, 0⟩) else .next s
  | _ => .next s

/-- Errors that the check of a place can correct (R290) (DESIGN CHOICE, log entry 60). -/
def ErrLoc.correctable : ErrLoc → Bool
  | .hbm _ => true | .cxl _ => true | .spad _ => true | .eweham => true | .vreg _ => false | .tile _ => false | .weightBuffer => false | .copyBuffer => false

/-- The die whose counter of corrected errors moves (R290): that of the scratchpad, else that of the active core (DESIGN CHOICE, log entry 60). -/
def State.errorDie (s : State) (l : ErrLoc) : Nat :=
  match l with
  | .spad k => match s.mem.allots.find? fun a => a.id == k / 2 ^ 20 with
    | some a => s.dieOf a.core % 8
    | none => s.dieOf s.core.id % 8
  | _ => s.dieOf s.core.id % 8

/-- An error that an Eweham link or a stage node's bank cannot correct: it meets the earliest packet of the active core without a reply, whose
consumer then meets data error with detail 0x07, or else the multicast packet at the head of the banks, which is lost (R290, R292) (DESIGN CHOICE,
log entry 105). -/
def State.spoilPacket (s : State) : State :=
  match s.fab.reqs.find? fun r => r.core == s.core.id && !heldBehind s.fab.reqs r with
  | some r => (((s.dropReq r).replyFail r .data ⟨0x11, 0x07, r.addr, r.pc⟩).endLdrs).endJobs
  | none => s.mapFab fun f => { f with banks := f.banks.drop 1 }

/-- An uncorrectable error arises, to be reported where it is consumed (R290, R292). -/
def State.spoil (s : State) (l : ErrLoc) : State :=
  let add (x : Nat) (b : List Nat) : List Nat := if b.contains x then b else x :: b
  match l with
  | .hbm a => s.mapMem fun m => { m with badHbm := add (a / 32) m.badHbm }
  | .cxl a => s.mapMem fun m => { m with badCxl := add (a / 32) m.badCxl }
  | .spad k => s.mapMem fun m => { m with badSpad := add (k / 8) m.badSpad }
  | .vreg r => s.mapVec fun v => v.mapReg r fun q => if q.tag.fmt = .void then q else { q with failed := some (q.failed.getD ⟨0x11, 0x03, 0, 0⟩) }
  | .tile t => s.mapVec fun v => { v with tiles := v.tiles.set t.toNat { v.tiles.get t.toFin with bad := true } t.isLt }
  | .weightBuffer => s.mapVec fun v => { v with mx := { v.mx with buf := { v.mx.buf with bad := true } } }
  | .copyBuffer => s.mapCore fun c => { c with copyBad := true }
  | .eweham => s.spoilPacket

/-- UNCORRECTABLE_ERROR (R290): corrected and counted, or left for its consumer. -/
def execUncorrectableError (s : State) : Host.Outcome State Fault Refusal :=
  match s.choice with
  | .error l corrected =>
    if corrected && ErrLoc.correctable l then
      .next { s with corrected := Vector.ofFn fun d => s.corrected.get d + (if d.val = s.errorDie l then 1 else 0) }
    else .next (s.spoil l)
  | _ => .next s

/-- DIE_CLOCK_LOWER (R413): timing only (DESIGN CHOICE, log entry 85). -/
def execDieClockLower (s : State) : Host.Outcome State Fault Refusal :=
  match s.choice with
  | .die d => .next { s with slow := s.slow ||| (1#8 <<< d.toNat) }
  | _ => .next s

/-- DIE_CLOCK_RAISE (R413): timing only. -/
def execDieClockRaise (s : State) : Host.Outcome State Fault Refusal :=
  match s.choice with
  | .die d => .next { s with slow := s.slow &&& ~~~(1#8 <<< d.toNat) }
  | _ => .next s

end Sys2Proof.Machine
end

