-- ==== Sys2Proof/Machine/Sys.lean ====
section
/-! DEFINITION. The SYS instructions (R295 to R300) and illegal instruction (R75): the state registers by number (R56, R286, R305, R350),
the calls and returns of the innkeeper, and `halt`. -/

namespace Sys2Proof.Machine

/-! ### State registers (R56, R286, R296, R305, R350) -/

/-- Bits of `scause` (R286). -/
def scauseMask : Word := 0xC00000000000FFFF

/-- Bits of an address register that holds bits [51:12] (R286). -/
def pageMask : Word := 0x000FFFFFFFFFF000

/-- Bits of an address register that holds bits [51:4] (R350). -/
def lineMask : Word := 0x000FFFFFFFFFFFF0

/-- A value of `squant` or `pdl` (R305): 1 to 2^48. -/
def clampQuantum (w : Word) : Word := if w = 0 then 1 else if 2 ^ 48 < w.toNat then 0x1000000000000 else w

/-- A supervisor state register by number. -/
def State.supReg (s : State) (n : Nat) : Option Word :=
  let u := s.core.sup
  match n with
  | 0x100 => some u.svec
  | 0x101 => some u.sepc
  | 0x102 => some u.scause
  | 0x103 => some u.saddr
  | 0x104 => some u.svia
  | 0x110 => some u.ptbase
  | 0x120 => some u.squant
  | 0x121 => some u.pdl
  | 0x122 => some u.sctx
  | 0x123 => some u.vown
  | 0x130 => some s.fab.sgtab
  | 0x131 => some s.fab.swtab
  | 0x132 => some s.fab.swcnt
  | _ => none

/-- A supervisor state register with a value written to it (R3). -/
def State.putSup (s : State) (n : Nat) (w : Word) : State :=
  match n with
  | 0x100 => s.mapSup fun u => { u with svec := w &&& vecMask }
  | 0x101 => s.mapSup fun u => { u with sepc := w }
  | 0x102 => s.mapSup fun u => { u with scause := w &&& scauseMask }
  | 0x103 => s.mapSup fun u => { u with saddr := w }
  | 0x104 => s.mapSup fun u => { u with svia := w }
  | 0x110 => s.mapSup fun u => { u with ptbase := w &&& pageMask }
  | 0x120 => s.mapSup fun u => { u with squant := clampQuantum w }
  | 0x121 => s.mapSup fun u => { u with pdl := clampQuantum w }
  | 0x122 => s.mapSup fun u => { u with sctx := w &&& 0xFFFFFFFFFFFFF000 }
  | 0x130 => s.mapFab fun f => { f with sgtab := w &&& lineMask }
  | 0x131 => s.mapFab fun f => { f with swtab := w &&& lineMask }
  | 0x132 => s.mapFab fun f => { f with swcnt := if 0x10000 < w.toNat then 0x10000 else w }
  | _ => s

/-- A state register by number. -/
def State.readReg (s : State) (n : Nat) : Option Word := if n < 0x100 then s.userReg n else s.supReg n

/-- A state register with a value written to it (R3). -/
def State.writeReg (s : State) (n : Nat) (w : Word) : State :=
  if 0x100 ≤ n then s.putSup n w
  else if n = 0x13 then s.mapVec fun v => { v with vstart := w }
  else if n = 0x14 then s.mapVec fun v => { v with vfault := w }
  else s.mapSt fun t => t.put n w

/-- The registers that only the device writes (R56, R305). -/
def readOnly (n : Nat) : Bool := [0x000, 0x001, 0x002, 0x010, 0x011, 0x012, 0x030, 0x031, 0x050, 0x051, 0x060, 0x061, 0x123].contains n

/-- The registers that are vector state (R310). -/
def vectorReg (n : Nat) : Bool := [0x010, 0x011, 0x012, 0x013, 0x014, 0x030, 0x031].contains n

/-- The checks of R296 on the number of a register (DEDUCED, log entry 63). -/
def State.regNumber (s : State) (i : Instr) (n : Nat) : Except Halt Unit := do
  s.illegalIf i (s.core.sup.mode == .user && decide (0x100 ≤ n)) 0x07
  s.illegalIf i (s.readReg n).isNone 0x06

/-- A register of the vector state belongs to its owner (R311). -/
def State.needReg (s : State) (n : Nat) : Except Halt Unit := if vectorReg n then s.needVec else .ok ()

/-- A window length that R383 refuses in the register of slot `g`. -/
def State.windowBad (s : State) (g : Nat) (w : Word) : Bool :=
  match s.slotGroup g with
  | none => true
  | some x => decide (w.toNat < x.minW) || decide (1048575 < w.toNat)

/-- A write, set or clear of a state register: `f` gives the new value from the old one (R296, R383) (DEDUCED, log entry 63). Vector-unit
owned comes after the details 0x06 to 0x08 (DESIGN CHOICE, log entry 100). -/
def State.changeReg (s : State) (i : Instr) (sreg : BitVec 12) (f : Word → Word) : Except Halt State := do
  let n := sreg.toNat
  let new := f ((s.readReg n).getD 0)
  s.regNumber i n
  s.illegalIf i (decide (0x70 ≤ n) && decide (n < 0x80) && s.windowBad (n - 0x70) new) 0x06
  s.illegalIf i (readOnly n) 0x08
  s.needReg n
  .ok ((s.writeReg n new).complete 4)

/-- `stread` (R296). -/
def execStread (d : Reg) (sreg : BitVec 12) (s : State) : Host.Outcome State Fault Refusal :=
  outcome s do
    s.regNumber (.stread d sreg) sreg.toNat
    s.needReg sreg.toNat
    .ok ((s.setX d ((s.readReg sreg.toNat).getD 0)).complete 4)

/-- `stwrite` (R296). -/
def execStwrite (a : Reg) (sreg : BitVec 12) (s : State) : Host.Outcome State Fault Refusal :=
  outcome s (s.changeReg (.stwrite a sreg) sreg fun _ => s.x a)

/-- `stset` (R296). -/
def execStset (a : Reg) (sreg : BitVec 12) (s : State) : Host.Outcome State Fault Refusal :=
  outcome s (s.changeReg (.stset a sreg) sreg fun w => w ||| s.x a)

/-- `stclr` (R296). -/
def execStclr (a : Reg) (sreg : BitVec 12) (s : State) : Host.Outcome State Fault Refusal :=
  outcome s (s.changeReg (.stclr a sreg) sreg fun w => w &&& ~~~(s.x a))

/-! ### Calls, returns and `halt` (R297, R298, R300) -/

/-- `inncall` (R297): it completes and counts (R306), and the exception that follows saves the PC after it. -/
def execInncall (n : BitVec 8) (s : State) : Host.Outcome State Fault Refusal :=
  .next ((s.complete 4).countIssue.quantum.deliver ⟨0x13, n, 0, 0⟩ (s.pc + 4))

/-- `dbgtrap` (R297). -/
def execDbgtrap (n : BitVec 8) (s : State) : Host.Outcome State Fault Refusal := .next (s.except ⟨0x12, n, 0, 0⟩)

/-- The innkeeper's work for the exception that it returns from (R287, R311): the vector state of the thread loaded, or the page of a tier-1
access made present. While the porter moves the page of a tier-2 access, it waits (DESIGN CHOICE, log entry 64). -/
def State.innkeep (s : State) : Except Halt State :=
  let u := s.core.sup
  let c := bits u.scause 8 8; let d := bits u.scause 0 8
  if !u.scause.getLsbD 63 || !u.scause.getLsbD 62 then .ok s
  else if c = 0x14 then s.takeVec
  else if c = 0x09 ∧ d = 0x01 then .ok ((s.makePresent u.saddr).getD s)
  else if c = 0x09 ∧ d = 0x02 then
    match pageLeaf s.mem.hbm u.ptbase (word (u.saddr.toNat / frameBytes * frameBytes)) with
    | some (_, leaf, _) => if tierOf leaf = 2 then .error .wait else .ok s
    | none => .ok s
  else .ok s

/-- The return to the thread of another image (R309, R314): the resident one is saved, and the core goes on with the other, unless its
image fails the check, which leaves the core as it was. -/
def State.switchTo (s : State) (image : Word) : State :=
  match s.imageFault image with
  | some d => (s.mapSup fun u => { u with scause := u.scause &&& 0x7FFFFFFFFFFFFFFF }).toInnkeeper (restoreMismatch d image) s.pc
  | none =>
    let t := if s.core.me.image = 0 then s.eretSup else s.eretSup.switchOut s.core.slept
    t.switchIn image (parseScalar (t.mem.hbm.bytes image.toNat scalarSection))

/-- The return from a pre-emption with no image selected: the thread is switched out, and the core is free for the dispatcher (R302, R309). -/
def State.leave (s : State) : State := (s.eretSup.switchOut s.core.slept).setRun .idle

/-- `eret` in supervisor mode (R286, R298, R309) (DESIGN CHOICE, log entry 64). `sctx` = 0 selects no image: after a pre-emption the thread leaves the
core, and otherwise it goes on (DESIGN CHOICE, log entry 126). -/
def State.eretTo (s : State) : Except Halt State := do
  let s ← s.innkeep
  if s.core.sup.sctx = 0 ∧ s.preempted then .ok s.leave
  else if s.core.sup.sctx = 0 ∨ s.core.sup.sctx = s.core.me.image then .ok s.eretSup
  else .ok (s.switchTo s.core.sup.sctx)

/-- `eret` (R298) (DESIGN CHOICE, log entry 65). -/
def execEret (s : State) : Host.Outcome State Fault Refusal :=
  outcome s (
    if s.core.sup.mode = .user then do
      s.illegalIf .eret (!s.st.ucause.getLsbD 63) 0x06
      .ok s.eretUser
    else s.eretTo)

/-- Translations of a page dropped from a TLB. -/
def dropPage (va : Word) (c : Core) : Core := { c with tlb := c.tlb.filter fun t => va.toNat / 2 ^ t.shift != t.va / 2 ^ t.shift }

/-- `tlb.inv` (R299): the table writes before it in program order are used by every later walk (R167). -/
def execTlbInv (a : Reg) (kind : TlbKind) (s : State) : Host.Outcome State Fault Refusal :=
  outcome s do
    s.supervisorOnly (.tlbInv a kind)
    let s : State := { s with mem := { s.mem with tables := showTables s.core.id s.mem.tables } }
    let everywhere (f : Core → Core) : State := { s with core := f s.core, parked := s.parked.map f }
    match kind with
    | .page => .ok ((s.mapCore (dropPage (s.x a))).complete 4)
    | .pkg => .ok ((everywhere (dropPage (s.x a))).complete 4)
    | .all => .ok ((everywhere fun c => { c with tlb := [] }).complete 4)

/-- The resident thread owns the vector state of the core (R311). -/
def State.ownsVec (s : State) : Bool := s.core.sup.vown == s.core.me.image

/-- `halt` (R300): a pending matrix fault is delivered first (R207), and the failures of earlier stores (R360); then the thread waits for its
commands, until THREAD_RETIRE, which closes its region (R235). A thread whose matrix commands stand in its image has them loaded first (R31). -/
def execHalt (s : State) : Host.Outcome State Fault Refusal :=
  if s.ownsVec then s.mxDo (.ok ()) stop else outcome s (do s.needSaved; stop s)
where
  /-- The thread waits for its commands. -/
  stop (s : State) : Except Halt State := do
    s.settleStores
    .ok (s.setRun .halting)

/-! ### Illegal instruction (R75, R76) -/

/-- The exception of the words at the PC when they are no instruction: unit absent for a whole major, else the lowest detail, where a `v`
register of no use in the thread's shape counts as 0x03, and a prefix at the end of a loop body as 0x05 (R71) (DEDUCED, log entry 30)
(DEDUCED, log entry 66). -/
def State.illegalAtPc (s : State) : Option Halt :=
  match s.fetchWord s.pc with
  | .error _ => none
  | .ok w =>
    match (if needsSecond w then s.fetchWord (s.pc + 4) else .ok 0) with
    | .error _ => none
    | .ok next => match decode w next with
      | .ok _ => none
      | .illegal d regs =>
        let (w', p) := reported w next
        let high := regs.any fun n => decide (s.nregs ≤ n.toNat)
        let m := major w'
        if m = 0x14 ∧ !s.part.hasMx then some (.exc ⟨0x02, 0x14, 0, 0⟩)
        else if m = 0x1A ∧ !s.part.hasFab then some (.exc ⟨0x02, 0x1A, 0, 0⟩)
        else
          let d := if p.isSome && s.prefixAtEnd && decide (5 < d.toNat) then 0x05 else d
          some (.exc ⟨0x01, if high && decide (3 < d.toNat) then 0x03 else d, reportWords w' p, 0⟩)

/-- ILLEGAL_INSTRUCTION (R75): the words at the PC are no instruction. -/
def execIllegalInstruction (s : State) : Host.Outcome State Fault Refusal :=
  match s.illegalAtPc with
  | none => .next s
  | some h => outcome s (.error h)

end Sys2Proof.Machine
end

