-- ==== Sys2Proof/Machine/HostIf.lean ====
section
/-! DEFINITION. The host's side: the registers of BAR0 (R400), submissions and their results (R401 to R404), boot and measurement (R409,
R410), and function-level reset. -/

namespace Sys2Proof.Machine

/-- The host's side changed by `f`. -/
def State.mapHost (s : State) (f : HostSide → HostSide) : State := { s with host := f s.host }

/-- The innkeeper runs (R409). -/
def State.booted (s : State) : Bool := s.host.bootst.getLsbD 0

/-! ### Results (R402, R406) -/

/-- A result is posted to the ring, SRHEAD advances, and vector 0 is sent (R402) (DESIGN CHOICE, log entry 68). -/
def State.postResult (s : State) (tag result : Word) : State :=
  if s.host.srbase = 0 then s
  else
    let a := s.host.srbase.toNat + 16 * (s.host.srhead.toNat % 256)
    (s.mapMem fun m => writeBytesLoc m (.hbm a) (bytesOf result.toNat 8 ++ bytesOf tag.toNat 8)).mapHost fun h =>
      { h with srhead := h.srhead + 1, msix := h.msix ++ [0] }

/-- Bytes 15:8 of the ring entry of a request (R402, R406). -/
def HostReq.tag (r : HostReq) : Word := if r.svc then r.val ||| 0x8000000000000000 else r.val

/-- The first request of the queue is answered. -/
def State.answerHead (s : State) (r : HostReq) (result : Word) : State :=
  (s.mapHost fun h => { h with queue := h.queue.drop 1 }).postResult r.tag result

/-! ### Taking requests (R401, R406) -/

/-- Most re-reads of a record (R401). -/
def mostReads : Nat := 16

/-- Time between two reads of a record, in ns (R401). -/
def rereadTime : Nat := 1000

/-- Bytes of the record of a request (R16, R405). -/
def HostReq.size (r : HostReq) : Nat := if r.svc then 64 else 256

/-- Address of the record of a request (R400). -/
def HostReq.addr (r : HostReq) : Nat := r.val.toNat / r.size * r.size

/-- The check code of a snapshot matches (R16, R401, R405). -/
def snapshotOk (l : List Byte) : Bool := (recordCrc l (if l.length = 64 then 0x3C else 0x7C)).toNat == field l (if l.length = 64 then 0x3C else 0x7C) 4

/-- A code of R407. -/
def serviceCode (l : List Byte) : Bool := decide (1 ≤ field l 0 2) && decide (field l 0 2 ≤ 0xB)

/-- A snapshot that matches: a node record is checked by R18, a service record waits for its service unless R407 does not list its code
(DEDUCED, log entry 67). -/
def State.takeSnapshot (s : State) (r : HostReq) (l : List Byte) : State :=
  if r.svc then
    if serviceCode l && field l 0x38 4 == 0 then s.mapHost fun h => { h with queue := { r with record := some l } :: h.queue.drop 1 }
    else s.answerHead r (SubStatus.word .badRec)
  else
    let x := s.submitRecord l none []
    x.2.answerHead r x.1

/-- The record of the first request is read (R401) (DESIGN CHOICE, log entry 68). -/
def State.readHead (s : State) (r : HostReq) : State :=
  if bits r.val 52 12 ≠ 0 ∨ !s.booted then s.answerHead r (SubStatus.word .badRec)
  else
    let l := s.mem.hbm.bytes r.addr r.size
    if snapshotOk l && !hbmRangeBad s.mem r.addr r.size then s.takeSnapshot r l
    else if mostReads ≤ r.tries then s.answerHead r (SubStatus.word .torn)
    else s.mapHost fun h => { h with queue := { r with tries := r.tries + 1, due := s.ftime + rereadTime } :: h.queue.drop 1 }

/-- Requests are taken one at a time, in order of arrival, until one is held (R401). -/
def State.pump (s : State) : Nat → State
  | 0 => s
  | n + 1 => match s.host.queue with
    | [] => s
    | r :: _ => if r.record.isSome ∨ s.ftime < r.due then s else (s.readHead r).pump n

/-- Requests are taken as far as they go. -/
def State.pumpAll (s : State) : State := s.pump s.host.queue.length

/-- A SUBMIT or SVCREQ write arrives. -/
def State.request (s : State) (w : Word) (svc : Bool) : State :=
  (s.mapHost fun h => { h with queue := h.queue ++ [⟨w, svc, 0, s.ftime, none⟩] }).pumpAll

/-- SUBMIT (R401). -/
def execSubmit (s : State) : Host.Outcome State Fault Refusal :=
  match s.choice with
  | .value w => .next (s.request w false)
  | _ => .next s

/-- SUBMIT_REREAD (R401): the first request is read again once it is due. -/
def execSubmitReread (s : State) : Host.Outcome State Fault Refusal := .next s.pumpAll

/-! ### BAR0 (R400, R404) -/

/-- An access to BAR0 that is whole and aligned. -/
def barAccess (off : BitVec 16) (size : Nat) : Bool := size == 8 && off.toNat % 8 == 0

/-- An offset in the MSI-X table of 64 vectors (R400). -/
def inMsixTable (off : Nat) : Bool := decide (0x1000 ≤ off) && decide (off < 0x1400)

/-- HOST_REGISTER_WRITE (R400). -/
def execHostRegisterWrite (s : State) : Host.Outcome State Fault Refusal :=
  match s.choice with
  | .hostReg off size w =>
    if !barAccess off size then .next s
    else if off = 0 then .next (s.request w false)
    else if off = 0x008 then .next (s.mapHost fun h => { h with srbase := w &&& pageMask })
    else if off = 0x028 then .next (s.request w true)
    else if inMsixTable off.toNat then
      .next (s.mapHost fun h => { h with msixTable := (off.toNat, w) :: h.msixTable.filter fun x => x.1 != off.toNat })
    else .next s
  | _ => .next s

/-- The value of a readable register of BAR0 (R400). -/
def State.barValue (s : State) (off : Nat) : Word :=
  if off = 0x008 then s.host.srbase
  else if off = 0x010 then s.host.srhead
  else if off = 0x018 then s.part.cap
  else if off = 0x020 then s.host.bootst
  else if inMsixTable off then ((s.host.msixTable.find? fun x => x.1 == off).map (·.2)).getD 0
  else 0

/-- HOST_REGISTER_READ (R400): a malformed access reads all ones; what SUBMIT and SVCREQ, which are written only, read as is not
specified (DESIGN CHOICE, log entry 69). -/
def execHostRegisterRead (s : State) : Host.Outcome State Fault Refusal :=
  match s.choice with
  | .hostReg off size _ =>
    if !barAccess off size then .next (s.mapHost fun h => { h with reads := h.reads ++ [BitVec.allOnes 64] })
    else if off = 0 ∨ off = 0x028 then
      let (n, s') := s.draw
      .next (s'.mapHost fun h => { h with reads := h.reads ++ [Config.hostValue n] })
    else .next (s.mapHost fun h => { h with reads := h.reads ++ [s.barValue off.toNat] })
  | _ => .next s

/-- HOST_WRITE (R404): bytes of a host write land in device memory. -/
def execHostWrite (s : State) : Host.Outcome State Fault Refusal :=
  match s.choice with
  | .hostWrite a l _ => .next (s.mapMem fun m => writeBytesLoc m (.hbm a) l)
  | _ => .next s

/-! ### Boot (R409, R410) and function-level reset (R404) -/

/-- A measurement of a digest (R410). -/
def measure (m d : List Byte) : List Byte := shake256 (m ++ d) 64

/-- `BOOTST` (R409). -/
def bootWord (fail : BitVec 4) (ready verified : Bool) : Word := 0#56 ++ fail ++ 0#2 ++ BitVec.ofBool ready ++ BitVec.ofBool verified

/-- The boot ROM's work on what the flash holds (R409), and the innkeeper's measurements of the firmware that it starts (R410)
(DESIGN CHOICE, log entry 70). -/
def State.bootFrom (s : State) (f : FlashRead) : State :=
  match f with
  | .unreadable => s.mapHost fun h => { h with bootst := bootWord 3 false false }
  | .malformed => s.mapHost fun h => { h with bootst := bootWord 2 false false }
  | .image code sig =>
    let d := shake256 code 64
    if Config.falconVerify d sig then
      s.mapHost fun h => { h with bootst := bootWord 0 true true, measure := (d :: Config.firmwareDigests).foldl measure h.measure }
    else s.mapHost fun h => { h with bootst := bootWord 1 false false }

/-- BOOT (R409): once after a reset. -/
def execBoot (s : State) : Host.Outcome State Fault Refusal :=
  match s.choice with
  | .flash f => if s.host.bootst = 0 then .next (s.bootFrom f) else .next s
  | _ => .next s

/-- The package after a function-level reset, before its boot: every node has ended and the pool is empty (R404); the memories and fabric
time stay (DESIGN CHOICE, log entry 71). -/
def State.functionReset (s : State) : State :=
  { State.reset with
    part := s.part, mem := { Mem.reset with hbm := s.mem.hbm, cxl := s.mem.cxl, badHbm := s.mem.badHbm, badCxl := s.mem.badCxl }
    agenda := s.agenda, choice := s.choice, tick := s.tick, free := s.free, ftime := s.ftime }

/-- FUNCTION_LEVEL_RESET (R404): the boot runs again on what the flash holds. -/
def execFunctionLevelReset (s : State) : Host.Outcome State Fault Refusal :=
  match s.choice with
  | .flash f => .next (s.functionReset.bootFrom f)
  | _ => .next s.functionReset

end Sys2Proof.Machine
end

