-- ==== Sys2Proof/Machine/Service.lean ====
section
/-! DEFINITION. The innkeeper's services (R405 to R408): PLACE, GROUP, CONTEXT, POOL, GTABLE, WINDOW, GRANT, RETIRE, TOKMAP, ATTEST and
MEASURE, asked for by the host or by a program. -/

namespace Sys2Proof.Machine

/-! ### Asking for a service (R405, R406) -/

/-- A service record (R405). -/
structure SvcRec where
  code : Nat
  flags : Nat
  stream : BitVec 32
  arg0 : Word
  arg1 : Word
  arg2 : Word
  arg3 : Word
  arg4 : Word
  out : Word
  deriving DecidableEq, Repr

/-- The record that 64 bytes hold. -/
def parseService (l : List Byte) : SvcRec :=
  { code := field l 0 2, flags := field l 2 2, stream := BitVec.ofNat 32 (field l 4 4), arg0 := field8 l 8, arg1 := field8 l 0x10, arg2 := field8 l 0x18,
    arg3 := field8 l 0x20, arg4 := field8 l 0x28, out := field8 l 0x30 }

/-- How a service ends: it has taken effect, it is refused with a status and changes nothing, or it goes on later. -/
inductive SvcEnd where
  | done (s : State)
  | refused (x : SubStatus)
  | later (s : State)

/-- What a program may not ask for, as a status (R406): a wrong check code, a malformed record, RETIRE, or a stream other than its own
(DEDUCED, log entry 67) (DEDUCED, log entry 77). -/
def State.programRefusal (s : State) (l : List Byte) : Option SubStatus :=
  if !snapshotOk l then some .torn
  else if !serviceCode l || field l 0x38 4 != 0 then some .badRec
  else if field l 0 2 = 8 ∨ (s.node s.core.me.handle).all (fun n => n.record.stream.toNat != field l 4 4) then some .denied
  else none

/-- A service goes on, for the program on core `core` or the host. -/
def State.begunBy (s : State) (core : Option Nat) : Option Begun := s.host.begun.find? fun b => b.core == core

/-- The service of a program or of the host goes on no more. -/
def State.endBegun (s : State) (core : Option Nat) : State := s.mapHost fun h => { h with begun := h.begun.filter fun b => b.core != core }

/-- The service goes on with its record. -/
def State.setBegun (s : State) (core : Option Nat) (l : List Byte) : State :=
  (s.endBegun core).mapHost fun h => { h with begun := h.begun ++ [⟨core, l⟩] }

/-- A service that was taken before for the same stream goes on, or waits with its record read, so that one of `core` waits (R406). -/
def State.mustFollow (s : State) (core : Option Nat) (stream : BitVec 32) : Bool :=
  let same (l : List Byte) : Bool := (parseService l).stream == stream
  (s.begunBy core).isNone && ((s.host.begun.any fun b => same b.record)
    || (core.isSome && s.host.queue.any fun r => r.svc && r.record.any same))

/-- The result of a program's request is in `a0`, and the thread goes on after its `inncall`. -/
def State.answerProgram (s : State) (w : Word) : State := ((s.dropFar s.core.me.handle s.core.me.wid none).setX 5 w).eretSup

/-- Who makes the accesses of a stream's services to fabric windows, as a `wid` that no thread has. -/
def svcWid (root : Word) : Nat := 2 ^ 65 + root.toNat

/-- A service of a code runs on a record that the program on a core, or the host, has asked for: `first` when it is taken, and `again` when it has begun
and could not end, given the page-table root that the innkeeper gives a stream without one (DEDUCED, log entry 77). `answer` gives the result. -/
def State.runService (s : State) (core : Option Nat) (l : List Byte) (root : Nat) (first again : State → Word → SvcRec → SvcEnd)
    (answer : State → Word → State) : State :=
  let r := parseService l
  if s.mustFollow core r.stream then s
  else
    let root := s.rootFor r.stream root
    match (if (s.begunBy core).isSome then again else first) (s.keepStream r.stream root) root r with
    | .done t => answer ((t.dropFar 0 (svcWid root) none).endBegun core) 0
    | .refused x => answer ((s.dropFar 0 (svcWid root) none).endBegun core) x.word
    | .later t => t.setBegun core l

/-- The service of a code for the program on the active core (R406): the record is read once, on the thread's behalf, as R168 lets the thread read it. -/
def State.serveProgram (s : State) (code root : Nat) (first again : State → Word → SvcRec → SvcEnd) : State :=
  let run (s : State) (l : List Byte) : State :=
    if field l 0 2 ≠ code then s else s.runService (some s.core.id) l root first again State.answerProgram
  match s.begunBy (some s.core.id) with
  | some b => run s b.record
  | none =>
    if !aligned (s.x 5) 64 then s.answerProgram (SubStatus.word .badRec)
    else match s.readUnits (s.x 5) 8 with
      | .ok (l, t) => match s.programRefusal l with
        | some x => t.answerProgram x.word
        | none => if field l 0 2 ≠ code then s else run t l
      | .error (.waitAs t) => t
      | .error .wait => s
      | .error _ => s.answerProgram (SubStatus.word .badRec)

/-- The service of a code, when one waits for it (R405, R406). -/
def State.serve (s : State) (code : Nat) (first : State → Word → SvcRec → SvcEnd) (again : State → Word → SvcRec → SvcEnd := first) :
    Host.Outcome State Fault Refusal :=
  match s.choice with
  | .service .program root => if s.programAsks then .next (s.serveProgram code root first again) else .next s
  | .service .host root => match s.host.queue with
    | [] => .next s
    | r :: _ => match r.record with
      | none => .next s
      | some l =>
        if field l 0 2 ≠ code then .next s
        else .next (s.runService none l root first again fun t w => (t.answerHead r w).pumpAll)
  | _ => .next s

/-- BADARG for flag bits that a service does not name, and for arguments that it does not use (R405). -/
def SvcRec.unused (r : SvcRec) (flags : Nat) (args : List Word) : Bool := r.flags / flags != 0 || args.any (· != 0)

/-- Flag bit 0. -/
def SvcRec.flag0 (r : SvcRec) : Bool := r.flags % 2 == 1

/-! ### Memory of a stream (R405, R406) -/

/-- Why a service does not go on with an access. -/
inductive SvcHalt where
  /-- it is refused -/
  | refused (x : SubStatus)
  /-- it awaits an answer of the fabric: the state in which it waits (R349) -/
  | later (s : State)
  deriving DecidableEq, Repr

/-- The end of a service that does not go on. -/
def SvcHalt.stop : SvcHalt → SvcEnd
  | .refused x => .refused x
  | .later s => .later s

/-- Such an access of `n` bytes: its answer, or the state in which the service awaits it. -/
def State.streamFar (s : State) (root : Word) (k : FarKind) (win : Nat) (va : Word) (n : Nat) (data : List Byte) : Except SvcHalt (List Byte) :=
  match s.farAns 0 (svcWid root) none (k != .read) va n with
  | some (.data b) => .ok b
  | some (.failed _ _) => .error (.refused .badArg)
  | some .awaited => .error (.later s)
  | none => .error (.later (s.farSend ⟨s.core.id, 0, svcWid root, 0, none⟩ k .weak win va n data))

/-- Bytes of the next unit of an access of `n` bytes at `va`. -/
def unitAt (va : Word) (n : Nat) : Nat := if va.toNat % 8 = 0 ∧ 8 ≤ n then 8 else 1

/-- `n` bytes at `va` in a fabric window, in at most `fuel` units. -/
def State.farBytes (s : State) (root : Word) (win : Nat) : Nat → Word → Nat → Except SvcHalt (List Byte)
  | 0, _, _ => .ok []
  | fuel + 1, va, n =>
    if n = 0 then .ok []
    else do
      let b ← s.streamFar root .read win va (unitAt va n) []
      let r ← s.farBytes root win fuel (va + word (unitAt va n)) (n - unitAt va n)
      .ok (b ++ r)

/-- Bytes are written at `va` in a fabric window, in at most `fuel` units. -/
def State.putFar (s : State) (root : Word) (win : Nat) : Nat → Word → List Byte → Except SvcHalt Unit
  | 0, _, _ => .ok ()
  | fuel + 1, va, l =>
    if l.isEmpty then .ok ()
    else do
      let n := unitAt va l.length
      let _ ← s.streamFar root .write win va n (l.take n)
      s.putFar root win fuel (va + word n) (l.drop n)

/-- The place of a byte of a stream's address space, with bytes to the end of its 64 KiB frame, when `right` of its leaf is set. -/
def State.streamLoc (s : State) (root va : Word) (right : Nat) : Option Loc :=
  if remoteBase ≤ va.toNat then none
  else match pageLeaf s.mem.hbm root va with
    | none => none
    | some (_, leaf, level) =>
      let a := (bits leaf 12 40).toNat * 4096 + va.toNat % 2 ^ pageShift level
      if !leaf.getLsbD right then none
      else if leaf.getLsbD 9 then (if s.part.hasFab then some (.fabric (bits leaf 52 12).toNat va.toNat) else none)
      else if tierOf leaf = 0 then some (.hbm a) else if tierOf leaf = 1 then some (.cxl a) else none

/-- An uncorrectable error lies in some bytes. -/
def rangeHasError (m : Mem) (l : Loc) (n : Nat) : Bool :=
  match l with
  | .hbm a => hbmRangeBad m a n
  | .cxl a => m.badCxl.any fun g => decide (g * 32 < a + n) && decide (a < g * 32 + 32)
  | _ => false

/-- Bytes to the end of the 64 KiB frame of an address. -/
def toFrameEnd (va : Word) : Nat := frameBytes - va.toNat % frameBytes

/-- `n` bytes of a stream's address space, when all can be read, through at most `fuel` frames. -/
def State.streamRead (s : State) (root : Word) : Nat → Word → Nat → Except SvcHalt (List Byte)
  | 0, _, n => if n = 0 then .ok [] else .error (.refused .badArg)
  | fuel + 1, va, n =>
    if n = 0 then .ok []
    else
      let k := min n (toFrameEnd va)
      match s.streamLoc root va 5 with
      | none => .error (.refused .badArg)
      | some (.fabric win _) => do
        let b ← s.farBytes root win k va k
        let r ← s.streamRead root fuel (va + word k) (n - k)
        .ok (b ++ r)
      | some l =>
        if rangeHasError s.mem l k then .error (.refused .badArg)
        else (s.streamRead root fuel (va + word k) (n - k)).map fun r => readBytes s.mem l k ++ r

/-- `n` bytes at `va`. -/
def State.streamBytes (s : State) (root va : Word) (n : Nat) : Except SvcHalt (List Byte) := s.streamRead root (n / frameBytes + 2) va n

/-- Bytes are written in a stream's address space, when all can be written. -/
def State.streamWrite (s : State) (root : Word) : Nat → Word → List Byte → Except SvcHalt State
  | 0, _, l => if l.isEmpty then .ok s else .error (.refused .badArg)
  | fuel + 1, va, l =>
    if l.isEmpty then .ok s
    else
      let k := min l.length (toFrameEnd va)
      match s.streamLoc root va 6 with
      | none => .error (.refused .badArg)
      | some (.fabric win _) => do
        s.putFar root win k va (l.take k)
        s.streamWrite root fuel (va + word k) (l.drop k)
      | some q => (s.mapMem fun m => writeBytesLoc m q (l.take k)).streamWrite root fuel (va + word k) (l.drop k)

/-- A service's output goes to `out`, when there is one (R405). -/
def State.output (s : State) (root out : Word) (l : List Byte) : SvcEnd :=
  if out = 0 then .done s
  else match s.streamWrite root (l.length / frameBytes + 2) out l with
    | .error h => h.stop
    | .ok t => .done t

/-- What the innkeeper keeps of a stream, changed by `f`. -/
def State.mapStream (s : State) (id : BitVec 32) (f : Stream → Stream) : State :=
  { s with streams := s.streams.map fun x => if x.id = id then f x else x }

/-! ### PLACE (R320, R407) -/

/-- No page of a range is mapped, and the range is ordinary memory. -/
def State.unmapped (s : State) (root va : Word) : Nat → Bool
  | 0 => true
  | n + 1 => decide (va.toNat < remoteBase) && (pageLeaf s.mem.hbm root va).isNone && s.unmapped root (va + word frameBytes) n

/-- The bytes of `n` pages of the source range, from address `a` up (DEDUCED, log entry 73). -/
def State.sourcePages (s : State) (root a : Word) : Nat → Except SvcHalt (List (List Byte))
  | 0 => .ok []
  | n + 1 => match s.streamBytes root a frameBytes with
    | .error h => .error h
    | .ok l => (s.sourcePages root (a + word frameBytes) n).map (l :: ·)

/-- Pages are mapped at tier 1, each with a new origin that holds its bytes. -/
def State.placePages (s : State) (root va : Word) (rights : Nat) : List (List Byte) → Option State
  | [] => some s
  | l :: rest => match takeFrame s.freeOrigins with
    | none => none
    | some (o, _) =>
      let t := (s.takeOrigin o).mapMem fun m => writeBytesLoc m (.cxl (o * frameBytes)) l
      match t.mapLeaf root va (word (o * frameBytes + 32 * rights + 0x0B)) with
      | none => none
      | some t => t.placePages root (va + word frameBytes) rights rest

/-- PLACE (DEDUCED, log entry 73). -/
def servePlace (s : State) (root : Word) (r : SvcRec) : SvcEnd :=
  let n := r.arg1.toNat
  if r.unused 2 [r.arg4] || !aligned r.arg0 frameBytes || n == 0 || decide (2 ^ 20 < n) || decide (15 < r.arg3.toNat)
      || (r.flag0 && decide (2 ^ 32 ≤ r.arg2.toNat)) || !s.unmapped root r.arg0 n then .refused .badArg
  else
    let fill := (List.replicate (frameBytes / 4) (bytesOf r.arg2.toNat 4)).flatten
    match (if r.flag0 then .ok (List.replicate n fill) else s.sourcePages root r.arg2 n) with
    | .error h => h.stop
    | .ok pages => match s.placePages root r.arg0 r.arg3.toNat pages with
      | none => .refused .noRoom
      | some t => .done t

/-- PLACE (R407). -/
def execPlace (s : State) : Host.Outcome State Fault Refusal := s.serve 0x01 servePlace

/-! ### GROUP (R381, R407) -/

/-- The members in `n` records, each checked (R381, R382). -/
def parseGroupMembers (p : Part) (domain : Bool) : Nat → List Byte → Option (List (BitVec 16 × Nat))
  | 0, _ => some []
  | n + 1, l =>
    let e := field l 0 2; let ring := field l 8 8
    let known := if domain then decide (e < 512) else decide (0x8000 ≤ e) && decide (e - 0x8000 < p.cores)
    if !known || field l 2 6 != 0 || ring % 32 != 0 then none
    else (parseGroupMembers p domain n (l.drop 16)).map ((BitVec.ofNat 16 e, ring) :: ·)

/-- The least window of a span (R382). -/
def leastW (domain : Bool) : Nat := if domain then 2 * 1200 + 2 * Part.epsDomain else 2 * 96

/-- The bytes of a descriptor break R381, R382 or R9. -/
def groupBad (p : Part) (l : List Byte) : Bool :=
  let domain := field l 0x12 1 == 1; let n := field l 0x10 2; let w := field l 0x14 4; let q := field l 0x13 1
  field l 0 8 == 0 || field l 8 8 % 16 != 0 || n == 0 || decide (512 < n) || decide (1 < field l 0x12 1) || (domain && !p.cap.getLsbD 1)
    || q == 0 || decide (64 < q) || decide (w < leastW domain) || decide (1048575 < w) || field l 0x18 8 % 8 != 0
    || decide (31 < field l 0x22 1) || field l 0x23 13 != 0

/-- The group that a checked descriptor and its members give. -/
def groupOf (l : List Byte) (members : List (BitVec 16 × Nat)) : Group :=
  { tag := field8 l 0, members := members, domain := field l 0x12 1 == 1, quota := field l 0x13 1, wdef := field l 0x14 4, effect := field8 l 0x18,
    stepkey := BitVec.ofNat 16 (field l 0x20 2), ctx := field l 0x22 1 }

/-- The descriptor at an address of a stream, with its members (DESIGN CHOICE, log entry 72). -/
def State.readGroup (s : State) (root va : Word) : Except SvcHalt Group :=
  if !aligned va 16 then .error (.refused .badRec)
  else match s.streamBytes root va 48 with
    | .error h => .error h
    | .ok l =>
      if groupBad s.part l then .error (.refused .badRec)
      else
        let n := field l 0x10 2
        match s.streamBytes root (field8 l 8) (16 * n) with
        | .error h => .error h
        | .ok m => match parseGroupMembers s.part (field l 0x12 1 == 1) n m with
          | none => .error (.refused .badRec)
          | some ms => .ok (groupOf l ms)

/-- The members of a group that lie in this package. -/
def Group.here (g : Group) : List (BitVec 16 × Nat) := if g.domain then g.members.filter fun m => m.1 == packageEp else g.members

/-- What a member keeps from a binding: its claims stay when the group was bound before (DEDUCED, log entry 48). A node that was accepted before keeps
the descriptor and the slot that it has (R406). -/
def State.bindMember (s : State) (stream : BitVec 32) (g : Group) (m : BitVec 16 × Nat) : State :=
  match s.member g.tag m.1 with
  | some _ => s.mapMember g.tag m.1 fun x => { x with stream := stream, group := g }
  | none => s.mapClaims fun c => { c with members := c.members ++ [⟨m.1, stream, g, 0, [], [], []⟩] }

/-- GROUP. -/
def serveGroup (s : State) (root : Word) (r : SvcRec) : SvcEnd :=
  if r.unused 2 (if r.flag0 then [r.arg0, r.arg2, r.arg3, r.arg4] else [r.arg2, r.arg3, r.arg4]) || decide (15 < r.arg1.toNat) then .refused .badArg
  else
    let slot := r.arg1.toNat
    let cut (x : Stream) : List (Nat × Group) := x.slots.filter fun y => y.1 != slot
    if r.flag0 then .done (s.mapStream r.stream fun x => { x with slots := cut x })
    else match s.readGroup root r.arg0 with
      | .error h => h.stop
      | .ok g => .done (g.here.foldl (fun s m => s.bindMember r.stream g m) (s.mapStream r.stream fun x => { x with slots := (slot, g) :: cut x }))

/-- GROUP (R407). -/
def execGroup (s : State) : Host.Outcome State Fault Refusal := s.serve 0x02 serveGroup

/-! ### CONTEXT and POOL (R190, R321, R407) -/

/-- A card that reads `STEP` of a context runs on some die. -/
def State.contextRuns (s : State) (ctx : Nat) : Bool :=
  s.eng.opt.any fun c => (c.run.isSome || c.fixed.isSome) && match c.body with
    | .card k => k.ctx && k.step.toNat == ctx
    | _ => false

/-- CONTEXT. The starting step is written when no card of the context runs (R190) (DEDUCED, log entry 107). -/
def serveContext (s : State) (_root : Word) (r : SvcRec) : SvcEnd :=
  let ctx := r.arg0.toNat
  let release := r.flags / 2 % 2 == 1
  if r.unused 4 [r.arg2, r.arg3, r.arg4] || decide (31 < ctx) || (r.flag0 && release) || (!r.flag0 && r.arg1 != 0) then .refused .badArg
  else if s.grants.any fun g => g.1 == ctx && g.2 != r.stream then .refused .denied
  else if s.sched.nodes.any fun n => n.contexts.contains ctx && n.record.stream != r.stream then .refused .denied
  else if release then .done { s with grants := s.grants.filter fun g => g.1 != ctx }
  else if r.flag0 && s.contextRuns ctx then .later s
  else
    let t := { s with grants := (ctx, r.stream) :: s.grants.filter fun g => g.1 != ctx }
    .done (if r.flag0 then t.setStepAll ctx r.arg1 else t)

/-- CONTEXT (R407). -/
def execContext (s : State) : Host.Outcome State Fault Refusal := s.serve 0x03 serveContext

/-- POOL. -/
def servePool (s : State) (_root : Word) (r : SvcRec) : SvcEnd :=
  if r.unused 1 [r.arg1, r.arg2, r.arg3, r.arg4] || r.arg0 == 0 || decide (2 ^ 24 < r.arg0.toNat) then .refused .badArg
  else .done (s.mapStream r.stream fun x => { x with pool := some r.arg0.toNat })

/-- POOL (R407). -/
def execPool (s : State) : Host.Outcome State Fault Refusal := s.serve 0x04 servePool

/-! ### GTABLE (R363, R407) -/

/-- Member records of a group table entry that are malformed (R4, R363). -/
def gtableBad : Nat → List Byte → Bool
  | 0, _ => false
  | n + 1, l => decide (511 < field l 0 2) || field l 2 6 != 0 || gtableBad n (l.drop 16)

/-- A group table entry is written (R363). -/
def State.writeGroupEntry (s : State) (gid array count : Nat) : State :=
  s.mapMem fun m => writeBytesLoc m (.hbm (tableBase s.fab.sgtab + 16 * gid)) (bytesOf array 8 ++ bytesOf count 2 ++ List.replicate 6 0)

/-- GTABLE: the innkeeper keeps the member array in memory of its own (DESIGN CHOICE, log entry 72). -/
def serveGtable (s : State) (root : Word) (r : SvcRec) : SvcEnd :=
  let gid := r.arg0.toNat; let n := r.arg2.toNat
  if r.unused 1 [r.arg3, r.arg4] || gid == 0 || decide (1023 < gid) || decide (512 < n) then .refused .badArg
  else if tableBase s.fab.sgtab = 0 then .refused .noRoom
  else if n = 0 then .done (s.writeGroupEntry gid 0 0)
  else match s.streamBytes root r.arg1 (16 * n) with
    | .error h => h.stop
    | .ok l =>
      if gtableBad n l then .refused .badArg
      else match s.takeHbm with
        | none => .refused .noRoom
        | some (f, t) => .done ((t.mapMem fun m => writeBytesLoc m (.hbm (f * frameBytes)) l).writeGroupEntry gid (f * frameBytes) n)

/-- GTABLE (R407). -/
def execGtable (s : State) : Host.Outcome State Fault Refusal := s.serve 0x05 serveGtable

/-! ### WINDOW (R347, R407) -/

/-- The frames of HBM, 64 KiB each, that a range of a stream maps with whatever rights, with the places of their leaves (R407). -/
def State.hbmFrames (s : State) (root : Word) : Nat → Word → Nat → Option (List (Nat × Nat))
  | 0, _, n => if n = 0 then some [] else none
  | fuel + 1, va, n =>
    if n = 0 then some []
    else match s.streamLoc root va 0, pageLeaf s.mem.hbm root va with
      | some (.hbm a), some (pte, _, _) => (s.hbmFrames root fuel (va + word (toFrameEnd va)) (n - toFrameEnd va)).map ((a / frameBytes, pte) :: ·)
      | _, _ => none

/-- Frame numbers that follow each other. -/
def consecutive : List (Nat × Nat) → Bool
  | a :: b :: rest => b.1 == a.1 + 1 && consecutive (b :: rest)
  | _ => true

/-- Who pins the pages of a window, beside the handles of nodes (DEDUCED, log entry 74). -/
def windowPin (w : Nat) : Nat := 2 ^ 64 + w

/-- A window table entry is written (R347). -/
def State.writeWindow (s : State) (w state : Nat) (rights : BitVec 4) (extent base : Nat) : State :=
  let v := base + 2 ^ 64 * extent + 2 ^ 112 * rights.toNat + 2 ^ 116 * state
  s.mapMem fun m => { m with hbm := m.hbm.write (tableBase s.fab.swtab + 16 * w) v 16 }

/-- The pages of a window are no longer held. -/
def State.unpinWindow (s : State) (w : Nat) : State := s.mapPorter fun p => { p with pins := p.pins.filter fun x => x.2 != windowPin w }

/-- The first byte of a range of a stream in HBM. -/
def State.hbmBase (s : State) (root va : Word) : Nat :=
  match s.streamLoc root va 0 with
  | some (.hbm a) => a
  | _ => 0

/-- WINDOW (DEDUCED, log entry 74). -/
def serveWindow (s : State) (root : Word) (r : SvcRec) : SvcEnd :=
  let w := r.arg0.toNat; let n := r.arg2.toNat
  if r.unused 2 (if r.flag0 then [r.arg1, r.arg2, r.arg3, r.arg4] else [r.arg4]) || decide (0xFFFF < w) then .refused .badArg
  else match s.window w with
    | none => .refused .noRoom
    | some old =>
      if r.flag0 then .done ((s.writeWindow w 2 old.rights old.extent old.base).unpinWindow w)
      else if !aligned r.arg1 64 || n == 0 || decide (2 ^ 48 ≤ n) || decide (15 < r.arg3.toNat) then .refused .badArg
      else match s.hbmFrames root (n / frameBytes + 2) r.arg1 n with
        | none => .refused .badArg
        | some l =>
          if !consecutive l then .refused .badArg
          else
            let t := (s.unpinWindow w).writeWindow w 1 (bits r.arg3 0 4) n (s.hbmBase root r.arg1)
            .done (t.mapPorter fun p => { p with pins := p.pins ++ l.map fun x => (x.2, windowPin w) })

/-- WINDOW (R407). -/
def execWindow (s : State) : Host.Outcome State Fault Refusal := s.serve 0x06 serveWindow

/-! ### GRANT, RETIRE and TOKMAP (R351, R352, R407, R411) -/

/-- The current key index: the lowest that is not retired (R407, R411) (DEDUCED, log entry 76). -/
def State.currentKey (s : State) : Option Nat := (List.range 256).find? fun i => !s.fab.retired.contains i

/-- A grant token (R351, R352). -/
def grantToken (window expiry rights key requester : Nat) : Word :=
  let t : Word := BitVec.ofNat 16 window ++ BitVec.ofNat 12 expiry ++ BitVec.ofNat 4 rights ++ BitVec.ofNat 8 key ++ 0#24
  t ||| word (tokenMac t requester)

/-- GRANT (DEDUCED, log entry 76). -/
def serveGrant (s : State) (root : Word) (r : SvcRec) : SvcEnd :=
  if r.unused 1 [r.arg4] || decide (0xFFFF < r.arg0.toNat) || decide (511 < r.arg1.toNat) || decide (15 < r.arg2.toNat) || decide (4095 < r.arg3.toNat) then
    .refused .badArg
  else match s.currentKey with
    | none => .refused .noRoom
    | some k => s.output root r.out (bytesOf (grantToken r.arg0.toNat r.arg3.toNat r.arg2.toNat k r.arg1.toNat).toNat 8)

/-- GRANT (R407). -/
def execGrant (s : State) : Host.Outcome State Fault Refusal := s.serve 0x07 serveGrant

/-- RETIRE. -/
def serveRetire (s : State) (_root : Word) (r : SvcRec) : SvcEnd :=
  if r.unused 1 [r.arg1, r.arg2, r.arg3, r.arg4] || decide (255 < r.arg0.toNat) then .refused .badArg
  else .done (s.mapFab fun f => { f with retired := if f.retired.contains r.arg0.toNat then f.retired else r.arg0.toNat :: f.retired })

/-- RETIRE (R407). -/
def execRetire (s : State) : Host.Outcome State Fault Refusal := s.serve 0x08 serveRetire

/-- A leaf of a fabric window (R166): entry `i`, rights R, W and A (DEDUCED, log entry 75). -/
def windowLeaf (i : Nat) : Word := word (i * 2 ^ 52 + 0x363)

/-- Pages are mapped with leaves of a token table entry. -/
def State.mapWindow (s : State) (root va : Word) (i : Nat) : Nat → Option State
  | 0 => some s
  | n + 1 => (s.mapLeaf root va (windowLeaf i)).bind fun t => t.mapWindow root (va + word frameBytes) i n

/-- Pages with leaves of a token table entry are unmapped. -/
def State.unmapWindow (s : State) (root va : Word) (i : Nat) : Nat → Option State
  | 0 => some s
  | n + 1 => match pageLeaf s.mem.hbm root va with
    | some (pte, leaf, 0) =>
      if leaf.getLsbD 9 && bits leaf 52 12 == BitVec.ofNat 12 i then (s.writeLeaf va pte 0).unmapWindow root (va + word frameBytes) i n else none
    | _ => none

/-- A token table entry that has been cleared: the service ends when every packet that used it has been answered or has failed (R372). -/
def endTokmap (s : State) (_root : Word) (r : SvcRec) : SvcEnd :=
  if s.fab.reqs.any fun q => q.win == some r.arg0.toNat then .later s else .done s

/-- TOKMAP (DEDUCED, log entry 75). -/
def serveTokmap (s : State) (root : Word) (r : SvcRec) : SvcEnd :=
  let i := r.arg0.toNat; let n := r.arg4.toNat
  if r.unused 2 (if r.flag0 then [r.arg1, r.arg2] else []) || decide (4095 < i) || !aligned r.arg3 frameBytes || decide (remoteBase ≤ r.arg3.toNat)
      || decide (remoteBase / frameBytes < n) || (!r.flag0 && decide (767 < r.arg2.toNat)) then .refused .badArg
  else if r.flag0 then
    match s.unmapWindow root r.arg3 i n with
    | none => .refused .badArg
    | some t => endTokmap (t.clearToken i) root r
  else if !s.unmapped root r.arg3 n then .refused .badArg
  else match s.mapWindow root r.arg3 i n with
    | none => .refused .noRoom
    | some t =>
      let e : TokEntry := ⟨bits r.arg2 0 10, bits r.arg3 16 36, r.arg1⟩
      .done (t.mapFab fun f => { f with tokens := (i, e) :: f.tokens.filter fun x => x.1 != i })

/-- TOKMAP (R407). -/
def execTokmap (s : State) : Host.Outcome State Fault Refusal := s.serve 0x09 serveTokmap endTokmap

/-! ### ATTEST and MEASURE (R407, R408, R410) -/

/-- The first 112 bytes of a report (R408). -/
def State.reportHead (s : State) (nonce : List Byte) : List Byte :=
  nonce ++ s.host.measure ++ bytesOf s.part.cap.toNat 8 ++ bytesOf Config.packageNumber.toNat 2 ++ List.replicate 6 0

/-- A report (R408). -/
def State.report (s : State) (nonce : List Byte) (key : Bool) : List Byte :=
  let h := s.reportHead nonce
  h ++ padTo 1280 ((Config.falconSign h).take 1280) ++ if key then padTo 1793 (Config.identityKey.take 1793) else []

/-- ATTEST. -/
def serveAttest (s : State) (root : Word) (r : SvcRec) : SvcEnd :=
  if r.unused 2 [r.arg1, r.arg2, r.arg3, r.arg4] then .refused .badArg
  else match s.streamBytes root r.arg0 32 with
    | .error h => h.stop
    | .ok nonce => s.output root r.out (s.report nonce r.flag0)

/-- ATTEST (R407, R408). -/
def execAttest (s : State) : Host.Outcome State Fault Refusal := s.serve 0x0A serveAttest

/-- MEASURE. -/
def serveMeasure (s : State) (root : Word) (r : SvcRec) : SvcEnd :=
  if r.unused 1 [r.arg0, r.arg1, r.arg2, r.arg3, r.arg4] then .refused .badArg else s.output root r.out s.host.measure

/-- MEASURE (R407, R410). -/
def execMeasure (s : State) : Host.Outcome State Fault Refusal := s.serve 0x0B serveMeasure

end Sys2Proof.Machine
end

