-- ==== Sys2Proof/Machine/Auto.lean ====
section
/-! DEFINITION. What moves when the agenda is empty: the step that another agent takes next, and the core that moves next. The order
among agents is not specified; this is one order (DESIGN CHOICE, log entry 2). -/

namespace Sys2Proof.Machine

/-- A step with its choices, when a condition holds. -/
def offer (b : Bool) (i : Instr) (c : Choice) : Option (Instr × Choice) := if b then some (i, c) else none

/-- The value of an `x` register that can return (R38). -/
def State.returnable (s : State) : Option (Instr × Choice) :=
  ((List.range 32).find? fun r => s.core.xpend.getLsbD r && !s.awaitsReply (BitVec.ofNat 5 r)).map fun r => (.scalarValueReturn, .reg (BitVec.ofNat 5 r))

/-- The registers that a fill can name. -/
def fillRegs : List VSpec :=
  (List.range 64).map (fun n => .v (BitVec.ofNat 6 n)) ++ (List.range 16).map (fun n => .o (BitVec.ofNat 4 n)) ++ [.l0, .l1]

/-- A register whose fill can end (R50). -/
def State.fillable (s : State) : Option (Instr × Choice) :=
  (fillRegs.find? fun r => s.empty r && (s.vreg r).failed.isNone && !s.awaitsFill r).map fun r => (.registerFillComplete, .fill r)

/-- What the matrix engine does next (R200, R201). -/
def State.mxTurn (s : State) : Option (Instr × Choice) :=
  match s.mxHead with
  | some c => match c.body with
    | .cfg _ _ _ => some (.mxCfgPerform, .none)
    | .zero _ _ => some (.mxZeroPerform, .none)
    | .ldw _ _ _ _ _ => offer (!s.farWaits c.region) .mxLdwPerform .none
    | .seedw _ => some (.mxSeedwPerform, .none)
    | .step _ => some (.mxStepPerform, .stop none)
    | .commit _ => some (.batchComplete, .none)
  | none => none

/-- What the copy engine does next (R220, R221, R225). -/
def State.cpTurn (s : State) : Option (Instr × Choice) :=
  match s.cpHead with
  | none => none
  | some c =>
    if s.farWaits c.region then none
    else if c.lin then some (.cpLinPerform, .none)
    else if c.failed.isNone && decide (c.count < c.wb.total) then some (.waybillStart, .none) else some (.waybillComplete, .none)

/-- What the optimiser engine of the active core's die does next (R183 to R191). -/
def State.optTurn (s : State) : Option (Instr × Choice) :=
  let die := s.dieOf s.core.id
  let c : Choice := .die (BitVec.ofNat 3 die)
  match s.optHead die with
  | none => none
  | some x => if s.farWaits x.region then none else match x.body with
    | .card _ => some (if x.run.isNone then .cardStart else .cardComplete, c)
    | .rout _ => some (.routineInstall, c)
    | .step _ => some (.stepIncrement, c)

/-- What the fabric queue of the active core does next (R361, R364, R370): the record of a store whose members have all answered is written by the
step of an acknowledgement with no status. -/
def State.fabTurn (s : State) : Option (Instr × Choice) :=
  match s.fabHead with
  | some j =>
    if !j.started then some (.mcStStart, .none)
    else if j.codes.all (·.isSome) then offer (!s.farWaits j.region) .acknowledgementArrival (.statuses [])
    else match s.fab.banks.findIdx? fun b => !b.accepted with
      | some i => some (.multicastBankAccept, .index i)
      | none => match s.fab.banks with
        | b :: _ => b.branches.head?.map fun m => (.multicastBranchForward, .branch 0 m)
        | [] => none
  | none => none

/-- What the porter does next (R325 to R327). -/
def State.porterTurn (s : State) : Option (Instr × Choice) :=
  match s.porter.moves with
  | m :: _ => match m.kind with
    | .fetch => some (.fetchComplete, .index 0)
    | .evict => offer (!s.frameInUse m.frame) .evictComplete (.index 0)
    | .drop => offer (!s.frameInUse m.frame) .dropComplete (.index 0)
    | .pin => some (.pinComplete, .index 0)
  | [] => offer (s.firstTurn ((s.porter.itins.flatMap fun i => candidatesOf i 0 i.entries).foldr insertCandidate [])).isSome .porterMoveStart .none

/-- A message of this package's claim groups that has not reached a core yet (R388, R389). -/
def State.courierTurn (s : State) : Option (Instr × Choice) :=
  s.claims.flights.findSome? fun f => f.dests.findSome? fun d =>
    offer ((s.member f.msg.tag d).any fun m => !m.group.domain) (if f.objection then .objectionReceived else .proposalReceived) (.courier f.msg d)

/-- A claim whose close time has come (R390), one that the package has forgotten (R393), or an objection held in vain (R388). -/
def State.claimTurn (s : State) : Option (Instr × Choice) :=
  s.claims.members.findSome? fun m =>
    (m.claims.findSome? fun c => (offer (s.mayClose m c && s.effectAns m c != some .awaited) .claimClose (.claim m.group.tag m.ep c.handle)).orElse fun _ =>
      offer (s.forgotten c && !s.stillMeets m c) .claimForget (.claim m.group.tag m.ep c.handle)).orElse fun _ =>
    m.held.findSome? fun x => offer (s.handlePassed x.1 1048576 && !s.overdue m) .heldObjectionDiscard (.claim m.group.tag m.ep x.1)

/-- A thread that can retire, or a node that can complete (R31, R32). -/
def State.endTurn (s : State) : Option (Instr × Choice) :=
  (offer s.haltFault .threadWake .none).orElse fun _ =>
    (offer (s.core.run == .halting && !s.unsettled) .threadRetire .none).orElse fun _ =>
      (s.sched.nodes.find? fun n => decide (n.record.threads ≤ n.retired) && !s.claimsOpen n && !s.holdsMeet n.handle
        && s.farAns n.handle n.record.threads none true n.record.done 8 != some .awaited).map fun n => (.nodeComplete, .handle n.handle)

/-! ### The dispatcher and the innkeeper's places (R33, R302, R309, R416) (DESIGN CHOICE, log entry 108) -/

/-- Where a vector stack of a node can lie in its address space, `free` of them tried. -/
def State.stackPlace (s : State) (n : Node) (root : Word) : Option Nat :=
  ((List.range (s.mem.allots.length + 9)).map fun i => 2 ^ 51 + i * 2 ^ 27).find? fun a =>
    s.stackOk n root a && ((s.unreserve n).stackPages root (word a) (stackCount n.record.vstack)).isSome

/-- Where a context image that no thread has can lie: in the last 2 GiB of HBM. -/
def State.imagePlace (s : State) : Option Nat := ((List.range 1024).map fun i => 2 ^ 40 - 2 ^ 31 + i * 2 ^ 21).find? s.imageFree

/-- The dispatch with which core `c`, which is free, takes a thread (R302). -/
def State.dispatchOn (s : State) (c : Nat) : Option Choice :=
  match s.chosen c with
  | none => none
  | some n =>
    if (s.canResume n c).isSome then some (.dispatch c 0 0 0)
    else
      let root := 0x0C000000 + 4096 * s.streams.length
      match s.stackPlace n (s.rootFor n.record.stream root), s.imagePlace with
      | some a, some i => some (.dispatch c a i root)
      | _, _ => none

/-- A free core that takes a thread (R302). -/
def State.dispatchTurn (s : State) : Option (Instr × Choice) :=
  if s.waiting.isEmpty then none
  else
    ((List.range s.part.cores).findSome? fun c =>
      if s.coreFree c then s.updateHolds.dispatchOn c else none).map fun x => (.dispatchThread, x)

/-- From time to time a swapped-out sleeper gets a core to look at its condition again, and a sleeper leaves its core to a node that waits (R30,
R33, R315). -/
def State.sleepTurn (s : State) : Option (Instr × Choice) :=
  if s.tick % 61 ≠ 0 then none
  else (offer (s.core.run == .asleep && s.userThread && s.rival) .sleepingThreadSwitchOut .none).orElse fun _ =>
    (s.sched.swapped.findIdx? fun t => t.asleep).map fun i => (.threadWake, .index i)

/-- The first step that some agent can take now of its own, or none: one that needs a choice from outside is taken only from the agenda. -/
def autoEvent (s : State) : Option (Instr × Choice) :=
  [s.returnable, offer (!s.mem.ops.isEmpty) .atomicApply (.index 0), s.fillable, s.mxTurn, s.cpTurn, s.optTurn, s.fabTurn, s.porterTurn, s.courierTurn,
   s.claimTurn, s.endTurn, s.dispatchTurn, s.sleepTurn].findSome? id

/-- A core has something to do: a thread that has not stopped it, or commands. -/
def busyCore (k : Core) : Bool := (k.run != .idle && k.run != .stopped) || !k.copy.isEmpty || !k.vec.mx.queue.isEmpty

/-- The core that moves after the active one: the next higher number that has something to do, else the lowest (DESIGN CHOICE, log entry 2). -/
def State.nextCore (s : State) : Option Nat :=
  let l := s.parked.filter busyCore
  ((l.find? fun k => decide (s.core.id < k.id)).orElse fun _ => l.head?).map (·.id)

/-- The state with the choices of a step of another agent than a program. -/
def State.withChoice (s : State) (c : Choice) : State := { s with choice := c, mem := { s.mem with writer := none } }

/-- A step begins: time moves on (R367). -/
def State.advance (s : State) : State := { s with tick := s.tick + 1, ftime := s.ftime + Config.elapsed s.tick }

/-! ### Words that come by the fabric (R349) (DESIGN CHOICE, log entry 99) -/

/-- The token table entry through which the word at `va` is still to come. -/
def State.farWord (s : State) (va : Word) : Option Nat :=
  match Machine.locate s.part s.mem s.space va 4 .fetch with
  | .ok (.fabric win _) => match s.farAns s.core.me.handle s.core.me.wid none false va 4 with
    | none => some win
    | some .awaited => some win
    | some (.data _) => none
    | some (.failed _ _) => none
  | _ => none

/-- The first word still to come of `n` captured instructions from `a` on. -/
def State.farCaptured (s : State) (a : Word) : Nat → Option Word
  | 0 => none
  | n + 1 =>
    if (s.farWord a).isSome then some a
    else match s.fetchWord a with
      | .error _ => none
      | .ok w =>
        if !isPrefix w then s.farCaptured (a + 4) n
        else if (s.farWord (a + 4)).isSome then some (a + 4) else s.farCaptured (a + 8) n

/-- The first word still to come of the frame whose `repf` stands at `a`. -/
def State.farFrame (s : State) (a : Word) : Option Word :=
  if (s.farWord a).isSome then some a
  else if (s.farWord (a + 4)).isSome then some (a + 4)
  else match s.fetchWord a with
    | .error _ => none
    | .ok w => s.farCaptured (a + 8) ((bits w 12 4).toNat + 1)

/-- The first word still to come of those that the instruction at the PC needs. -/
def State.farFetch (s : State) : Option Word :=
  if (s.farWord s.pc).isSome then some s.pc
  else match s.fetchWord s.pc with
    | .error _ => none
    | .ok w =>
      (if isRepf w then s.farFrame s.pc else if needsSecond w && (s.farWord (s.pc + 4)).isSome then some (s.pc + 4) else none).orElse fun _ =>
        if s.inFrame then s.loops.head?.bind fun e => s.farFrame e.start else none

/-- The instruction waits for the word at `va`, whose request leaves now if it has not yet. -/
def State.askWord (s : State) (va : Word) : State :=
  let t := match s.farWord va, s.farAns s.core.me.handle s.core.me.wid none false va 4 with
    | some win, none => s.farSend s.byMe .read .weak win va 4 []
    | _, _ => s
  t.setRun .waiting

/-- The instruction makes accesses, or gives others work that does, which an acquire or an access of order `.sc` before it precedes (R231, R233): the
memory, matrix, copy, synchronisation, itinerary, claim, fabric and optimiser groups (R72). -/
def Instr.ordered (i : Instr) : Bool :=
  match encode i with
  | [w] => group (major w)
  | [p, w] => !isRepf p && group (major w)
  | _ => false
where
  /-- The majors of these groups. -/
  group (m : BitVec 5) : Bool := m == 0x03 || (decide (0x10 ≤ m.toNat) && decide (m.toNat ≤ 0x1B) && m != 0x17)

/-- An access of the thread to a fabric window that acquires, or whose order is `.sc`, has not been performed yet: what follows it waits (R231, R233,
R244). -/
def State.acquiring (s : State) : Bool := s.fab.reqs.any fun r => s.mine r && (Order.acquires r.packet.order || r.packet.order == .sc)

/-- The instruction about to run, after what comes before its meaning: it waits for words that come by the fabric, a fetch fault is delivered, an
instruction that names a pending `x` register waits, and so does an access behind one that comes before it. -/
def State.prepare (s : State) : Except (Host.Outcome State Fault Refusal) Instr :=
  match s.farFetch with
  | some va => .error (.next (s.askWord va))
  | none => match s.atPc with
    | .error e => .error (.next ((s.setRun .running).except e))
    | .ok i => if s.xWaits i || (s.acquiring && Instr.ordered i) then .error (.next (s.setRun .waiting)) else .ok i

/-! ### A failed value that is read (R359) against the checks at issue (R76, R281) -/

/-- The registers that `i` reads hold 0 and no failure. -/
def State.clearReads (s : State) (i : Instr) : State := (xreads i).foldl (fun s r => s.setX r 0) s

/-- What the two cause registers say was raised last (R284, R286). -/
def State.causes (t : State) : List Exc :=
  [⟨bits t.core.sup.scause 8 8, bits t.core.sup.scause 0 8, t.core.sup.saddr, t.core.sup.svia⟩,
    ⟨bits t.st.ucause 8 8, bits t.st.ucause 0 8, t.st.uaddr, t.st.uvia⟩]

/-- The check of the value of an operand is illegal instruction: a window length that a register's value gives (R383), and a milestone (R334). -/
def Instr.checksValue : Instr → Bool
  | .mile _ => true
  | .stwrite _ n => decide (0x70 ≤ n.toNat) && decide (n.toNat < 0x80)
  | .stset _ n => decide (0x70 ≤ n.toNat) && decide (n.toNat < 0x80)
  | .stclr _ n => decide (0x70 ≤ n.toNat) && decide (n.toNat < 0x80)
  | _ => false

/-- An exception of the checks at issue, which come before an operand is read (R76, R47): unit absent, illegal instruction, a format tag
other than that of a saved slot, register empty, and vector-unit owned (DESIGN CHOICE, log entry 87). -/
def Exc.atIssue (e : Exc) (i : Instr) : Bool :=
  e.cls == 0x02 || (e.cls == 0x01 && !(e.detail == 0x06 && Instr.checksValue i)) || (e.cls == 0x03 && bits e.detail 0 6 != 0x09)
    || e.cls == 0x04 || e.cls == 0x14

/-- An issue is over: what the instruction of thread `t` has sent to fabric windows for its own use is used up (R349). -/
def State.useFar (s : State) (t : Thread) : State := if s.issued then s.dropFar t.handle t.wid none else s

/-- An instruction that reads a value which failed as `e` raises it, unless a check at issue comes first: `r` is its outcome with 0 in the
registers that it reads. -/
def State.failOr (s : State) (i : Instr) (e : Exc) (r : Host.Outcome State Fault Refusal) : Host.Outcome State Fault Refusal :=
  match r with
  | .next t => match t.causes.find? fun x => x.atIssue i && decide (t = (s.clearReads i).except x) with
    | some x => .next ((s.except x).useFar s.core.me)
    | none => .next ((s.except e).useFar s.core.me)
  | .fault f => .fault f
  | .refused q => .refused q

/-- The end of the issue of an instruction of thread `t` in mode `m`, inside a frame or not: what it counts, the end of a quantum (R306), and what it has
asked of fabric windows. -/
def State.endIssue (m : Mode) (framed : Bool) (t : Thread) (s : State) : State :=
  if s.issued then ((s.finish m framed).quantum).useFar t else s

/-- The outcome of an issue. -/
def finishOutcome (m : Mode) (framed : Bool) (t : Thread) (r : Host.Outcome State Fault Refusal) : Host.Outcome State Fault Refusal :=
  match r with
  | .next s => .next (s.endIssue m framed t)
  | .fault f => .fault f
  | .refused q => .refused q

end Sys2Proof.Machine
end

