-- ==== Sys2Proof/Machine/Branch.lean ====
section
/-! DEFINITION. Branches and jumps (R149, R150), the resolution of predicted branches (R151), and the predicates (R144, R54). -/

namespace Sys2Proof.Machine

/-- Branch by a word offset when the condition holds (R149). -/
def branch (taken : Bool) (off : BitVec 13) (s : State) : Host.Outcome State Fault Refusal :=
  .next (if taken then s.jump (s.pc + 4 * off.signExtend 64) else s.complete 4)

/-- `br.eq` (R149). -/
def execBrEq (a b : Reg) (off : BitVec 13) (s : State) : Host.Outcome State Fault Refusal := branch (s.x a == s.x b) off s

/-- `br.ne` (R149). -/
def execBrNe (a b : Reg) (off : BitVec 13) (s : State) : Host.Outcome State Fault Refusal := branch (s.x a != s.x b) off s

/-- `br.lt` (R149). -/
def execBrLt (a b : Reg) (off : BitVec 13) (s : State) : Host.Outcome State Fault Refusal := branch ((s.x a).slt (s.x b)) off s

/-- `br.ge` (R149). -/
def execBrGe (a b : Reg) (off : BitVec 13) (s : State) : Host.Outcome State Fault Refusal := branch (!(s.x a).slt (s.x b)) off s

/-- `br.ltn` (R149). -/
def execBrLtn (a b : Reg) (off : BitVec 13) (s : State) : Host.Outcome State Fault Refusal := branch ((s.x a).ult (s.x b)) off s

/-- `br.gen` (R149). -/
def execBrGen (a b : Reg) (off : BitVec 13) (s : State) : Host.Outcome State Fault Refusal := branch (!(s.x a).ult (s.x b)) off s

/-- `bp.t` (R149). -/
def execBpT (p : BitVec 3) (off : BitVec 13) (s : State) : Host.Outcome State Fault Refusal := branch (s.p p) off s

/-- `bp.f` (R149). -/
def execBpF (p : BitVec 3) (off : BitVec 13) (s : State) : Host.Outcome State Fault Refusal := branch (!s.p p) off s

/-- `jal` (R150). -/
def execJal (d : Reg) (off : BitVec 20) (s : State) : Host.Outcome State Fault Refusal :=
  .next ((s.setX d (s.pc + 4)).jump (s.pc + 4 * off.signExtend 64))

/-- `jalr` (R150): the target is formed before the link is written; a target that is not a multiple of 4 raises misaligned,
whose detail is the size of a word (DEDUCED, log entry 12). -/
def execJalr (d a : Reg) (off : BitVec 15) (s : State) : Host.Outcome State Fault Refusal :=
  let target := s.x a + 4 * off.signExtend 64
  outcome s (if aligned target 4 then .ok ((s.setX d (s.pc + 4)).jump target) else raiseAt 0x06 4 target)

/-- SPECULATION_RESOLVE (R151): instructions take effect only on the confirmed path, so a branch that resolves changes no
state that the manual names (DEDUCED, log entry 84). -/
def execSpeculationResolve (s : State) : Host.Outcome State Fault Refusal := .next s

/-- Write a predicate and complete. -/
def predOut (d : BitVec 3) (b : Bool) (s : State) : Host.Outcome State Fault Refusal := .next ((s.setP d b).complete 4)

/-- `pand` (R144). -/
def execPand (d a b : BitVec 3) (s : State) : Host.Outcome State Fault Refusal := predOut d (s.p a && s.p b) s

/-- `por` (R144). -/
def execPor (d a b : BitVec 3) (s : State) : Host.Outcome State Fault Refusal := predOut d (s.p a || s.p b) s

/-- `pxor` (R144). -/
def execPxor (d a b : BitVec 3) (s : State) : Host.Outcome State Fault Refusal := predOut d (s.p a != s.p b) s

/-- `pnot` (R144). -/
def execPnot (d a : BitVec 3) (s : State) : Host.Outcome State Fault Refusal := predOut d (!s.p a) s

/-- `ppack` (R54). -/
def execPpack (d : Reg) (s : State) : Host.Outcome State Fault Refusal :=
  .next ((s.setX d (s.core.sc.p.setWidth 64)).complete 4)

/-- `punpk` (R54). -/
def execPunpk (a : Reg) (s : State) : Host.Outcome State Fault Refusal :=
  .next ((s.mapSc fun c => { c with p := (s.x a).setWidth 8 }).complete 4)

/-- `pset` (R144). -/
def execPset (d : BitVec 3) (val : Bool) (s : State) : Host.Outcome State Fault Refusal := predOut d val s

end Sys2Proof.Machine
end

