-- ==== Sys2Proof/Machine/Sfp.lean ====
section
/-! DEFINITION. The scalar floating-point unit: major 0x06 (R141 to R143). -/

namespace Sys2Proof.Machine

/-- An `f` source. -/
def fSource (num : BitVec 2) (r : Reg) : Source := ⟨num, .flt r⟩

/-- The tag checks of `f` sources: void and differing widths (R142). Returns the width of R49. -/
def State.fCheck (s : State) (l : List Source) : Except Halt Nat := s.checkTags [] true l none none

/-- An `f` register as a lane. -/
def State.fLane (s : State) (r : Reg) : Lane := (s.f r).lane .f32

/-- Flags, traps and `dhealth` of a scalar result of width `w` (R91, R92, R107 to R109). -/
def State.fFlags (s : State) (w : Nat) (r : Res) : Except Halt State := do
  s.fpTrap r.fl 0
  s.tanTrap w [(0, r)]
  .ok ((s.addFlags r.fl).mapSt fun t =>
    { t with tflags := t.tflags ||| tflagBits [r] w, dhealth := t.dhealth ||| spoiled .f32 0xFFFF [Res.lane r] w })

/-- An `f` register from a lane of width `w`. -/
def fRegOf (w : Nat) (l : Lane) : FReg :=
  { tag := Tag.of .f32 w, val := BitVec.ofNat 32 l.val, tan := (List.range w).map fun i => BitVec.ofNat 32 (l.slot i) }

/-- A scalar operation on lanes `a`, `b`, `c` with result in `f[d]` (R141, R142). -/
def State.fOp (s : State) (d : Reg) (srcs : List Source) (op : FOp) (rm : Rm) (a b c : Lane) : Except Halt State := do
  let w ← s.fCheck srcs
  let r := element .f32 (s.rmode rm) op w (a.tan.length != 0) (b.tan.length != 0) a b c
  let s' ← s.fFlags w r
  .ok ((s'.setF d (fRegOf w (Res.lane r))).complete 4)

/-- An operation of two operands. -/
def State.fBin (s : State) (d a b : Reg) (op : FOp) (rm : Rm) : Except Halt State :=
  s.fOp d [fSource 1 a, fSource 2 b] op rm (s.fLane a) (s.fLane b) (Lane.zero 0)

/-- An operation of one operand. -/
def State.fUn (s : State) (d a : Reg) (op : FOp) (rm : Rm) : Except Halt State :=
  s.fOp d [fSource 1 a] op rm (s.fLane a) (Lane.zero 0) (Lane.zero 0)

/-- `fadd` (R141). -/
def execFadd (d a b : Reg) (rm : Rm) (s : State) : Host.Outcome State Fault Refusal := outcome s (s.fBin d a b .add rm)

/-- `fsub` (R141). -/
def execFsub (d a b : Reg) (rm : Rm) (s : State) : Host.Outcome State Fault Refusal := outcome s (s.fBin d a b .sub rm)

/-- `fmul` (R141). -/
def execFmul (d a b : Reg) (rm : Rm) (s : State) : Host.Outcome State Fault Refusal := outcome s (s.fBin d a b .mul rm)

/-- `fdiv` (R141). -/
def execFdiv (d a b : Reg) (rm : Rm) (s : State) : Host.Outcome State Fault Refusal := outcome s (s.fBin d a b .div rm)

/-- `fsqrt` (R141). -/
def execFsqrt (d a : Reg) (rm : Rm) (s : State) : Host.Outcome State Fault Refusal := outcome s (s.fUn d a .sqrt rm)

/-- `fmacc` (R141): RN(d + a·b). -/
def execFmacc (d a b : Reg) (rm : Rm) (s : State) : Host.Outcome State Fault Refusal :=
  outcome s (s.fOp d [fSource 1 a, fSource 2 b, fSource 0 d] (.ma false false) rm (s.fLane a) (s.fLane b) (s.fLane d))

/-- `fmin` (R141). -/
def execFmin (d a b : Reg) (s : State) : Host.Outcome State Fault Refusal := outcome s (s.fBin d a b .min .dyn)

/-- `fmax` (R141). -/
def execFmax (d a b : Reg) (s : State) : Host.Outcome State Fault Refusal := outcome s (s.fBin d a b .max .dyn)

/-- `fabs` (R141). -/
def execFabs (d a : Reg) (s : State) : Host.Outcome State Fault Refusal := outcome s (s.fUn d a .abs .dyn)

/-- `fneg` (R141). -/
def execFneg (d a : Reg) (s : State) : Host.Outcome State Fault Refusal := outcome s (s.fUn d a .neg .dyn)

/-- Bits and signedness of a conversion type. -/
def CvtTy.shape : CvtTy → Bool × Nat
  | .i32 => (true, 32) | .i64 => (true, 64) | .n32 => (false, 32) | .n64 => (false, 64)

/-- `fcvt.f.x` (R141, R93): bundle 0. -/
def execFcvtFX (d a : Reg) (t : CvtTy) (rm : Rm) (s : State) : Host.Outcome State Fault Refusal :=
  let r := cvtIF (intOf (CvtTy.shape t).1 (CvtTy.shape t).2 (s.x a).toNat) .f32 (s.rmode rm)
  outcome s do
    let s' ← s.fFlags 0 ⟨r.1, [], r.2, []⟩
    .ok ((s'.setF d (fRegOf 0 ⟨r.1, []⟩)).complete 4)

/-- `fcvt.x.f` (R141, R93): extended to 64 bits by the type. -/
def execFcvtXF (d a : Reg) (t : CvtTy) (rm : Rm) (s : State) : Host.Outcome State Fault Refusal :=
  let r := cvtFI (FFmt.f32.val (s.f a).val.toNat) (CvtTy.shape t).1 (CvtTy.shape t).2 (s.rmode rm)
  outcome s do
    let _ ← s.fCheck [fSource 1 a]
    let s' ← s.fFlags 0 ⟨r.1, [], r.2, []⟩
    .ok ((s'.setX d (BitVec.ofInt 64 (intOf (CvtTy.shape t).1 (CvtTy.shape t).2 r.1))).complete 4)

/-- `fmov.x` (R141). -/
def execFmovX (d a : Reg) (s : State) : Host.Outcome State Fault Refusal :=
  outcome s do
    let _ ← s.fCheck [fSource 1 a]
    .ok ((s.setX d ((s.f a).val.setWidth 64)).complete 4)

/-- `fmov.f` (R141): bundle 0. -/
def execFmovF (d a : Reg) (s : State) : Host.Outcome State Fault Refusal :=
  .next ((s.setF d (fRegOf 0 ⟨(s.x a).toNat % 2 ^ 32, []⟩)).complete 4)

/-- A comparison with its flags (R143). -/
def fcompare (c : FCond) (x y : FVal) : Bool × Flags :=
  let nan := x.isNan || y.isNan; let sig := flagIf (x.isSig || y.isSig) fNV
  match c with
  | .eq => (eqVal x y, sig)
  | .unord => (nan, sig)
  | .lt => (ltVal x y, flagIf nan fNV)
  | .le => (ltVal x y || eqVal x y, flagIf nan fNV)

/-- `fcmp` (R143). The operands are values only: their widths meet R49 as those of any sources (R142). -/
def execFcmp (d : BitVec 3) (a b : Reg) (c : FCond) (s : State) : Host.Outcome State Fault Refusal :=
  let r := fcompare c (FFmt.f32.val (s.f a).val.toNat) (FFmt.f32.val (s.f b).val.toNat)
  outcome s do
    let _ ← s.fCheck [fSource 1 a, fSource 2 b]
    let s' ← s.fFlags 0 ⟨0, [], r.2, []⟩
    .ok ((s'.setP d r.1).complete 4)

/-- The class mask of an FP32 value (R143). -/
def fclassOf (b : Nat) : Word :=
  let neg := FFmt.f32.signBit b; let ex := b / 2 ^ 23 % 256
  match FFmt.f32.val b with
  | .nan sig => if sig then 0x100 else 0x200
  | .inf n => if n then 0x001 else 0x080
  | .fin _ m _ =>
    if m = 0 then (if neg then 0x008 else 0x010)
    else if ex = 0 then (if neg then 0x004 else 0x020)
    else if neg then 0x002 else 0x040

/-- `fclass` (R143). -/
def execFclass (d a : Reg) (s : State) : Host.Outcome State Fault Refusal :=
  outcome s do
    let _ ← s.fCheck [fSource 1 a]
    .ok ((s.setX d (fclassOf (s.f a).val.toNat)).complete 4)

end Sys2Proof.Machine
end

