-- ==== Sys2Proof/Machine/Dispatch.lean ====
section
/-! DEFINITION. One step of meaning for each constructor of `Instr`: a direct call of its meaning. -/

namespace Sys2Proof.Machine

def exec (i : Instr) (s : State) : Host.Outcome State Fault Refusal :=
  match i with
  | .add d a b => Sys2Proof.Machine.execAdd d a b s
  | .sub d a b => Sys2Proof.Machine.execSub d a b s
  | .mul d a b => Sys2Proof.Machine.execMul d a b s
  | .mulhI d a b => Sys2Proof.Machine.execMulhI d a b s
  | .mulhN d a b => Sys2Proof.Machine.execMulhN d a b s
  | .divI d a b => Sys2Proof.Machine.execDivI d a b s
  | .divN d a b => Sys2Proof.Machine.execDivN d a b s
  | .remI d a b => Sys2Proof.Machine.execRemI d a b s
  | .remN d a b => Sys2Proof.Machine.execRemN d a b s
  | .and d a b => Sys2Proof.Machine.execAnd d a b s
  | .or d a b => Sys2Proof.Machine.execOr d a b s
  | .xor d a b => Sys2Proof.Machine.execXor d a b s
  | .shl d a b => Sys2Proof.Machine.execShl d a b s
  | .shr d a b => Sys2Proof.Machine.execShr d a b s
  | .sra d a b => Sys2Proof.Machine.execSra d a b s
  | .sltI d a b => Sys2Proof.Machine.execSltI d a b s
  | .sltN d a b => Sys2Proof.Machine.execSltN d a b s
  | .minI d a b => Sys2Proof.Machine.execMinI d a b s
  | .maxI d a b => Sys2Proof.Machine.execMaxI d a b s
  | .minN d a b => Sys2Proof.Machine.execMinN d a b s
  | .maxN d a b => Sys2Proof.Machine.execMaxN d a b s
  | .clz d a => Sys2Proof.Machine.execClz d a s
  | .ctz d a => Sys2Proof.Machine.execCtz d a s
  | .popc d a => Sys2Proof.Machine.execPopc d a s
  | .sext d a w => Sys2Proof.Machine.execSext d a w s
  | .zext d a w => Sys2Proof.Machine.execZext d a w s
  | .addi d a imm => Sys2Proof.Machine.execAddi d a imm s
  | .andi d a imm => Sys2Proof.Machine.execAndi d a imm s
  | .ori d a imm => Sys2Proof.Machine.execOri d a imm s
  | .xori d a imm => Sys2Proof.Machine.execXori d a imm s
  | .shli d a sh => Sys2Proof.Machine.execShli d a sh s
  | .shri d a sh => Sys2Proof.Machine.execShri d a sh s
  | .srai d a sh => Sys2Proof.Machine.execSrai d a sh s
  | .lui d imm => Sys2Proof.Machine.execLui d imm s
  | .ldI8 d a sc ord off => Sys2Proof.Machine.execLdI8 d a sc ord off s
  | .ldI16 d a sc ord off => Sys2Proof.Machine.execLdI16 d a sc ord off s
  | .ldI32 d a sc ord off => Sys2Proof.Machine.execLdI32 d a sc ord off s
  | .ldI64 d a sc ord off => Sys2Proof.Machine.execLdI64 d a sc ord off s
  | .ldN8 d a sc ord off => Sys2Proof.Machine.execLdN8 d a sc ord off s
  | .ldN16 d a sc ord off => Sys2Proof.Machine.execLdN16 d a sc ord off s
  | .ldN32 d a sc ord off => Sys2Proof.Machine.execLdN32 d a sc ord off s
  | .st8 d a sc ord off => Sys2Proof.Machine.execSt8 d a sc ord off s
  | .st16 d a sc ord off => Sys2Proof.Machine.execSt16 d a sc ord off s
  | .st32 d a sc ord off => Sys2Proof.Machine.execSt32 d a sc ord off s
  | .st64 d a sc ord off => Sys2Proof.Machine.execSt64 d a sc ord off s
  | .brEq a b off => Sys2Proof.Machine.execBrEq a b off s
  | .brNe a b off => Sys2Proof.Machine.execBrNe a b off s
  | .brLt a b off => Sys2Proof.Machine.execBrLt a b off s
  | .brGe a b off => Sys2Proof.Machine.execBrGe a b off s
  | .brLtn a b off => Sys2Proof.Machine.execBrLtn a b off s
  | .brGen a b off => Sys2Proof.Machine.execBrGen a b off s
  | .bpT p off => Sys2Proof.Machine.execBpT p off s
  | .bpF p off => Sys2Proof.Machine.execBpF p off s
  | .jal d off => Sys2Proof.Machine.execJal d off s
  | .jalr d a off => Sys2Proof.Machine.execJalr d a off s
  | .fadd d a b rm => Sys2Proof.Machine.execFadd d a b rm s
  | .fsub d a b rm => Sys2Proof.Machine.execFsub d a b rm s
  | .fmul d a b rm => Sys2Proof.Machine.execFmul d a b rm s
  | .fdiv d a b rm => Sys2Proof.Machine.execFdiv d a b rm s
  | .fsqrt d a rm => Sys2Proof.Machine.execFsqrt d a rm s
  | .fmacc d a b rm => Sys2Proof.Machine.execFmacc d a b rm s
  | .fmin d a b => Sys2Proof.Machine.execFmin d a b s
  | .fmax d a b => Sys2Proof.Machine.execFmax d a b s
  | .fabs d a => Sys2Proof.Machine.execFabs d a s
  | .fneg d a => Sys2Proof.Machine.execFneg d a s
  | .fcvtFX d a t rm => Sys2Proof.Machine.execFcvtFX d a t rm s
  | .fcvtXF d a t rm => Sys2Proof.Machine.execFcvtXF d a t rm s
  | .fmovX d a => Sys2Proof.Machine.execFmovX d a s
  | .fmovF d a => Sys2Proof.Machine.execFmovF d a s
  | .fcmp d a b c => Sys2Proof.Machine.execFcmp d a b c s
  | .fclass d a => Sys2Proof.Machine.execFclass d a s
  | .pand d a b => Sys2Proof.Machine.execPand d a b s
  | .por d a b => Sys2Proof.Machine.execPor d a b s
  | .pxor d a b => Sys2Proof.Machine.execPxor d a b s
  | .pnot d a => Sys2Proof.Machine.execPnot d a s
  | .ppack d => Sys2Proof.Machine.execPpack d s
  | .punpk a => Sys2Proof.Machine.execPunpk a s
  | .pset d val => Sys2Proof.Machine.execPset d val s
  | .vfadd p d a b => Sys2Proof.Machine.execVfadd p d a b s
  | .vfsub p d a b => Sys2Proof.Machine.execVfsub p d a b s
  | .vfmul p d a b => Sys2Proof.Machine.execVfmul p d a b s
  | .vfdiv p d a b => Sys2Proof.Machine.execVfdiv p d a b s
  | .vfmin p d a b => Sys2Proof.Machine.execVfmin p d a b s
  | .vfmax p d a b => Sys2Proof.Machine.execVfmax p d a b s
  | .vfcopysign p d a b => Sys2Proof.Machine.execVfcopysign p d a b s
  | .vfaddp p d a b => Sys2Proof.Machine.execVfaddp p d a b s
  | .vfnaddp p d a b => Sys2Proof.Machine.execVfnaddp p d a b s
  | .vfsubd p d a b => Sys2Proof.Machine.execVfsubd p d a b s
  | .vfsubp p d a b => Sys2Proof.Machine.execVfsubp p d a b s
  | .vfsqrt p d a => Sys2Proof.Machine.execVfsqrt p d a s
  | .vfrsqrt p d a => Sys2Proof.Machine.execVfrsqrt p d a s
  | .vfrecip p d a => Sys2Proof.Machine.execVfrecip p d a s
  | .vfexp2 p d a => Sys2Proof.Machine.execVfexp2 p d a s
  | .vflog2 p d a => Sys2Proof.Machine.execVflog2 p d a s
  | .vftanh p d a => Sys2Proof.Machine.execVftanh p d a s
  | .vfsig p d a => Sys2Proof.Machine.execVfsig p d a s
  | .vfrelu p d a => Sys2Proof.Machine.execVfrelu p d a s
  | .vfabs p d a => Sys2Proof.Machine.execVfabs p d a s
  | .vfneg p d a => Sys2Proof.Machine.execVfneg p d a s
  | .vfround p d a rm => Sys2Proof.Machine.execVfround p d a rm s
  | .vadd p d a b => Sys2Proof.Machine.execVadd p d a b s
  | .vsub p d a b => Sys2Proof.Machine.execVsub p d a b s
  | .vmul p d a b => Sys2Proof.Machine.execVmul p d a b s
  | .vmulh p d a b => Sys2Proof.Machine.execVmulh p d a b s
  | .vand p d a b => Sys2Proof.Machine.execVand p d a b s
  | .vor p d a b => Sys2Proof.Machine.execVor p d a b s
  | .vxor p d a b => Sys2Proof.Machine.execVxor p d a b s
  | .vshl p d a b => Sys2Proof.Machine.execVshl p d a b s
  | .vshr p d a b => Sys2Proof.Machine.execVshr p d a b s
  | .vsra p d a b => Sys2Proof.Machine.execVsra p d a b s
  | .vmin p d a b => Sys2Proof.Machine.execVmin p d a b s
  | .vmax p d a b => Sys2Proof.Machine.execVmax p d a b s
  | .viota p d => Sys2Proof.Machine.execViota p d s
  | .vfcmp p c kd a b => Sys2Proof.Machine.execVfcmp p c kd a b s
  | .vcmp p c kd a b => Sys2Proof.Machine.execVcmp p c kd a b s
  | .kand p d a b => Sys2Proof.Machine.execKand p d a b s
  | .kor p d a b => Sys2Proof.Machine.execKor p d a b s
  | .kxor p d a b => Sys2Proof.Machine.execKxor p d a b s
  | .knot p d a => Sys2Proof.Machine.execKnot p d a s
  | .kpop p d a => Sys2Proof.Machine.execKpop p d a s
  | .kfirst p d a => Sys2Proof.Machine.execKfirst p d a s
  | .kmovX p d a b => Sys2Proof.Machine.execKmovX p d a b s
  | .kmovKMask p d a => Sys2Proof.Machine.execKmovKMask p d a s
  | .kmovKVector p d a => Sys2Proof.Machine.execKmovKVector p d a s
  | .vcvt p t d a src rm => Sys2Proof.Machine.execVcvt p t d a src rm s
  | .vsumO p d a seg => Sys2Proof.Machine.execVsumO p d a seg s
  | .vsumF p d a seg => Sys2Proof.Machine.execVsumF p d a seg s
  | .vmaxr p d a seg => Sys2Proof.Machine.execVmaxr p d a seg s
  | .vminr p d a seg => Sys2Proof.Machine.execVminr p d a seg s
  | .vscanO p d a seg => Sys2Proof.Machine.execVscanO p d a seg s
  | .vperm p d a b => Sys2Proof.Machine.execVperm p d a b s
  | .vslideup p d a b => Sys2Proof.Machine.execVslideup p d a b s
  | .vslidedn p d a b => Sys2Proof.Machine.execVslidedn p d a b s
  | .vcompress p d a => Sys2Proof.Machine.execVcompress p d a s
  | .vexpand p d a => Sys2Proof.Machine.execVexpand p d a s
  | .vbcast p d a b => Sys2Proof.Machine.execVbcast p d a b s
  | .vmov p d a => Sys2Proof.Machine.execVmov p d a s
  | .vsplat p d b => Sys2Proof.Machine.execVsplat p d b s
  | .dseedRad p d x => Sys2Proof.Machine.execDseedRad p d x s
  | .dzero p d a => Sys2Proof.Machine.execDzero p d a s
  | .dget p d a b => Sys2Proof.Machine.execDget p d a b s
  | .dput p d a b => Sys2Proof.Machine.execDput p d a b s
  | .dmask p d x => Sys2Proof.Machine.execDmask p d x s
  | .vld p t v base bnd ff loc => Sys2Proof.Machine.execVld p t v base bnd ff loc s
  | .vldS p t v base bnd ff xs loc => Sys2Proof.Machine.execVldS p t v base bnd ff xs loc s
  | .vld2d p t v base bnd ff xs loc => Sys2Proof.Machine.execVld2d p t v base bnd ff xs loc s
  | .vldX p t v base bnd vi loc => Sys2Proof.Machine.execVldX p t v base bnd vi loc s
  | .vldQ p v base ff xs loc => Sys2Proof.Machine.execVldQ p v base ff xs loc s
  | .vrs p count v base slot loc => Sys2Proof.Machine.execVrs p count v base slot loc s
  | .vst p t v base bnd loc => Sys2Proof.Machine.execVst p t v base bnd loc s
  | .vstS p t v base bnd xs loc => Sys2Proof.Machine.execVstS p t v base bnd xs loc s
  | .vst2d p t v base bnd xs loc => Sys2Proof.Machine.execVst2d p t v base bnd xs loc s
  | .vstX p t v base bnd vi loc => Sys2Proof.Machine.execVstX p t v base bnd vi loc s
  | .vstQ p v base val xs loc => Sys2Proof.Machine.execVstQ p v base val xs loc s
  | .vsv p count v base slot loc => Sys2Proof.Machine.execVsv p count v base slot loc s
  | .vamoAdd p d vi base t loc => Sys2Proof.Machine.execVamoAdd p d vi base t loc s
  | .vamoMin p d vi base t loc => Sys2Proof.Machine.execVamoMin p d vi base t loc s
  | .vamoMax p d vi base t loc => Sys2Proof.Machine.execVamoMax p d vi base t loc s
  | .vamoSwap p d vi base t loc => Sys2Proof.Machine.execVamoSwap p d vi base t loc s
  | .vamoCas p d vi base t loc => Sys2Proof.Machine.execVamoCas p d vi base t loc s
  | .amoAdd d a b t ord sc => Sys2Proof.Machine.execAmoAdd d a b t ord sc s
  | .amoMin d a b t ord sc => Sys2Proof.Machine.execAmoMin d a b t ord sc s
  | .amoMax d a b t ord sc => Sys2Proof.Machine.execAmoMax d a b t ord sc s
  | .amoSwap d a b t ord sc => Sys2Proof.Machine.execAmoSwap d a b t ord sc s
  | .amoCas d a b t ord sc => Sys2Proof.Machine.execAmoCas d a b t ord sc s
  | .mredAdd p d vi base t loc => Sys2Proof.Machine.execMredAdd p d vi base t loc s
  | .mredMin p d vi base t loc => Sys2Proof.Machine.execMredMin p d vi base t loc s
  | .mredMax p d vi base t loc => Sys2Proof.Machine.execMredMax p d vi base t loc s
  | .mxCfg rows cols img => Sys2Proof.Machine.execMxCfg rows cols img s
  | .mxZero t b => Sys2Proof.Machine.execMxZero t b s
  | .mxLdw k b sr t => Sys2Proof.Machine.execMxLdw k b sr t s
  | .mxSeedw j off => Sys2Proof.Machine.execMxSeedw j off s
  | .mxSeedwClr => Sys2Proof.Machine.execMxSeedwClr s
  | .mxStep t a k d ty => Sys2Proof.Machine.execMxStep t a k d ty s
  | .mxStepf t a k d ty => Sys2Proof.Machine.execMxStepf t a k d ty s
  | .mxCommit => Sys2Proof.Machine.execMxCommit s
  | .mxWait n => Sys2Proof.Machine.execMxWait n s
  | .mxRd v t ta r => Sys2Proof.Machine.execMxRd v t ta r s
  | .mxWr t v r ta => Sys2Proof.Machine.execMxWr t v r ta s
  | .cpNd w => Sys2Proof.Machine.execCpNd w s
  | .cpLin d sr n c => Sys2Proof.Machine.execCpLin d sr n c s
  | .qFence mask => Sys2Proof.Machine.execQFence mask s
  | .qFenceW mask => Sys2Proof.Machine.execQFenceW mask s
  | .cpStat d sel => Sys2Proof.Machine.execCpStat d sel s
  | .fence kind sc => Sys2Proof.Machine.execFence kind sc s
  | .barInit b n sc => Sys2Proof.Machine.execBarInit b n sc s
  | .barArr d b rlx => Sys2Proof.Machine.execBarArr d b rlx s
  | .barWait b t => Sys2Proof.Machine.execBarWait b t s
  | .barTest d b t => Sys2Proof.Machine.execBarTest d b t s
  | .waita a b sc c => Sys2Proof.Machine.execWaita a b sc c s
  | .nodeSub d r => Sys2Proof.Machine.execNodeSub d r s
  | .loop c n => Sys2Proof.Machine.execLoop c n s
  | .brkl => Sys2Proof.Machine.execBrkl s
  | .lidx d level => Sys2Proof.Machine.execLidx d level s
  | .repf c m sd sa sb wz map => Sys2Proof.Machine.execRepf c m sd sa sb wz map s
  | .mile a => Sys2Proof.Machine.execMile a s
  | .itBind a n => Sys2Proof.Machine.execItBind a n s
  | .itWait ri => Sys2Proof.Machine.execItWait ri s
  | .itStat d ri => Sys2Proof.Machine.execItStat d ri s
  | .clProp h key val g => Sys2Proof.Machine.execClProp h key val g s
  | .clObj h g => Sys2Proof.Machine.execClObj h g s
  | .clWait d h g => Sys2Proof.Machine.execClWait d h g s
  | .clStat d h sel g => Sys2Proof.Machine.execClStat d h sel g s
  | .clHold key g => Sys2Proof.Machine.execClHold key g s
  | .clFree key g => Sys2Proof.Machine.execClFree key g s
  | .mcSt g a k lenc => Sys2Proof.Machine.execMcSt g a k lenc s
  | .mcLdr v sr g op t => Sys2Proof.Machine.execMcLdr v sr g op t s
  | .tokSet ri t w => Sys2Proof.Machine.execTokSet ri t w s
  | .tokClr ri => Sys2Proof.Machine.execTokClr ri s
  | .fabStat d sel => Sys2Proof.Machine.execFabStat d sel s
  | .optCard c => Sys2Proof.Machine.execOptCard c s
  | .optWait n => Sys2Proof.Machine.execOptWait n s
  | .optStep c => Sys2Proof.Machine.execOptStep c s
  | .optStat d sr sel => Sys2Proof.Machine.execOptStat d sr sel s
  | .optRout ri a => Sys2Proof.Machine.execOptRout ri a s
  | .setvl d a w => Sys2Proof.Machine.execSetvl d a w s
  | .setshape n k => Sys2Proof.Machine.execSetshape n k s
  | .vframe n => Sys2Proof.Machine.execVframe n s
  | .stread d sreg => Sys2Proof.Machine.execStread d sreg s
  | .stwrite a sreg => Sys2Proof.Machine.execStwrite a sreg s
  | .stset a sreg => Sys2Proof.Machine.execStset a sreg s
  | .stclr a sreg => Sys2Proof.Machine.execStclr a sreg s
  | .inncall n => Sys2Proof.Machine.execInncall n s
  | .dbgtrap n => Sys2Proof.Machine.execDbgtrap n s
  | .eret => Sys2Proof.Machine.execEret s
  | .tlbInv a kind => Sys2Proof.Machine.execTlbInv a kind s
  | .halt => Sys2Proof.Machine.execHalt s
  | .speculationResolve => Sys2Proof.Machine.execSpeculationResolve s
  | .scalarValueReturn => Sys2Proof.Machine.execScalarValueReturn s
  | .registerFillComplete => Sys2Proof.Machine.execRegisterFillComplete s
  | .issueWaitRelease => Sys2Proof.Machine.execIssueWaitRelease s
  | .threadWake => Sys2Proof.Machine.execThreadWake s
  | .threadRetire => Sys2Proof.Machine.execThreadRetire s
  | .nodeComplete => Sys2Proof.Machine.execNodeComplete s
  | .dispatchThread => Sys2Proof.Machine.execDispatchThread s
  | .priorityAging => Sys2Proof.Machine.execPriorityAging s
  | .quantumExpiry => Sys2Proof.Machine.execQuantumExpiry s
  | .preemptionLanding => Sys2Proof.Machine.execPreemptionLanding s
  | .iterationOverrun => Sys2Proof.Machine.execIterationOverrun s
  | .timingError => Sys2Proof.Machine.execTimingError s
  | .mxCfgPerform => Sys2Proof.Machine.execMxCfgPerform s
  | .mxZeroPerform => Sys2Proof.Machine.execMxZeroPerform s
  | .mxLdwPerform => Sys2Proof.Machine.execMxLdwPerform s
  | .mxSeedwPerform => Sys2Proof.Machine.execMxSeedwPerform s
  | .mxStepPerform => Sys2Proof.Machine.execMxStepPerform s
  | .batchComplete => Sys2Proof.Machine.execBatchComplete s
  | .waybillStart => Sys2Proof.Machine.execWaybillStart s
  | .waybillComplete => Sys2Proof.Machine.execWaybillComplete s
  | .cpLinPerform => Sys2Proof.Machine.execCpLinPerform s
  | .cardStart => Sys2Proof.Machine.execCardStart s
  | .cardComplete => Sys2Proof.Machine.execCardComplete s
  | .routineInstall => Sys2Proof.Machine.execRoutineInstall s
  | .stepIncrement => Sys2Proof.Machine.execStepIncrement s
  | .atomicApply => Sys2Proof.Machine.execAtomicApply s
  | .porterMoveStart => Sys2Proof.Machine.execPorterMoveStart s
  | .fetchComplete => Sys2Proof.Machine.execFetchComplete s
  | .evictComplete => Sys2Proof.Machine.execEvictComplete s
  | .dropComplete => Sys2Proof.Machine.execDropComplete s
  | .cxlLinkDown => Sys2Proof.Machine.execCxlLinkDown s
  | .fabricPacketArrival => Sys2Proof.Machine.execFabricPacketArrival s
  | .fabricReplyArrival => Sys2Proof.Machine.execFabricReplyArrival s
  | .fabricAttemptTimeout => Sys2Proof.Machine.execFabricAttemptTimeout s
  | .abortFlit => Sys2Proof.Machine.execAbortFlit s
  | .sequenceExpiry => Sys2Proof.Machine.execSequenceExpiry s
  | .fabricLinkDown => Sys2Proof.Machine.execFabricLinkDown s
  | .fabricLinkUp => Sys2Proof.Machine.execFabricLinkUp s
  | .mcStStart => Sys2Proof.Machine.execMcStStart s
  | .multicastBankAccept => Sys2Proof.Machine.execMulticastBankAccept s
  | .multicastBranchForward => Sys2Proof.Machine.execMulticastBranchForward s
  | .acknowledgementArrival => Sys2Proof.Machine.execAcknowledgementArrival s
  | .ftimeReceived => Sys2Proof.Machine.execFtimeReceived s
  | .ftimeLoss => Sys2Proof.Machine.execFtimeLoss s
  | .proposalReceived => Sys2Proof.Machine.execProposalReceived s
  | .objectionReceived => Sys2Proof.Machine.execObjectionReceived s
  | .breachNoticeReceived => Sys2Proof.Machine.execBreachNoticeReceived s
  | .breachNoticeOriginate => Sys2Proof.Machine.execBreachNoticeOriginate s
  | .heldObjectionDiscard => Sys2Proof.Machine.execHeldObjectionDiscard s
  | .claimClose => Sys2Proof.Machine.execClaimClose s
  | .claimForget => Sys2Proof.Machine.execClaimForget s
  | .submit => Sys2Proof.Machine.execSubmit s
  | .submitReread => Sys2Proof.Machine.execSubmitReread s
  | .hostRegisterWrite => Sys2Proof.Machine.execHostRegisterWrite s
  | .place => Sys2Proof.Machine.execPlace s
  | .group => Sys2Proof.Machine.execGroup s
  | .context => Sys2Proof.Machine.execContext s
  | .pool => Sys2Proof.Machine.execPool s
  | .gtable => Sys2Proof.Machine.execGtable s
  | .window => Sys2Proof.Machine.execWindow s
  | .grant => Sys2Proof.Machine.execGrant s
  | .retire => Sys2Proof.Machine.execRetire s
  | .tokmap => Sys2Proof.Machine.execTokmap s
  | .attest => Sys2Proof.Machine.execAttest s
  | .measure => Sys2Proof.Machine.execMeasure s
  | .boot => Sys2Proof.Machine.execBoot s
  | .functionLevelReset => Sys2Proof.Machine.execFunctionLevelReset s
  | .dieClockLower => Sys2Proof.Machine.execDieClockLower s
  | .illegalInstruction => Sys2Proof.Machine.execIllegalInstruction s
  | .preemptionRequest => Sys2Proof.Machine.execPreemptionRequest s
  | .sleepingThreadSwitchOut => Sys2Proof.Machine.execSleepingThreadSwitchOut s
  | .noclaim => Sys2Proof.Machine.execNoclaim s
  | .uncorrectableError => Sys2Proof.Machine.execUncorrectableError s
  | .hostWrite => Sys2Proof.Machine.execHostWrite s
  | .hostRegisterRead => Sys2Proof.Machine.execHostRegisterRead s
  | .pinComplete => Sys2Proof.Machine.execPinComplete s
  | .dieClockRaise => Sys2Proof.Machine.execDieClockRaise s

end Sys2Proof.Machine
end

