-- ==== Sys2Proof/Machine/Place.lean ====
section
/-! DEFINITION. Placing an instruction where the active core fetches next: the load of a program from outside (DESIGN CHOICE, log entry 4). -/

namespace Sys2Proof.Machine

/-- Physical address of the page-table root that `placeWord` builds when the PC does not translate. -/
def placeRoot : Nat := 0x10000

/-- Physical address of the page that it maps there. -/
def placePage : Nat := 0x20000

/-- A non-leaf entry (R166). -/
def tableEntry (pa : Nat) : Nat := pa + 1

/-- A leaf entry of tier 0 with right X. -/
def codeEntry (pa : Nat) : Nat := pa + 0x83

/-- Page tables that map the page of `va` at `placePage` with right X (R165). -/
def mapCode (m : Memory) (va : Nat) : Memory :=
  let m := m.write (placeRoot + 8 * (va / 2 ^ 43 % 512)) (tableEntry (placeRoot + 0x1000)) 8
  let m := m.write (placeRoot + 0x1000 + 8 * (va / 2 ^ 34 % 512)) (tableEntry (placeRoot + 0x2000)) 8
  let m := m.write (placeRoot + 0x2000 + 8 * (va / 2 ^ 25 % 512)) (tableEntry (placeRoot + 0x3000)) 8
  m.write (placeRoot + 0x3000 + 8 * (va / 2 ^ 16 % 512)) (codeEntry placePage) 8

/-- The PC lies in ordinary memory, is a multiple of 4, and leaves room for the second word in its page. -/
def pcUsable (pc : Word) : Bool :=
  bits pc 52 12 == 0 && decide (pc.toNat < remoteBase) && aligned pc 4 && decide (pc.toNat % 65536 + 8 ≤ 65536)

/-- The active core is about to fetch: the next turn is its own, it runs, nothing is pending, and no frame captures the PC. -/
def State.readyToFetch (s : State) : State :=
  let s := { s with agenda := [.core s.core.id] }.mapCore fun c => { c with run := .running, xpend := 0, request := none }
  let s := if pcUsable s.pc then s else s.setPc 0
  if s.inFrame then s.setLoops [] else s

/-- The two words from the PC up fetch. -/
def State.fetches (s : State) : Bool :=
  match Machine.locate s.part s.mem s.space s.pc 8 .fetch with
  | .ok (.fabric _ _) => false
  | .ok _ => (match s.fetchWord s.pc, s.fetchWord (s.pc + 4) with
    | .ok _, .ok _ => true
    | _, _ => false)
  | .error _ => false

/-- Translation of the PC: as it is, or page tables and `ptbase` set up for it. -/
def State.mapPc (s : State) : State :=
  if s.fetches then s
  else (((s.mapMem fun m => { m with hbm := mapCode m.hbm s.pc.toNat, tables := [] }).mapSup fun u => { u with ptbase := word placeRoot }).mapCore
    fun c => { c with tlb := [] })

/-- Store the eight bytes of two words where the PC fetches. -/
def State.storeCode (s : State) (v : Nat) : State :=
  match Machine.locate s.part s.mem s.space s.pc 8 .fetch with
  | .ok l => s.mapMem fun m => writeLoc m l 8 v
  | .error _ => s

/-- The instruction with bits `w`, numbered from the first word up, stored at the PC; every bit above `nbits` is 0 (DESIGN CHOICE, log entry 4). -/
def State.placeWord (s : State) (nbits w : Nat) : State := (s.readyToFetch.mapPc).storeCode (w % 2 ^ nbits % 2 ^ 64)

end Sys2Proof.Machine
end

