-- ==== Sys2Proof/Machine/Step.lean ====
section
/-! DEFINITION. One step of the package: the next turn of the agenda, or the active core's next instruction, or, when that
core waits, a step of another agent. -/

namespace Sys2Proof.Machine

/-- The instruction at the PC of the active core issues. -/
def issue (s : State) : Host.Outcome State Fault Refusal :=
  match s.prepare with
  | .error r => r
  | .ok i => match s.xFails i with
    | none => finishOutcome s.core.sup.mode s.inFrame s.core.me (exec i s.begin)
    | some e => s.begin.failOr i e (exec i (s.begin.clearReads i))

/-- Another agent takes a step, if any can; otherwise another core becomes the active one, if any has something to do. -/
def background (s : State) : Host.Outcome State Fault Refusal :=
  match autoEvent s with
  | some (i, c) => exec i (s.withChoice c)
  | none => match s.nextCore with
    | some c => .next (s.activate c)
    | none => .next s

/-- The active core moves: a pre-emption request is delivered where it lands (R307, R308). A core that waits tries its instruction again; if that
still waits, another agent moves (DESIGN CHOICE, log entry 2). -/
def coreTurn (s : State) : Host.Outcome State Fault Refusal :=
  match s.landed with
  | some t => .next t
  | none => match s.core.run with
    | .running => issue s
    | .waiting => retry s
    | .asleep => retry s
    | .idle => background s
    | .halting => background s
    | .stopped => background s
where
  /-- The waiting instruction issues again, or another agent moves. -/
  retry (s : State) : Host.Outcome State Fault Refusal :=
    match issue s with
    | .next s' => if s'.issued then .next s' else background s'
    | .fault f => .fault f
    | .refused r => .refused r

/-- The turn of the other agents: one of them takes a step, or another core moves; the active core moves when none can. -/
def othersTurn (s : State) : Host.Outcome State Fault Refusal :=
  match autoEvent s with
  | some (i, c) => exec i (s.withChoice c)
  | none => match s.nextCore with
    | some c => coreTurn (s.activate c)
    | none => coreTurn s

/-- One step: the next turn of the agenda; with none on it, the active core and the other agents move in turn (DESIGN CHOICE, log entry 2). -/
def step (s : State) : Host.Outcome State Fault Refusal :=
  match s.agenda with
  | [] => if s.tick % 2 = 0 then coreTurn s.advance else othersTurn s.advance
  | .core c :: rest => coreTurn (({ s with agenda := rest } : State).advance.activate c)
  | .event i c :: rest => if i.isEvent then exec i (({ s with agenda := rest } : State).advance.withChoice c) else .fault .notAStep

/-- The machine with an instruction stored where the next step fetches it (DESIGN CHOICE, log entry 4). -/
def State.withFetchWord (s : State) (nbits w : Nat) : State := s.placeWord nbits w

end Sys2Proof.Machine
end

