-- ==== Sys2Proof/Safety.lean ====
section
/-! DEFINITION. The terms in which claims are stated: how a step ends, what an instruction leaves unchanged, control in sequence
(R154), and the conditions under which vector instructions issue and complete (R37 to R53, R117), each written out on the state
alone. -/

namespace Sys2Proof

open Machine

/-! ### How a step ends -/

/-- The outcome is a next state: neither a fault nor a refusal. -/
def Completes (r : Host.Outcome State Fault Refusal) : Prop := ∃ s, r = .next s

/-- The memories of a state are in canonical form. -/
abbrev MemoryOk (s : State) : Prop := s.mem.hbm.wf = true ∧ s.mem.cxl.wf = true ∧ s.mem.spad.wf = true

/-! ### Memory, byte by byte -/

/-- The byte at a place. A fabric window holds no byte of this package. -/
def byteAt (s : State) : Loc → Byte
  | .hbm a => s.mem.hbm.get a
  | .cxl a => s.mem.cxl.get a
  | .spad a => s.mem.spad.get a
  | .fabric _ _ => 0

/-- The place `i` bytes above a place. -/
def Loc.up (l : Loc) (i : Nat) : Loc :=
  match l with
  | .hbm a => .hbm (a + i) | .cxl a => .cxl (a + i) | .spad a => .spad (a + i) | .fabric w a => .fabric w (a + i)

/-- A place is one of the `n` bytes from `l` up. -/
def Within (q l : Loc) (n : Nat) : Prop := ∃ i, i < n ∧ q = Loc.up l i

/-- Every byte of memory reads as before. -/
def SameMemory (s t : State) : Prop := ∀ q, byteAt t q = byteAt s q

/-- Every byte outside the `n` bytes from `l` up reads as before. -/
def SameMemoryBut (s t : State) (l : Loc) (n : Nat) : Prop := ∀ q, ¬ Within q l n → byteAt t q = byteAt s q

/-- The `n` bytes from `l` up hold the low bytes of `v`, least first (R2). -/
def Stored (t : State) (l : Loc) (n v : Nat) : Prop := ∀ i, i < n → byteAt t (Loc.up l i) = BitVec.ofNat 8 (v / 2 ^ (8 * i))

/-! ### Control -/

/-- Control passes in sequence from the instruction of `len` bytes at the PC of `s` (R154): past it, or back to the start of the
loop body that ends with it; `via` then names the word by which control came (R288). -/
def InSequence (s t : State) (len : Nat) : Prop :=
  match State.loopBack (s.pc + BitVec.ofNat 64 len - 4) s.loops with
  | (l, none) => t.pc = s.pc + BitVec.ofNat 64 len ∧ t.loops = l ∧ t.core.via = 0
  | (l, some start) => t.pc = start ∧ t.loops = l ∧ t.core.via = s.pc + BitVec.ofNat 64 len - 4

/-- `u` with the PC, the loop stack and the control marks of `t`. -/
def State.follow (u t : State) : State :=
  { u with core := { u.core with via := t.core.via, looped := t.core.looped,
                                 sc := { u.core.sc with pc := t.core.sc.pc, loops := t.core.sc.loops } } }

/-- The instruction of `len` bytes at the PC of `s` completes in `t`, and has turned everything but control into what `u` holds. -/
def Finishes (s u t : State) (len : Nat) : Prop := t = State.follow u t ∧ InSequence s t len

/-! ### Scalar results -/

/-- The instruction completes in `t` having written `v` to `x[d]` and nothing else (R36): memory, flags and every other register
are those of `s`. A pending failure of `x[d]` is gone. -/
structure WritesX (s t : State) (d : Reg) (v : Word) (len : Nat) : Prop where
  value : ∀ r, t.x r = if r = d ∧ r ≠ 0 then v else s.x r
  failures : t.core.xfail = if d = 0 then s.core.xfail else s.core.xfail.filter fun q => q.1 != d
  next : InSequence s t len
  frame : t = State.follow
    { s with core := { s.core with xfail := t.core.xfail, sc := { s.core.sc with x := t.core.sc.x } } } t

/-- The instruction completes in `t` having written `v` to `f[d]`, set flags of `fcsr` (R91), set bits of `tflags` and `dhealth`
(R107, R108), and nothing else. -/
structure WritesF (s t : State) (d : Reg) (v : FReg) (fl : Flags) (tf dh : Word) (len : Nat) : Prop where
  value : ∀ r, t.f r = if r = d then v else s.f r
  fcsr : t.st.fcsr = s.st.fcsr ||| (fl.setWidth 13 <<< 3)
  tflags : t.st.tflags = s.st.tflags ||| tf
  dhealth : t.st.dhealth = s.st.dhealth ||| dh
  next : InSequence s t len
  frame : t = State.follow
    { s with core := { s.core with sc := { s.core.sc with
        f := t.core.sc.f, st := { s.core.sc.st with fcsr := t.st.fcsr, tflags := t.st.tflags, dhealth := t.st.dhealth } } } } t

/-- The instruction completes in `t` having written `b` to `p[d]`, set flags of `fcsr` (R91), and nothing else. -/
structure WritesP (s t : State) (d : BitVec 3) (b : Bool) (fl : Flags) (len : Nat) : Prop where
  value : ∀ r, t.p r = if r = d then b else s.p r
  fcsr : t.st.fcsr = s.st.fcsr ||| (fl.setWidth 13 <<< 3)
  next : InSequence s t len
  frame : t = State.follow
    { s with core := { s.core with sc := { s.core.sc with p := t.core.sc.p, st := { s.core.sc.st with fcsr := t.st.fcsr } } } } t

/-! ### Conditions of vector instructions -/

/-- The thread may use the vector state (R311), every register that the instruction names is below N (R37), its prefix does not
end a loop body (R71), and `vl` fits each element width and the mask (R117). -/
abbrev VecAllowed (s : State) (f : Form) : Prop :=
  (s.core.sup.mode = .user → s.core.sup.vown = s.core.me.image) ∧ (∀ n ∈ vregsOf f.ins, n.toNat < s.nregs)
    ∧ (f.prefixed = true → s.prefixAtEnd = false) ∧ (∀ w ∈ f.widths, s.tooLong f.masked w = false)

/-- A source passes R47 and R48: not void, of the format that the instruction names, within the capacity of an `o` register (R39)
(DEDUCED, log entry 7). -/
abbrev SourceOk (s : State) (cap : Nat) (c : Source) : Prop :=
  (s.tagOf c.reg).fmt ≠ .void ∧ SrcReg.fmtOk (s.tagOf c.reg) c.reg = true ∧ (SrcReg.isO c.reg = true → s.vl ≤ cap)

/-- Bundle width of a source. -/
def sourceWidth (s : State) (c : Source) : Nat := s.sourceWidth c.reg

/-- R49: the bundled sources agree on the width `w`, which is 0 when there is none; `counts` says that tangents are read. -/
abbrev WidthIs (s : State) (counts : Bool) (srcs : List Source) (w : Nat) : Prop :=
  if counts = true then (∀ c ∈ srcs, sourceWidth s c = 0 ∨ sourceWidth s c = w) ∧ (w = 0 ∨ ∃ c ∈ srcs, sourceWidth s c = w)
  else w = 0

/-- The destination takes a result of bundle width `w` (R39, R48). -/
abbrev DestOk (s : State) (cap w : Nat) (d : VSpec) : Prop :=
  if VSpec.isO d = true then s.vl ≤ cap ∧ w = 0 else w ≤ s.planes

/-- Every tag check of R47 passes; the sources have width `w`, the result `w'`. -/
abbrev TagsOk (s : State) (widths : List Nat) (counts : Bool) (srcs : List Source) (dest : Option VSpec) (w w' : Nat) : Prop :=
  (∀ c ∈ srcs, SourceOk s (oCapacity widths) c) ∧ WidthIs s counts srcs w ∧ (limited dest = true → w ≤ s.planes)
    ∧ (∀ d ∈ dest, DestOk s (oCapacity widths) w' d)

/-- Sources are ready (R51, R52): none is empty and none holds a failure. -/
abbrev Ready (s : State) (l : List Reads) : Prop := ∀ r ∈ l, s.empty r.reg = false ∧ (s.vreg r.reg).failed = none

/-- The destination is not being filled (R52). -/
abbrev DestFree (s : State) (d : VSpec) : Prop := s.empty d = false ∨ (s.vreg d).failed ≠ none

/-- The results of the active elements. -/
def activeOf (s : State) (m : MaskOf) (res : List Res) : List Res := ((res.zip (s.active m)).filter (·.2)).map (·.1)

/-- No flag that would be set has its trap enabled (R92, R109). -/
abbrev NoTrap (s : State) (w : Nat) (l : List Res) : Prop :=
  joinFlags (l.map (·.fl)) &&& s.fpEnables = 0 ∧ ∀ i, i < w → dirFlags l i &&& s.tanEnables = 0

/-! ### Vector results -/

/-- Part `p` of a lane: 0 its value, 1 + i its tangent slot i. -/
def Lane.part (l : Lane) : Nat → Nat
  | 0 => l.val
  | i + 1 => l.slot i

/-- Element `e` of part `p` of a register with elements of `w` bits. -/
def partOf (r : VReg) (w p e : Nat) : Nat := elem w (r.plane p) e

/-- The frame of a vector instruction: vector registers, the flags that R91, R107 and R108 name, and control. -/
def VecFrame (s t : State) : Prop :=
  t = State.follow
    { s with core := { s.core with
        vec := { s.core.vec with v := t.core.vec.v, o := t.core.vec.o, l0 := t.core.vec.l0, l1 := t.core.vec.l1 },
        sc := { s.core.sc with
          st := { s.core.sc.st with fcsr := t.st.fcsr, tflags := t.st.tflags, dhealth := t.st.dhealth } } } } t

/-- Every vector register but the destination, `l0` and `l1` holds what it held. -/
def OtherRegs (s t : State) (d : VSpec) : Prop := ∀ r, r ≠ d → r ≠ .l0 → r ≠ .l1 → t.vreg r = s.vreg r

/-- The push of R40: `l1` takes the old `l0`, and `l0` the result. -/
def Pushed (s t : State) (d : VSpec) : Prop := t.vreg .l0 = t.vreg d ∧ t.vreg .l1 = s.vreg .l0

/-- The instruction completes in `t` as R118 says, with the result `res` for each element below `vl`: an active element takes its
result, an inactive one zero or its old contents (R53); elements at and above `vl` stay (R41); the tag is that of the result;
`fcsr`, `tflags` and `dhealth` gain what the active elements raised; nothing else changes. -/
structure WritesV (s t : State) (o : Write) (res : List Res) (len : Nat) : Prop where
  tag : (t.vreg o.dest).tag = Tag.of o.fmt o.w
  sound : (t.vreg o.dest).failed = none
  elems : ∀ e, e < s.vl → ∀ p, p ≤ o.w → partOf (t.vreg o.dest) (Fmt.bits o.fmt) p e =
    Lane.part (mergeLane o.mask.zero ((s.active o.mask).getD e false) o.w (Res.lane (res.getD e (Res.zero 0)))
      (((s.vreg o.dest).lanes (Fmt.bits o.fmt) s.vl).getD e ⟨0, []⟩)) p % 2 ^ Fmt.bits o.fmt
  above : ∀ e, s.vl ≤ e → ∀ p, p ≤ o.w → partOf (t.vreg o.dest) (Fmt.bits o.fmt) p e =
    if p ≤ (s.under o.dest).width then partOf (s.under o.dest) (Fmt.bits o.fmt) p e else 0
  pushed : Pushed s t o.dest
  others : OtherRegs s t o.dest
  fcsr : t.st.fcsr = s.st.fcsr ||| ((joinFlags ((activeOf s o.mask res).map (·.fl))).setWidth 13 <<< 3)
  tflags : t.st.tflags = s.st.tflags ||| tflagBits (activeOf s o.mask res) o.w
  dhealth : t.st.dhealth = s.st.dhealth ||| spoiled (Fmt.ffmt o.fmt) o.watch ((activeOf s o.mask res).map Res.lane) o.w
  next : InSequence s t len
  frame : VecFrame s t

end Sys2Proof
end

