-- ==== Sys2Proof/Certificates/Slice0/Obligations.lean ====
section
/-! DEFINITION. The statements for the provers. A table beside a statement lists, for the instructions that it names, what the rules of
the specification say each of them computes. -/

namespace Sys2Proof.Claims

open Machine

/-! ### Scalar integer arithmetic (R139, R140) -/

/-- Count of the `x` bits of `w` above its highest set bit. -/
def leadingZeros (w : Word) : Nat := ((List.range 64).find? fun n => w.getLsbD (63 - n)).getD 64

/-- Count of the zero bits of `w` below its lowest set bit. -/
def trailingZeros (w : Word) : Nat := ((List.range 64).find? fun n => w.getLsbD n).getD 64

/-- Count of the set bits of `w`. -/
def setBits (w : Word) : Nat := (List.range 64).countP fun n => w.getLsbD n

/-- The destination and the result of each instruction of SREG and SIMM. -/
def aluResult (s : State) : Instr → Option (Reg × Word)
  | .add d a b => some (d, BitVec.ofNat 64 ((s.x a).toNat + (s.x b).toNat))
  | .sub d a b => some (d, BitVec.ofInt 64 ((s.x a).toInt - (s.x b).toInt))
  | .mul d a b => some (d, BitVec.ofNat 64 ((s.x a).toNat * (s.x b).toNat))
  | .mulhI d a b => some (d, BitVec.ofInt 64 ((s.x a).toInt * (s.x b).toInt / 2 ^ 64))
  | .mulhN d a b => some (d, BitVec.ofNat 64 ((s.x a).toNat * (s.x b).toNat / 2 ^ 64))
  | .divI d a b => some (d, if s.x b = 0 then BitVec.allOnes 64 else BitVec.ofInt 64 ((s.x a).toInt.tdiv (s.x b).toInt))
  | .divN d a b => some (d, if s.x b = 0 then BitVec.allOnes 64 else BitVec.ofNat 64 ((s.x a).toNat / (s.x b).toNat))
  | .remI d a b => some (d, if s.x b = 0 then s.x a else
      BitVec.ofInt 64 ((s.x a).toInt - (s.x b).toInt * (s.x a).toInt.tdiv (s.x b).toInt))
  | .remN d a b => some (d, if s.x b = 0 then s.x a else
      BitVec.ofNat 64 ((s.x a).toNat - (s.x b).toNat * ((s.x a).toNat / (s.x b).toNat)))
  | .and d a b => some (d, s.x a &&& s.x b)
  | .or d a b => some (d, s.x a ||| s.x b)
  | .xor d a b => some (d, s.x a ^^^ s.x b)
  | .shl d a b => some (d, BitVec.ofNat 64 ((s.x a).toNat * 2 ^ ((s.x b).toNat % 64)))
  | .shr d a b => some (d, BitVec.ofNat 64 ((s.x a).toNat / 2 ^ ((s.x b).toNat % 64)))
  | .sra d a b => some (d, BitVec.ofInt 64 ((s.x a).toInt / 2 ^ ((s.x b).toNat % 64)))
  | .sltI d a b => some (d, if (s.x a).toInt < (s.x b).toInt then 1 else 0)
  | .sltN d a b => some (d, if (s.x a).toNat < (s.x b).toNat then 1 else 0)
  | .minI d a b => some (d, if (s.x a).toInt < (s.x b).toInt then s.x a else s.x b)
  | .maxI d a b => some (d, if (s.x a).toInt < (s.x b).toInt then s.x b else s.x a)
  | .minN d a b => some (d, if (s.x a).toNat < (s.x b).toNat then s.x a else s.x b)
  | .maxN d a b => some (d, if (s.x a).toNat < (s.x b).toNat then s.x b else s.x a)
  | .clz d a => some (d, BitVec.ofNat 64 (leadingZeros (s.x a)))
  | .ctz d a => some (d, BitVec.ofNat 64 (trailingZeros (s.x a)))
  | .popc d a => some (d, BitVec.ofNat 64 (setBits (s.x a)))
  | .sext d a w => some (d, ((s.x a).setWidth w.toNat).signExtend 64)
  | .zext d a w => some (d, ((s.x a).setWidth w.toNat).setWidth 64)
  | .addi d a imm => some (d, BitVec.ofInt 64 ((s.x a).toInt + imm.toInt))
  | .andi d a imm => some (d, s.x a &&& BitVec.ofInt 64 imm.toInt)
  | .ori d a imm => some (d, s.x a ||| BitVec.ofInt 64 imm.toInt)
  | .xori d a imm => some (d, s.x a ^^^ BitVec.ofInt 64 imm.toInt)
  | .shli d a sh => some (d, BitVec.ofNat 64 ((s.x a).toNat * 2 ^ sh.toNat))
  | .shri d a sh => some (d, BitVec.ofNat 64 ((s.x a).toNat / 2 ^ sh.toNat))
  | .srai d a sh => some (d, BitVec.ofInt 64 ((s.x a).toInt / 2 ^ sh.toNat))
  | .lui d imm => some (d, BitVec.ofInt 64 (BitVec.ofNat 32 (imm.toNat * 2 ^ 13)).toInt)
  | _ => none

/-! ### Branches (R149) -/

/-- The condition and the offset of each instruction of BR. -/
def branchOf (s : State) : Instr → Option (Bool × BitVec 13)
  | .brEq a b off => some (decide (s.x a = s.x b), off)
  | .brNe a b off => some (decide (s.x a ≠ s.x b), off)
  | .brLt a b off => some (decide ((s.x a).toInt < (s.x b).toInt), off)
  | .brGe a b off => some (decide ((s.x b).toInt ≤ (s.x a).toInt), off)
  | .brLtn a b off => some (decide ((s.x a).toNat < (s.x b).toNat), off)
  | .brGen a b off => some (decide ((s.x b).toNat ≤ (s.x a).toNat), off)
  | .bpT p off => some (s.p p, off)
  | .bpF p off => some (!s.p p, off)
  | _ => none

/-- Control passes to `target` by a taken branch or jump, which changes nothing else of `u` (R149, R150, R288). -/
def Jumps (s u t : State) (target : Word) : Prop :=
  t = { u with core := { u.core with via := s.pc, sc := { u.core.sc with pc := target } } }

/-- Control passes to `target` by a jump that writes PC + 4 to `x[d]` and changes nothing else (R150, R36). -/
def Links (s t : State) (d : Reg) (target : Word) : Prop :=
  (∀ r, t.x r = if r = d ∧ r ≠ 0 then s.pc + 4 else s.x r) ∧
    t = { s with core := { s.core with via := s.pc, xfail := t.core.xfail, sc := { s.core.sc with pc := target, x := t.core.sc.x } } }

/-! ### Predicates (R144) -/

/-- The destination and the result of each instruction of PRED that writes one predicate. -/
def predResult (s : State) : Instr → Option (BitVec 3 × Bool)
  | .pand d a b => some (d, s.p a && s.p b)
  | .por d a b => some (d, s.p a || s.p b)
  | .pxor d a b => some (d, s.p a != s.p b)
  | .pnot d a => some (d, !s.p a)
  | .pset d v => some (d, v)
  | _ => none

/-! ### Scalar memory (R169) -/

/-- Destination, base, scope, order, offset, bytes and signedness of each scalar load. -/
def loadForm : Instr → Option (Reg × Reg × Scope × Order × BitVec 7 × Nat × Bool)
  | .ldI8 d a sc o off => some (d, a, sc, o, off, 1, true)
  | .ldI16 d a sc o off => some (d, a, sc, o, off, 2, true)
  | .ldI32 d a sc o off => some (d, a, sc, o, off, 4, true)
  | .ldI64 d a sc o off => some (d, a, sc, o, off, 8, true)
  | .ldN8 d a sc o off => some (d, a, sc, o, off, 1, false)
  | .ldN16 d a sc o off => some (d, a, sc, o, off, 2, false)
  | .ldN32 d a sc o off => some (d, a, sc, o, off, 4, false)
  | _ => none

/-- Source, base, scope, order, offset and bytes of each scalar store. -/
def storeForm : Instr → Option (Reg × Reg × Scope × Order × BitVec 7 × Nat)
  | .st8 d a sc o off => some (d, a, sc, o, off, 1)
  | .st16 d a sc o off => some (d, a, sc, o, off, 2)
  | .st32 d a sc o off => some (d, a, sc, o, off, 4)
  | .st64 d a sc o off => some (d, a, sc, o, off, 8)
  | _ => none

/-- x[a] + SignExtend(off, 7) × size, modulo 2^64 (R169). -/
def scalarAddr (s : State) (a : Reg) (off : BitVec 7) (size : Nat) : Word :=
  BitVec.ofInt 64 ((s.x a).toNat + off.toInt * size)

/-- Nothing that an access with this order waits for is outstanding: for an order that releases, the thread's own atomic element
operations, its packets that write, and its failures to be reported (R240, R261, R360). -/
abbrev NothingOwed (s : State) : Prop :=
  (∀ o ∈ s.mem.ops, s.ownOp o = false) ∧ (∀ r ∈ s.fab.reqs, s.mine r = true → Req.ownStore r = false)
    ∧ (∀ x ∈ s.fab.fails, ¬ (x.handle = s.core.me.handle ∧ x.wid = s.core.me.wid))

/-- A scalar access of `size` bytes finds its place: aligned, translated and permitted (R168), ordered after the thread's atomic
operations on the same bytes (R253). -/
abbrev Reaches (s : State) (va : Word) (size : Nat) (k : Access) (l : Loc) : Prop :=
  va.toNat % size = 0 ∧ Machine.locate s.part s.mem s.space va size k = .ok l ∧ s.chained l size = false

/-- A value of `size` bytes widened to 64 bits (R169). -/
def widened (sgn : Bool) (size v : Nat) : Word :=
  if sgn then BitVec.ofInt 64 (BitVec.ofNat (8 * size) v).toInt else BitVec.ofNat 64 v

/-- What a scalar access to memory of this package changes beside its register or its bytes: the books of the memory model (R231,
R235, R236) and the cached translation (R167). -/
def AccessFrame (s t : State) (m : Mem) : Prop :=
  t = State.follow
    { s with core := { s.core with tlb := t.core.tlb, xpend := t.core.xpend, xfail := t.core.xfail, region := t.core.region,
                                   seen := t.core.seen, loaded := t.core.loaded, sc := { s.core.sc with x := t.core.sc.x } },
             mem := { m with summaries := t.mem.summaries, notes := t.mem.notes, openRegions := t.mem.openRegions, nextRegion := t.mem.nextRegion,
                             pubs := t.mem.pubs } } t

end Sys2Proof.Claims

open Sys2Proof Sys2Proof.Machine Sys2Proof.Claims

/-! ### Scalar side -/

/-- R149: each branch goes to PC + 4 × SignExtend(offset, 13) when its condition holds and else on in sequence; it changes nothing else.
R150: `jal` and `jalr` write PC + 4 to `x[d]` and jump; the target of `jalr` is formed from the old `x[a]`, and one that is no multiple of 4
raises misaligned at the `jalr` with the target as its address and no link written. That a misaligned target counts as an access of 4 bytes
is a reading (log entry 12). -/
def Obligations.BranchesAndJumps : Prop :=
  (∀ (s : State) (i : Instr) (c : Bool) (off : BitVec 13), branchOf s i = some (c, off) →
    ∃ t, exec i s = .next t ∧
      (if c = true then Jumps s s t (BitVec.ofInt 64 (s.pc.toNat + 4 * off.toInt)) else Finishes s s t 4)) ∧
  (∀ (s : State) (d a : Reg),
    (∀ off : BitVec 20, ∃ t, exec (.jal d off) s = .next t ∧ Links s t d (BitVec.ofInt 64 (s.pc.toNat + 4 * off.toInt))) ∧
    (∀ off : BitVec 15,
      let target : Word := BitVec.ofInt 64 ((s.x a).toNat + 4 * off.toInt)
      (target.toNat % 4 = 0 → ∃ t, exec (.jalr d a off) s = .next t ∧ Links s t d target) ∧
      (target.toNat % 4 ≠ 0 → ∃ e : Exc, e.cls = 0x06 ∧ e.addr = target ∧ e.via = 0 ∧ exec (.jalr d a off) s = .next (s.except e))))

/-- R139, R140: each instruction of SREG and SIMM completes, writes the value of the table to `x[d]` and nothing else (R36). R144: `pand`,
`por`, `pxor`, `pnot` and `pset` write one predicate and nothing else. -/
def Obligations.ScalarArithmetic : Prop :=
  (∀ (s : State) (i : Instr) (d : Reg) (v : Word), aluResult s i = some (d, v) → ∃ t, exec i s = .next t ∧ WritesX s t d v 4) ∧
  (∀ (s : State) (i : Instr) (d : BitVec 3) (b : Bool), predResult s i = some (d, b) → ∃ t, exec i s = .next t ∧ WritesP s t d b 0 4)

/-- R54: `ppack` writes `p7` to `p0` to bits [7:0] of an `x` register and zeroes bits [63:8]; `punpk` writes the predicates from bits [7:0]
and ignores the rest. -/
def Obligations.PredicatesPackAndUnpack : Prop :=
  (∀ (s : State) (d : Reg), ∃ t v, exec (.ppack d) s = .next t ∧ WritesX s t d v 4 ∧
    (∀ n : BitVec 3, v.getLsbD n.toNat = s.p n) ∧ ∀ n, 8 ≤ n → v.getLsbD n = false) ∧
  (∀ (s : State) (a : Reg), ∃ t, exec (.punpk a) s = .next t ∧ (∀ n : BitVec 3, t.p n = (s.x a).getLsbD n.toNat) ∧
    Finishes s { s with core := { s.core with sc := { s.core.sc with p := t.core.sc.p } } } t 4)

/-- R154: what completion in sequence of an instruction whose last word lies at L does to the loop stack. The innermost entry acts when it
is a loop that ends at L: with more than one repetition left it goes back to its start, else it is popped and the next one is tested at the
same L; any other entry stops the search. -/
def Obligations.LoopsRepeatAtTheirEnd : Prop :=
  ∀ (L : Word) (e : LoopEntry) (rest : List LoopEntry),
    State.loopBack L [] = ([], none) ∧
    (e.kind = .loop → e.last = L → 1 < e.remaining.toNat →
      State.loopBack L (e :: rest) = ({ e with remaining := e.remaining - 1, index := e.index + 1 } :: rest, some e.start)) ∧
    (e.kind = .loop → e.last = L → e.remaining.toNat ≤ 1 → State.loopBack L (e :: rest) = State.loopBack L rest) ∧
    ((e.kind ≠ .loop ∨ e.last ≠ L) → State.loopBack L (e :: rest) = (e :: rest, none)) ∧
    (∀ (s : State) (len : Nat),
      let r := State.loopBack (s.pc + BitVec.ofNat 64 len - 4) s.loops
      (s.complete len).loops = r.1 ∧ (s.complete len).pc = r.2.getD (s.pc + BitVec.ofNat 64 len)) ∧
    (∀ (s : State) (target : Word) (e : Exc), (s.jump target).loops = s.loops ∧ (s.except e).loops = s.loops)

/-- R169: a scalar load from memory of this package completes with the bytes at its place, sign- or zero-extended, in `x[d]`; a value from
HBM or the second tier is still to return (R38); memory holds what it held. R169, R359: a scalar load from a fabric window sends one packet
that asks for its bytes and carries its order and scope, and `x[d]` waits for the reply. -/
def Obligations.ScalarLoads : Prop :=
  (∀ (s : State) (i : Instr) (d a : Reg) (sc : Scope) (o : Order) (off : BitVec 7) (size : Nat) (sgn : Bool) (l : Loc) (v : Nat),
    loadForm i = some (d, a, sc, o, off, size, sgn) →
    let va := scalarAddr s a off size
    Reaches s va size .load l → l.isFabric = false → (Order.releases o = true → NothingOwed s) →
    raceCheck s.part s.mem (s.agent (Order.strong o) sc) false l size va = .ok () → badAt s.mem l = none →
    v < 2 ^ (8 * size) → Stored s l size v →
    ∃ t, exec i s = .next t ∧ (∀ r, t.x r = if r = d ∧ r ≠ 0 then widened sgn size v else s.x r) ∧ SameMemory s t ∧
      (∀ r : Reg, t.core.xpend.getLsbD r.toNat = (s.core.xpend.getLsbD r.toNat || (!l.isSpad && decide (r = d ∧ r ≠ 0)))) ∧
      InSequence s t 4 ∧ AccessFrame s t s.mem) ∧
  (∀ (s : State) (i : Instr) (d a : Reg) (sc : Scope) (o : Order) (off : BitVec 7) (size : Nat) (sgn : Bool) (win va' : Nat) (tok : TokEntry),
    loadForm i = some (d, a, sc, o, off, size, sgn) →
    let va := scalarAddr s a off size
    Reaches s va size .load (.fabric win va') → (Order.releases o = true → NothingOwed s) → s.token win = some tok →
    ∃ t r, exec i s = .next t ∧ t.fab.reqs = s.fab.reqs ++ [r] ∧ r.packet.kind = 0 ∧ r.packet.count = 1 ∧
      r.packet.offset = va - (tok.lbase.setWidth 64 <<< 16) ∧ r.packet.target = tok.target.setWidth 16 ∧ r.packet.token = tok.token ∧
      r.packet.order = o ∧ r.packet.scope = sc ∧ r.use = .scalar d size (if size = 8 then false else sgn) ∧ r.addr = va ∧ r.pc = s.pc ∧
      (∀ q, t.x q = s.x q) ∧ (d ≠ 0 → t.core.xpend.getLsbD d.toNat = true) ∧ SameMemory s t ∧ InSequence s t 4)

/-- R169: a scalar store to memory of this package completes with the low bytes of `x[d]` at its place, and every other byte of memory and
every register as they were. R169, R360: a scalar store to a fabric window sends one packet with its bytes, its order and its scope, and
completes; each access to a page whose token table entry is not valid raises NOTOKEN. -/
def Obligations.ScalarStores : Prop :=
  (∀ (s : State) (i : Instr) (d a : Reg) (sc : Scope) (o : Order) (off : BitVec 7) (size : Nat) (l : Loc),
    MemoryOk s → storeForm i = some (d, a, sc, o, off, size) →
    let va := scalarAddr s a off size
    Reaches s va size .store l → l.isFabric = false → (Order.releases o = true → NothingOwed s) →
    raceCheck s.part s.mem (s.agent (Order.strong o) sc) true l size va = .ok () →
    ∃ t, exec i s = .next t ∧ Stored t l size (s.x d).toNat ∧ SameMemoryBut s t l size ∧ (∀ r, t.x r = s.x r) ∧ InSequence s t 4 ∧
      t.core.xpend = s.core.xpend ∧ t.core.xfail = s.core.xfail ∧
      AccessFrame s t { s.mem with hbm := t.mem.hbm, tables := t.mem.tables, cxl := t.mem.cxl, spad := t.mem.spad, marks := t.mem.marks,
                                   badHbm := t.mem.badHbm, badSpad := t.mem.badSpad, badCxl := t.mem.badCxl }) ∧
  (∀ (s : State) (i : Instr) (d a : Reg) (sc : Scope) (o : Order) (off : BitVec 7) (size : Nat) (win va' : Nat),
    storeForm i = some (d, a, sc, o, off, size) →
    let va := scalarAddr s a off size
    Reaches s va size .store (.fabric win va') → (Order.releases o = true → NothingOwed s) →
    (∀ tok, s.token win = some tok → ∃ t r, exec i s = .next t ∧ t.fab.reqs = s.fab.reqs ++ [r] ∧ r.packet.kind = 1 ∧ r.packet.count = 1 ∧
      r.packet.offset = va - (tok.lbase.setWidth 64 <<< 16) ∧ r.packet.target = tok.target.setWidth 16 ∧ r.packet.token = tok.token ∧
      r.packet.data = bytesOf (s.x d).toNat size ∧ r.packet.order = o ∧ r.packet.scope = sc ∧ r.use = .store ∧ r.addr = va ∧ r.pc = s.pc ∧
      (∀ q, t.x q = s.x q) ∧ t.core.xpend = s.core.xpend ∧ SameMemory s t ∧ InSequence s t 4) ∧
    (s.token win = none → exec i s = .next (s.except ⟨0x15, 0x06, va, 0⟩)))

/-- R168, R169: a scalar access that is not aligned raises misaligned with its size, and one whose address does not translate or lacks the
right raises what the check found, each precisely: nothing else changes. -/
def Obligations.ScalarAccessFaults : Prop :=
  ∀ (s : State) (i : Instr) (d a : Reg) (sc : Scope) (o : Order) (off : BitVec 7) (size : Nat) (k : Access),
    ((∃ sgn, loadForm i = some (d, a, sc, o, off, size, sgn) ∧ k = .load) ∨ (storeForm i = some (d, a, sc, o, off, size) ∧ k = .store)) →
    (Order.releases o = true → NothingOwed s) →
    let va := scalarAddr s a off size
    (va.toNat % size ≠ 0 → exec i s = .next (s.except ⟨0x06, BitVec.ofNat 8 size, va, 0⟩)) ∧
    (∀ e, va.toNat % size = 0 → Machine.locate s.part s.mem s.space va size k = .error e → exec i s = .next (s.except e))

namespace Sys2Proof.Claims

open Machine

/-! ### Scalar floating point (R141 to R143) -/

/-- Destination, sources by operand number, operation, rounding, and the registers of a, b and d, of each instruction of SFP that
writes an `f` register by R104 and R105. -/
def fpForm : Instr → Option (Reg × List Source × FOp × Rm × Reg × Option Reg × Option Reg)
  | .fadd d a b rm => some (d, [fSource 1 a, fSource 2 b], .add, rm, a, some b, none)
  | .fsub d a b rm => some (d, [fSource 1 a, fSource 2 b], .sub, rm, a, some b, none)
  | .fmul d a b rm => some (d, [fSource 1 a, fSource 2 b], .mul, rm, a, some b, none)
  | .fdiv d a b rm => some (d, [fSource 1 a, fSource 2 b], .div, rm, a, some b, none)
  | .fsqrt d a rm => some (d, [fSource 1 a], .sqrt, rm, a, none, none)
  | .fmacc d a b rm => some (d, [fSource 1 a, fSource 2 b, fSource 0 d], .ma false false, rm, a, some b, some d)
  | .fmin d a b => some (d, [fSource 1 a, fSource 2 b], .min, .dyn, a, some b, none)
  | .fmax d a b => some (d, [fSource 1 a, fSource 2 b], .max, .dyn, a, some b, none)
  | .fabs d a => some (d, [fSource 1 a], .abs, .dyn, a, none, none)
  | .fneg d a => some (d, [fSource 1 a], .neg, .dyn, a, none, none)
  | _ => none

/-- The FP32 value of an `f` register with the tangent slots that its bundle carries (R35, R49). -/
def fLaneOf (s : State) (r : Reg) : Lane :=
  ⟨(s.f r).val.toNat, (List.range (Bundle.planes (s.f r).tag.bundle)).map fun i => ((s.f r).tan.getD i 0).toNat⟩

/-- The same of an operand that an instruction may lack. -/
def fLaneOr (s : State) : Option Reg → Lane
  | none => ⟨0, []⟩
  | some r => fLaneOf s r

/-- An `f` register of bundle width `w` that holds a result (R142). -/
def fResult (w : Nat) (r : Res) : FReg :=
  { tag := Tag.of .f32 w, val := BitVec.ofNat 32 r.val, tan := (List.range w).map fun i => BitVec.ofNat 32 (r.tan.getD i 0) }

/-- The bit of R143's table that an FP32 number has. -/
def classBit (b : BitVec 32) : Nat :=
  let neg := b.getLsbD 31; let ex := bits b 23 8; let fr := bits b 0 23
  if ex = 255 then (if fr = 0 then (if neg then 0 else 7) else if b.getLsbD 22 then 9 else 8)
  else if ex = 0 then (if fr = 0 then (if neg then 3 else 4) else if neg then 2 else 5)
  else if neg then 1 else 6

/-- Order of FP32 numbers that are not NaNs: the sign and magnitude as one integer (R87). -/
def orderKey (b : BitVec 32) : Int := if b.getLsbD 31 then -((bits b 0 31).toNat : Int) else ((bits b 0 31).toNat : Int)

/-- An FP32 number is a NaN (R87). -/
def nan32 (b : BitVec 32) : Bool := bits b 23 8 == 255 && bits b 0 23 != 0

/-- An FP32 number is a signalling NaN (R89). -/
def sig32 (b : BitVec 32) : Bool := nan32 b && !b.getLsbD 22

/-- The predicate that `fcmp` writes (R143). -/
def fcmpResult (c : FCond) (x y : BitVec 32) : Bool :=
  match c with
  | .eq => !nan32 x && !nan32 y && decide (orderKey x = orderKey y)
  | .lt => !nan32 x && !nan32 y && decide (orderKey x < orderKey y)
  | .le => !nan32 x && !nan32 y && decide (orderKey x ≤ orderKey y)
  | .unord => nan32 x || nan32 y

/-- The flags that `fcmp` sets (R143): NV for a signalling NaN, and for any NaN with `lt` and `le`. -/
def fcmpFlags (c : FCond) (x y : BitVec 32) : Flags :=
  match c with
  | .eq => if sig32 x || sig32 y then fNV else 0
  | .unord => if sig32 x || sig32 y then fNV else 0
  | .lt => if nan32 x || nan32 y then fNV else 0
  | .le => if nan32 x || nan32 y then fNV else 0

/-! ### Vector operands (R64, R65, R69, R115) -/

/-- Element `e` of a vector register with its tangent slots. -/
def laneAt (r : VReg) (w e : Nat) : Lane := ⟨partOf r w 0 e, (List.range r.width).map fun i => partOf r w (i + 1) e⟩

/-- Element `e` of operand b of a floating-point instruction: that of a register, an `f` register in the element format, or the
immediate. -/
def floatB (s : State) (p : Option VPfx) (t : ETy) (b : VB) (e : Nat) : Lane :=
  match b with
  | .vv r => laneAt (s.vreg r) (ETy.bits t) e
  | .vs r => ⟨toElement t (s.f r).val.toNat, (fLaneOf s r).tan.map (toElement t)⟩
  | .vi i => ⟨toElement t (immFloat p i), []⟩

/-- Operand b carries tangents. -/
def bundledB (s : State) : VB → Bool
  | .vv r => (s.vreg r).width != 0
  | .vs r => Bundle.planes (s.f r).tag.bundle != 0
  | .vi _ => false

/-- Element `e` of operand b of an integer instruction: that of a register, the low bits of an `x` register, or the immediate. -/
def intB (s : State) (p : Option VPfx) (t : ETy) (b : VB) (e : Nat) : Nat :=
  match b with
  | .vv r => partOf (s.vreg r) (ETy.bits t) 0 e
  | .vs r => (s.x r).toNat % 2 ^ ETy.bits t
  | .vi i => (immInt p i % 2 ^ ETy.bits t).toNat

/-- Element `e` is active (R53). -/
def isActive (s : State) (m : MaskOf) (e : Nat) : Bool := m.mask == 0 || s.k m.mask e

/-- One result for each element below `vl`. -/
def eachElem (s : State) (g : Nat → Res) : List Res := (List.range s.vl).map g

/-! ### VFP, VFMA and VFUN (R121 to R124) -/

/-- Prefix, d, a, b, operation, and whether d is an operand, of each instruction of VFP and VFMA. -/
def fpBinary : Instr → Option (Option VPfx × VSpec × VSpec × VB × FOp × Bool)
  | .vfadd p d a b => some (p, d, a, b, .add, false)
  | .vfsub p d a b => some (p, d, a, b, .sub, false)
  | .vfmul p d a b => some (p, d, a, b, .mul, false)
  | .vfdiv p d a b => some (p, d, a, b, .div, false)
  | .vfmin p d a b => some (p, d, a, b, .min, false)
  | .vfmax p d a b => some (p, d, a, b, .max, false)
  | .vfcopysign p d a b => some (p, d, a, b, .copysign, false)
  | .vfaddp p d a b => some (p, d, a, b, .ma false false, true)
  | .vfnaddp p d a b => some (p, d, a, b, .ma true true, true)
  | .vfsubd p d a b => some (p, d, a, b, .ma true false, true)
  | .vfsubp p d a b => some (p, d, a, b, .ma false true, true)
  | _ => none

/-- Prefix, d, a, operation and rounding of each instruction of VFUN. -/
def fpUnary : Instr → Option (Option VPfx × VSpec × VSpec × FOp × Rm)
  | .vfsqrt p d a => some (p, d, a, .sqrt, .dyn)
  | .vfrsqrt p d a => some (p, d, a, .rsqrt, .dyn)
  | .vfrecip p d a => some (p, d, a, .recip, .dyn)
  | .vfexp2 p d a => some (p, d, a, .exp2, .dyn)
  | .vflog2 p d a => some (p, d, a, .log2, .dyn)
  | .vftanh p d a => some (p, d, a, .tanh, .dyn)
  | .vfsig p d a => some (p, d, a, .logistic, .dyn)
  | .vfrelu p d a => some (p, d, a, .relu, .dyn)
  | .vfabs p d a => some (p, d, a, .abs, .dyn)
  | .vfneg p d a => some (p, d, a, .neg, .dyn)
  | .vfround p d a rm => some (p, d, a, .round, rm)
  | _ => none

/-! ### VINT, comparisons and masks (R145 to R147) -/

/-- The integer that an element is, signed. -/
def signedElem (w v : Nat) : Int := (BitVec.ofNat w v).toInt

/-- The integer that an element is under the signedness of its type. -/
def valueElem (t : ETy) (v : Nat) : Int := if ETy.signed t then signedElem (ETy.bits t) v else (v : Int)

/-- Prefix, d, a, b and the result of two elements, before it wraps, of each instruction of VINT with two operands. -/
def intBinary : Instr → Option (Option VPfx × VSpec × VSpec × VB × (ETy → Nat → Nat → Int))
  | .vadd p d a b => some (p, d, a, b, fun _ x y => (x : Int) + y)
  | .vsub p d a b => some (p, d, a, b, fun _ x y => (x : Int) - y)
  | .vmul p d a b => some (p, d, a, b, fun _ x y => (x : Int) * y)
  | .vmulh p d a b => some (p, d, a, b, fun t x y => valueElem t x * valueElem t y / 2 ^ ETy.bits t)
  | .vand p d a b => some (p, d, a, b, fun _ x y => (Nat.land x y : Nat))
  | .vor p d a b => some (p, d, a, b, fun _ x y => (Nat.lor x y : Nat))
  | .vxor p d a b => some (p, d, a, b, fun _ x y => (Nat.xor x y : Nat))
  | .vshl p d a b => some (p, d, a, b, fun t x y => (x : Int) * 2 ^ (y % ETy.bits t))
  | .vshr p d a b => some (p, d, a, b, fun t x y => (x / 2 ^ (y % ETy.bits t) : Nat))
  | .vsra p d a b => some (p, d, a, b, fun t x y => signedElem (ETy.bits t) x / 2 ^ (y % ETy.bits t))
  | .vmin p d a b => some (p, d, a, b, fun t x y => if valueElem t x ≤ valueElem t y then (x : Int) else y)
  | .vmax p d a b => some (p, d, a, b, fun t x y => if valueElem t y ≤ valueElem t x then (x : Int) else y)
  | _ => none

/-- Active elements below element `e` (R145). -/
def rankOf (s : State) (m : MaskOf) (e : Nat) : Nat := (List.range e).countP fun j => isActive s m j

/-- The instruction completes in `t` having written mask `k[d]`, set flags of `fcsr`, and nothing else. `bit e` is its bit `e`. -/
structure WritesK (s t : State) (d : BitVec 3) (bit : Nat → Bool) (fl : Flags) (len : Nat) : Prop where
  value : d ≠ 0 → ∀ e, t.k d e = bit e
  others : ∀ m, m ≠ d → ∀ e, t.k m e = s.k m e
  fcsr : t.st.fcsr = s.st.fcsr ||| (fl.setWidth 13 <<< 3)
  next : InSequence s t len
  frame : t = State.follow
    { s with core := { s.core with
        vec := { s.core.vec with k := t.core.vec.k }, sc := { s.core.sc with st := { s.core.sc.st with fcsr := t.st.fcsr } } } } t

/-- Bit `e` of the mask that a comparison writes (R146, R53): the result of an active element, else the old bit or, with zeroing, 0; 0
at and above `vl` and at and above the size of a mask (R44). -/
def compareBit (s : State) (m : MaskOf) (kd : BitVec 3) (res : Nat → Bool) (e : Nat) : Bool :=
  decide (e < s.vl ∧ e < s.mvlOf 2) && (if isActive s m e then res e else !m.zero && s.k kd e)

/-- The checks of a mask instruction (R147). -/
abbrev MaskAllowed (s : State) (i : Instr) (p : Option VPfx) : Prop :=
  VecAllowed s ⟨i, p.isSome, false, []⟩ ∧ s.vl ≤ s.mvlOf 2

/-- Prefix, destination and bit `e` of each mask instruction that writes a mask from masks. -/
def maskLogic (s : State) : Instr → Option (Option VPfx × BitVec 3 × (Nat → Bool))
  | .kand p d a b => some (p, d, fun e => s.k a e && s.k b e)
  | .kor p d a b => some (p, d, fun e => s.k a e || s.k b e)
  | .kxor p d a b => some (p, d, fun e => s.k a e != s.k b e)
  | .knot p d a => some (p, d, fun e => !s.k a e)
  | _ => none

/-- Prefix, destination and value of each mask instruction that writes an `x` register. -/
def maskCounts (s : State) : Instr → Option (Option VPfx × Reg × Word)
  | .kpop p d a => some (p, d, BitVec.ofNat 64 ((List.range s.vl).countP fun e => s.k a e))
  | .kfirst p d a => some (p, d, match (List.range s.vl).find? fun e => s.k a e with
      | some e => BitVec.ofNat 64 e
      | none => BitVec.allOnes 64)
  | .kmovX p d a b => some (p, d, BitVec.ofNat 64 ((List.range 64).foldr (fun j n =>
      2 * n + (if decide (64 * (s.x b).toNat + j < s.vl) && s.k a (64 * (s.x b).toNat + j) then 1 else 0)) 0))
  | _ => none

/-! ### XLANE (R130 to R132) -/

/-- Prefix, d, a, segment length and operation of each reduction. -/
def reductionOf : Instr → Option (Option VPfx × VSpec × VSpec × Option (BitVec 7) × RedOp)
  | .vsumO p d a seg => some (p, d, a, seg, .sumO)
  | .vsumF p d a seg => some (p, d, a, seg, .sumF)
  | .vmaxr p d a seg => some (p, d, a, seg, .max)
  | .vminr p d a seg => some (p, d, a, seg, .min)
  | _ => none

/-- The active elements of segment `j` (R130), in order. -/
def segmentOf (s : State) (m : MaskOf) (a : VReg) (w n j : Nat) : List Lane :=
  ((List.range s.vl).filter fun e => decide (e / n = j) && isActive s m e).map (laneAt a w)

/-- The reduction of one segment: in element order, or for `vsum.f` in the tree that the variant uses, a free value (R99, R100). -/
def reduceOne (s : State) (m : MaskOf) (t : ETy) (w : Nat) (op : RedOp) (j : Nat) (l : List Lane) : Res :=
  match op with
  | .sumF => freeTree (Config.sumTree s.part (Fmt.code (ETy.fmt t)).toNat s.vl (s.kBits m.mask s.vl) j) t (s.rmode .dyn) w l
  | .sumO => ordered .sumO t (s.rmode .dyn) w l
  | .max => ordered .max t (s.rmode .dyn) w l
  | .min => ordered .min t (s.rmode .dyn) w l

/-- Prefix, d, a, further element widths, sources and registers read, whether the mask only selects sources, and the element of a
that each element of the result takes, of each move of XLANE (R132). -/
def moveOf (s : State) : Instr → Option (Option VPfx × VSpec × VSpec × List Nat × List Source × List Reads × Bool × (Nat → Option Nat))
  | .vperm p d a b => some (p, d, a, [4], [⟨2, .plain b .i32⟩], [⟨b, trapB p, 2⟩], false, fun e =>
      if partOf (s.vreg b) 32 0 e < s.vl then some (partOf (s.vreg b) 32 0 e) else none)
  | .vslideup p d a b => some (p, d, a, [], [], [], false, fun e => if s.laneArg p b ≤ e then some (e - s.laneArg p b) else none)
  | .vslidedn p d a b => some (p, d, a, [], [], [], false, fun e => if e + s.laneArg p b < s.vl then some (e + s.laneArg p b) else none)
  | .vcompress p d a => some (p, d, a, [], [], [], true, fun e => ((List.range s.vl).filter fun j => isActive s (maskOf p) j)[e]?)
  | .vexpand p d a => some (p, d, a, [], [], [], false, fun e => some (rankOf s (maskOf p) e))
  | .vbcast p d a b => some (p, d, a, [], [], [], false, fun _ => if s.laneArg p b < s.vl then some (s.laneArg p b) else none)
  | .vmov p d a => some (p, d, a, [], [], [], false, fun e => some e)
  | _ => none

/-- A lane moved to a result of `w` slots: the element taken, or zero when there is none. -/
def movedLane (a : VReg) (b w : Nat) : Option Nat → Lane
  | none => ⟨0, List.replicate w 0⟩
  | some j => ⟨partOf a b 0 j, (List.range w).map fun i => if i < a.width then partOf a b (i + 1) j else 0⟩

/-! ### TAN (R134 to R138) -/

/-- What each instruction of TAN reads and writes: prefix, d, a if it is read, whether a is exempt from the agreement of widths (R137), whether d is
read, its result width where the entry fixes it, its own condition, the planes that `dhealth` watches, and the value and tangent slot `i` of element `e`. -/
structure TanForm where
  p : Option VPfx
  d : VSpec
  a : Option VSpec
  lone : Bool
  readD : Bool
  fixed : Option Nat
  ok : Prop
  watch : BitVec 16
  val : Nat → Nat
  slot : Nat → Nat → Nat

/-- Operand a of an instruction of TAN as a source. -/
def TanForm.source (o : TanForm) (t : ETy) : List Source :=
  (o.a.map fun a => (⟨1, if o.lone then .plain a (ETy.fmt t) else .vec a (ETy.fmt t)⟩ : Source)).toList

/-- The direction hash of the thread for direction `i` of element index `J` (R110 to R113): σ in the element format, negated where the
direction is −1. -/
def radSlot (s : State) (t : ETy) (i : Nat) (J : Word) : Nat := seedTangent t (bits s.st.dsig 0 32) (s.vecNeg i J)

/-- The instructions of TAN. -/
def tanForm (s : State) : Instr → Option TanForm
  | .dseedRad p d x => some
      { p := p, d := d, a := none, lone := false, readD := true, fixed := some s.planes, ok := True, watch := 0xFFFF,
        val := partOf (s.vreg d) (ETy.bits (typeOf .f32 p)) 0, slot := fun i e => radSlot s (typeOf .f32 p) i (s.x x + word e) }
  | .dzero p d a => some
      { p := p, d := d, a := some a, lone := false, readD := false, fixed := none, ok := True, watch := 0,
        val := partOf (s.vreg a) (ETy.bits (typeOf .f32 p)) 0, slot := fun _ _ => 0 }
  | .dget p d a b => some
      { p := p, d := d, a := some a, lone := false, readD := false, fixed := some 0, ok := s.planeArg p b < (s.vreg a).width, watch := 0,
        val := partOf (s.vreg a) (ETy.bits (typeOf .f32 p)) (s.planeArg p b + 1), slot := fun _ _ => 0 }
  | .dput p d a b => some
      { p := p, d := d, a := some a, lone := true, readD := true, fixed := some (s.putWidth d), ok := s.planeArg p b < s.putWidth d,
        watch := 1#16 <<< s.planeArg p b,
        val := partOf (s.vreg d) (ETy.bits (typeOf .f32 p)) 0,
        slot := fun i e => if i = s.planeArg p b then partOf (s.vreg a) (ETy.bits (typeOf .f32 p)) 0 e
          else if i < (s.vreg d).width then partOf (s.vreg d) (ETy.bits (typeOf .f32 p)) (i + 1) e else 0 }
  | .dmask p d x => some
      { p := p, d := d, a := none, lone := false, readD := true, fixed := some (s.vreg d).width, ok := True, watch := 0,
        val := partOf (s.vreg d) (ETy.bits (typeOf .f32 p)) 0,
        slot := fun i e => if (s.x x).getLsbD i && decide (i < 16) then 0 else partOf (s.vreg d) (ETy.bits (typeOf .f32 p)) (i + 1) e }
  | _ => none

/-- Bundle width of the operand of `vsplat`. -/
def splatPlanes (s : State) (t : ETy) : XB → Nat
  | .vs r => if t.isFp then Bundle.planes (s.f r).tag.bundle else 0
  | .vi _ => 0

/-! ### The checks of R47 and the traps of R92 and R109 -/

/-- The first nonzero bundle width among some sources. -/
def widthMet (s : State) (l : List Source) : Nat := ((l.map (sourceWidth s)).find? (· != 0)).getD 0

/-- The first reason of R48 that applies to the source `c` behind the sources `before`. Reason 0x05 is that of the source which brings the width of the
result of an instruction with the destination `dest`. -/
def tagReason (s : State) (cap : Nat) (dest : Option VSpec) (before : List Source) (c : Source) : Option (BitVec 6) :=
  let met := widthMet s before; let w := sourceWidth s c
  if (s.tagOf c.reg).fmt = .void then some 0x03
  else if SrcReg.fmtOk (s.tagOf c.reg) c.reg = false then some 0x01
  else if SrcReg.isO c.reg = true ∧ cap < s.vl then some 0x08
  else if w ≠ 0 ∧ met ≠ 0 ∧ w ≠ met then some 0x02
  else if met = 0 ∧ limited dest = true ∧ s.planes < w then some 0x05
  else none

/-- The first reason that applies to a destination for a result of bundle width `w`. -/
def destReason (s : State) (cap w : Nat) (d : VSpec) : Option (BitVec 6) :=
  if VSpec.isO d = true then (if cap < s.vl then some 0x08 else if w ≠ 0 then some 0x04 else none)
  else if s.planes < w then some 0x05 else none

/-- Which operands an instruction checks: element widths, sources in the order of R47, destination, the width of the result where the entry fixes
it, and the registers that may be empty. -/
structure Operands where
  widths : List Nat
  srcs : List Source
  dest : Option VSpec
  fixed : Option Nat
  reads : List Reads

/-- The format-tag mismatch of an instruction has the detail `n` (R47, R48): the first source that fails has it, or every source passes and the
destination fails. -/
def Mismatch (s : State) (o : Operands) (n : BitVec 8) : Prop :=
  let bad (j : Nat) (c : Source) : Option (BitVec 6) := tagReason s (oCapacity o.widths) o.dest (o.srcs.take j) c
  (∃ j c r, o.srcs[j]? = some c ∧ bad j c = some r ∧ (∀ k x, k < j → o.srcs[k]? = some x → bad k x = none) ∧ n = c.num ++ r) ∨
  ((∀ k x, o.srcs[k]? = some x → bad k x = none) ∧
    ∃ d r, o.dest = some d ∧ destReason s (oCapacity o.widths) (o.fixed.getD (widthMet s o.srcs)) d = some r ∧ n = 3#2 ++ r)

/-- Prefix, operands, and the further condition of being legal, of each vector instruction of R121 to R138, R145 and R146. -/
def vecOperands (s : State) (i : Instr) : Option (Option VPfx × Operands × Prop) :=
  let whole (p : Option VPfx) (base : ETy) (ws : List Nat) (srcs : ETy → List Source)
      (dest : Option VSpec) (fixed : Option Nat) (reads : List Reads) :
      Option (Option VPfx × Operands × Prop) := some (p, ⟨ETy.bytes (typeOf base p) :: ws, srcs (typeOf base p), dest, fixed, reads⟩, True)
  let a1 (a : VSpec) (t : ETy) : List Source := [⟨1, .vec a (ETy.fmt t)⟩]
  match fpBinary i, fpUnary i, intBinary i, reductionOf i, moveOf s i, tanForm s i with
  | some (p, d, a, b, _, acc), _, _, _, _, _ =>
      whole p .f32 [] (fun t => a1 a t ++ VB.fsource t b ++ dSource (acc || (maskOf p).merges) d (ETy.fmt t)) (some d) none
        ([⟨a, trapA p, 1⟩] ++ VB.reads (trapB p) b ++ dReads (acc || (maskOf p).merges) d (trapD p))
  | _, some (p, d, a, _, _), _, _, _, _ =>
      whole p .f32 [] (fun t => a1 a t ++ dSource (maskOf p).merges d (ETy.fmt t)) (some d) none
        ([⟨a, trapA p, 1⟩] ++ dReads (maskOf p).merges d (trapD p))
  | _, _, some (p, d, a, b, _), _, _, _ =>
      whole p .i32 [] (fun t => a1 a t ++ VB.isource t b ++ dSource (maskOf p).merges d (ETy.fmt t)) (some d) (some 0)
        ([⟨a, trapA p, 1⟩] ++ VB.reads (trapB p) b ++ dReads (maskOf p).merges d (trapD p))
  | _, _, _, some (p, d, a, _, _), _, _ => whole p .f32 [] (a1 a) (some d) none [⟨a, trapA p, 1⟩]
  | _, _, _, _, some (p, d, a, ws, extra, reads, _, _), _ =>
      whole p .f32 ws (fun t => a1 a t ++ extra ++ dSource (maskOf p).merges d (ETy.fmt t)) (some d) (some (s.vreg a).width)
        ([⟨a, trapA p, 1⟩] ++ reads ++ dReads (maskOf p).merges d (trapD p))
  | _, _, _, _, _, some o => some (o.p, ⟨[ETy.bytes (typeOf .f32 o.p)],
      o.source (typeOf .f32 o.p) ++ dSource (o.readD || (maskOf o.p).merges) o.d (ETy.fmt (typeOf .f32 o.p)), some o.d, o.fixed,
      (o.a.map fun a => (⟨a, trapA o.p, 1⟩ : Reads)).toList ++ dReads (o.readD || (maskOf o.p).merges) o.d (trapD o.p)⟩, o.ok)
  | none, none, none, none, none, none => match i with
    | .vcvt p t d a src _ => some (p, ⟨[ETy.bytes t, ETy.bytes src], [⟨1, .vec a (ETy.fmt src)⟩] ++ dSource (maskOf p).merges d (ETy.fmt t), some d,
        some (if t.isFp && src.isFp then (s.vreg a).width else 0), [⟨a, trapA p, 1⟩] ++ dReads (maskOf p).merges d (trapD p)⟩, True)
    | .viota p d => whole p .i32 [] (fun t => dSource (maskOf p).merges d (ETy.fmt t)) (some d) (some 0) (dReads (maskOf p).merges d (trapD p))
    | .vfcmp p _ _ a b => whole p .f32 [] (fun t => a1 a t ++ VB.fsource t b) none none ([⟨a, trapA p, 1⟩] ++ VB.reads (trapB p) b)
    | .vcmp p _ _ a b => whole p .i32 [] (fun t => a1 a t ++ VB.isource t b) none none ([⟨a, trapA p, 1⟩] ++ VB.reads (trapB p) b)
    | .vscanO p d a _ => whole p .f32 [] (fun t => a1 a t ++ dSource (maskOf p).merges d (ETy.fmt t)) (some d) (some (s.vreg a).width)
        ([⟨a, trapA p, 1⟩] ++ dReads (maskOf p).merges d (trapD p))
    | .vsplat p d b => whole p .f32 [] (fun t => splatSource t b ++ dSource (maskOf p).merges d (ETy.fmt t)) (some d)
        (some (splatPlanes s (typeOf .f32 p) b)) (dReads (maskOf p).merges d (trapD p))
    | _ => none

/-- The mask that limits the results of each vector instruction that can raise a flag, and its results by element, those of bundle width `w`. -/
def flagging (s : State) (w : Nat) : Instr → Option (MaskOf × List Res)
  | .vcvt p t _ a src rm => some (maskOf p, eachElem s fun e => convertLane t src (s.rmode rm) w (laneAt (s.vreg a) (ETy.bits src) e))
  | .vfcmp p c _ a b => some (maskOf p, eachElem s fun e =>
      ⟨0, [], (vfcompare c ((ETy.ffmt (typeOf .f32 p)).val (partOf (s.vreg a) (ETy.bits (typeOf .f32 p)) 0 e))
        ((ETy.ffmt (typeOf .f32 p)).val (floatB s p (typeOf .f32 p) b e).val)).2, []⟩)
  | .vscanO p _ a seg => some (maskOf p, (segments (segLen p s.vl seg) s.vl
      ((List.range s.vl).map fun e => (laneAt (s.vreg a) (ETy.bits (typeOf .f32 p)) e, isActive s (maskOf p) e))).flatMap
        (scanSeg (typeOf .f32 p) (s.rmode .dyn) w none))
  | i => match fpBinary i, fpUnary i, reductionOf i with
    | some (p, d, a, b, op, _), _, _ => some (maskOf p, eachElem s fun e =>
        element (ETy.ffmt (typeOf .f32 p)) (s.rmode .dyn) op w ((s.vreg a).width != 0) (bundledB s b)
          (laneAt (s.vreg a) (ETy.bits (typeOf .f32 p)) e) (floatB s p (typeOf .f32 p) b e) (laneAt (s.vreg d) (ETy.bits (typeOf .f32 p)) e))
    | _, some (p, _, a, op, rm), _ => some (maskOf p, eachElem s fun e =>
        element (ETy.ffmt (typeOf .f32 p)) (s.rmode rm) op w ((s.vreg a).width != 0) false
          (laneAt (s.vreg a) (ETy.bits (typeOf .f32 p)) e) (Lane.zero 0) (Lane.zero 0))
    | _, _, some (p, _, a, seg, op) => some (.none, eachElem s fun j =>
        if j < (s.vl + segLen p s.vl seg - 1) / segLen p s.vl seg then
          reduceOne s (maskOf p) (typeOf .f32 p) w op j (segmentOf s (maskOf p) (s.vreg a) (ETy.bits (typeOf .f32 p)) (segLen p s.vl seg) j)
        else Res.zero w)
    | none, none, none => none

/-- A reduction or a scan, which waits for the elements that earlier instructions write (R128). -/
def crossesLanes : Instr → Bool
  | .vscanO _ _ _ _ => true
  | i => (reductionOf i).isSome

/-- The active results by element. -/
def activeResults (s : State) (m : MaskOf) (res : List Res) : List (Nat × Res) := ((List.range s.vl).zip res).filter fun x => isActive s m x.1

/-- The tangent trap of results of bundle width `w` (R109): the lowest direction in which an enabled kind arose, all kinds of that direction, and the
lowest element at which an enabled one did. -/
def TangentTrap (s : State) (w : Nat) (l : List (Nat × Res)) (e : Exc) : Prop :=
  ∃ i n r, i < w ∧ (∀ j, j < i → dirFlags (l.map (·.2)) j &&& s.tanEnables = 0) ∧
    l.find? (fun x => kinds (x.2.tfl.getD i 0) &&& s.tanEnables != 0) = some (n, r) ∧
    e = ⟨0x10, BitVec.ofNat 4 i ++ dirFlags (l.map (·.2)) i, BitVec.ofNat 64 n, 0⟩

end Sys2Proof.Claims

/-! ### Floating point on `f` registers -/

/-- R141, R142: each SFP instruction with an `f` result completes when its sources are not void, agree on the bundle width and no enabled
flag arises; `f[d]` takes the value and the tangents of R104 and R105, and the flags, `tflags` and `dhealth` what they raised. R142, R47,
R48, R92, R109: before an instruction of SFP writes anything, a source that is void, or whose bundle width differs from the one met before
it, raises format-tag mismatch; then an enabled flag raises FP trap with all the flags that would be set, and else an enabled kind of a
direction raises tangent trap. Each is precise: nothing else changes. -/
def Obligations.ScalarFloatArithmetic : Prop :=
  (∀ (s : State) (i : Instr) (d : Reg) (srcs : List Source) (op : FOp) (rm : Rm) (a : Reg) (b c : Option Reg) (w : Nat),
    fpForm i = some (d, srcs, op, rm, a, b, c) → TagsOk s [] true srcs none w w →
    let r := element .f32 (s.rmode rm) op w ((fLaneOf s a).tan.length != 0) ((fLaneOr s b).tan.length != 0) (fLaneOf s a) (fLaneOr s b) (fLaneOr s c)
    NoTrap s w [r] →
    ∃ t, exec i s = .next t ∧ WritesF s t d (fResult w r) r.fl (tflagBits [r] w) (spoiled .f32 0xFFFF [Res.lane r] w) 4) ∧
  (∀ (s : State),
    (∀ (i : Instr) (d : Reg) (srcs : List Source) (op : FOp) (rm : Rm) (a : Reg) (b c : Option Reg), fpForm i = some (d, srcs, op, rm, a, b, c) →
      (∀ n, Mismatch s ⟨[], srcs, none, none, []⟩ n → exec i s = .next (s.except ⟨0x03, n, 0, 0⟩)) ∧
      (∀ w, TagsOk s [] true srcs none w w →
        let r := element .f32 (s.rmode rm) op w ((fLaneOf s a).tan.length != 0) ((fLaneOr s b).tan.length != 0) (fLaneOf s a) (fLaneOr s b)
          (fLaneOr s c)
        (r.fl &&& s.fpEnables ≠ 0 → exec i s = .next (s.except ⟨0x0F, r.fl.setWidth 8, 0, 0⟩)) ∧
        (r.fl &&& s.fpEnables = 0 → ∀ e, TangentTrap s w [(0, r)] e → exec i s = .next (s.except e)))) ∧
    (∀ (d : BitVec 3) (a b : Reg) (c : FCond),
      (∀ n, Mismatch s ⟨[], [fSource 1 a, fSource 2 b], none, none, []⟩ n → exec (.fcmp d a b c) s = .next (s.except ⟨0x03, n, 0, 0⟩)) ∧
      (∀ w, TagsOk s [] true [fSource 1 a, fSource 2 b] none w w → fcmpFlags c (s.f a).val (s.f b).val &&& s.fpEnables ≠ 0 →
        exec (.fcmp d a b c) s = .next (s.except ⟨0x0F, (fcmpFlags c (s.f a).val (s.f b).val).setWidth 8, 0, 0⟩))) ∧
    (∀ (d a : Reg) (ty : CvtTy) (rm : Rm),
      (let r := cvtIF (if (CvtTy.shape ty).1 then ((s.x a).setWidth (CvtTy.shape ty).2).toInt
          else (((s.x a).setWidth (CvtTy.shape ty).2).toNat : Int)) .f32 (s.rmode rm)
       r.2 &&& s.fpEnables ≠ 0 → exec (.fcvtFX d a ty rm) s = .next (s.except ⟨0x0F, r.2.setWidth 8, 0, 0⟩)) ∧
      (let r := cvtFI (FFmt.f32.val (s.f a).val.toNat) (CvtTy.shape ty).1 (CvtTy.shape ty).2 (s.rmode rm)
       (s.f a).tag.fmt ≠ .void → r.2 &&& s.fpEnables ≠ 0 → exec (.fcvtXF d a ty rm) s = .next (s.except ⟨0x0F, r.2.setWidth 8, 0, 0⟩)) ∧
      ((s.f a).tag.fmt = .void → ∀ i, i = .fcvtXF d a ty rm ∨ i = .fmovX d a ∨ i = .fclass d a →
        exec i s = .next (s.except ⟨0x03, 1#2 ++ 0x03#6, 0, 0⟩))))

/-- R141, R93: the moves and conversions between `x` and `f` registers. R143: `fcmp` writes the predicate by the order of the FP32 numbers
and sets NV as its condition says. -/
def Obligations.ScalarFloatMovesAndComparisons : Prop :=
  (∀ (s : State) (d a : Reg),
    (∃ t, exec (.fmovF d a) s = .next t ∧ WritesF s t d ⟨Tag.of .f32 0, (s.x a).setWidth 32, []⟩ 0 0 0 4) ∧
    (∀ (ty : CvtTy) (rm : Rm),
      let r := cvtIF (if (CvtTy.shape ty).1 then ((s.x a).setWidth (CvtTy.shape ty).2).toInt
        else (((s.x a).setWidth (CvtTy.shape ty).2).toNat : Int)) .f32 (s.rmode rm)
      r.2 &&& s.fpEnables = 0 →
      ∃ t, exec (.fcvtFX d a ty rm) s = .next t ∧ WritesF s t d ⟨Tag.of .f32 0, BitVec.ofNat 32 r.1, []⟩ r.2 0 0 4) ∧
    ((s.f a).tag.fmt ≠ .void → ∃ t, exec (.fmovX d a) s = .next t ∧ WritesX s t d ((s.f a).val.setWidth 64) 4) ∧
    ((s.f a).tag.fmt ≠ .void → ∃ t, exec (.fclass d a) s = .next t ∧ WritesX s t d (1 <<< classBit (s.f a).val) 4) ∧
    (∀ (ty : CvtTy) (rm : Rm),
      let r := cvtFI (FFmt.f32.val (s.f a).val.toNat) (CvtTy.shape ty).1 (CvtTy.shape ty).2 (s.rmode rm)
      (s.f a).tag.fmt ≠ .void → r.2 &&& s.fpEnables = 0 →
      ∃ t, exec (.fcvtXF d a ty rm) s = .next t ∧
        (∀ q, t.x q = if q = d ∧ q ≠ 0 then
          (if (CvtTy.shape ty).1 then (BitVec.ofNat (CvtTy.shape ty).2 r.1).signExtend 64 else (BitVec.ofNat (CvtTy.shape ty).2 r.1).setWidth 64)
          else s.x q) ∧
        t.st.fcsr = s.st.fcsr ||| (r.2.setWidth 13 <<< 3) ∧
        Finishes s { s with core := { s.core with xfail := t.core.xfail, sc := { s.core.sc with
          x := t.core.sc.x, st := { s.core.sc.st with fcsr := t.st.fcsr } } } } t 4)) ∧
  (∀ (s : State) (d : BitVec 3) (a b : Reg) (c : FCond) (w : Nat),
    TagsOk s [] true [fSource 1 a, fSource 2 b] none w w → fcmpFlags c (s.f a).val (s.f b).val &&& s.fpEnables = 0 →
    ∃ t, exec (.fcmp d a b c) s = .next t ∧
      WritesP s t d (fcmpResult c (s.f a).val (s.f b).val) (fcmpFlags c (s.f a).val (s.f b).val) 4)

/-! ### Vector arithmetic -/

/-- R121, R122: each instruction of VFP and VFMA, in every form of operand b, masked or not, bundled or not. The free values of the model
stand where the rules leave a result open (log entries 5 to 7). R123, R124: each instruction of VFUN. That the correctly rounded functions
round a value of 320 fractional bits, and one rounding in their slots, are the model's (log entries 20, 21). -/
def Obligations.VectorFloatArithmetic : Prop :=
  (∀ (s : State) (i : Instr) (p : Option VPfx) (d a : VSpec) (b : VB) (op : FOp) (acc : Bool) (w : Nat),
    i.wf = true → fpBinary i = some (p, d, a, b, op, acc) →
    let t := typeOf .f32 p; let m := maskOf p; let reads := acc || m.merges
    VecAllowed s ⟨i, p.isSome, m.mask != 0, [ETy.bytes t]⟩ →
    TagsOk s [ETy.bytes t] true ([⟨1, .vec a (ETy.fmt t)⟩] ++ VB.fsource t b ++ dSource reads d (ETy.fmt t)) (some d) w w →
    Ready s ([⟨a, trapA p, 1⟩] ++ VB.reads (trapB p) b ++ dReads reads d (trapD p)) → DestFree s d →
    let res := eachElem s fun e => element (ETy.ffmt t) (s.rmode .dyn) op w ((s.vreg a).width != 0) (bundledB s b)
      (laneAt (s.vreg a) (ETy.bits t) e) (floatB s p t b e) (laneAt (s.vreg d) (ETy.bits t) e)
    NoTrap s w (activeOf s m res) →
    ∃ t', exec i s = .next t' ∧ WritesV s t' ⟨d, ETy.fmt t, w, m, 0xFFFF⟩ res (vlen p)) ∧
  (∀ (s : State) (i : Instr) (p : Option VPfx) (d a : VSpec) (op : FOp) (rm : Rm) (w : Nat),
    i.wf = true → fpUnary i = some (p, d, a, op, rm) →
    let t := typeOf .f32 p; let m := maskOf p
    VecAllowed s ⟨i, p.isSome, m.mask != 0, [ETy.bytes t]⟩ →
    TagsOk s [ETy.bytes t] true ([⟨1, .vec a (ETy.fmt t)⟩] ++ dSource m.merges d (ETy.fmt t)) (some d) w w →
    Ready s ([⟨a, trapA p, 1⟩] ++ dReads m.merges d (trapD p)) → DestFree s d →
    let res := eachElem s fun e => element (ETy.ffmt t) (s.rmode rm) op w ((s.vreg a).width != 0) false
      (laneAt (s.vreg a) (ETy.bits t) e) (Lane.zero 0) (Lane.zero 0)
    NoTrap s w (activeOf s m res) →
    ∃ t', exec i s = .next t' ∧ WritesV s t' ⟨d, ETy.fmt t, w, m, 0xFFFF⟩ res (vlen p))

/-- R47, R48, R51, R92, R109: a vector instruction that is legal raises, before it writes anything, format-tag mismatch for its first
operand that fails; then register empty for its first trap-marked source that is empty; and once its sources are there and its destination
is free, FP trap for an enabled flag, with all the flags of its active elements, or else tangent trap for an enabled kind of a direction.
Each is precise: nothing else changes. The flags of a reduction count at the element of its result (log entry 9), a merging `vcompress`
checks d (log entry 19), and comparisons check widths (log entry 92). -/
def Obligations.VectorChecksAndTraps : Prop :=
  ∀ (s : State) (i : Instr) (p : Option VPfx) (o : Operands) (legal : Prop),
    i.wf = true → vecOperands s i = some (p, o, legal) → legal → VecAllowed s ⟨i, p.isSome, (maskOf p).mask != 0, o.widths⟩ →
    (∀ n, Mismatch s o n → exec i s = .next (s.except ⟨0x03, n, 0, 0⟩)) ∧
    (∀ w, TagsOk s o.widths true o.srcs o.dest w (o.fixed.getD w) →
      (∀ r, o.reads.find? (fun r => r.trap && s.empty r.reg) = some r → exec i s = .next (s.except ⟨0x04, r.detail, 0, 0⟩)) ∧
      (Ready s o.reads → (∀ d ∈ o.dest, DestFree s d) → (crossesLanes i = true → s.core.vec.unwritten = false) →
        ∀ m res, flagging s (o.fixed.getD w) i = some (m, res) →
          let l := activeResults s m res; let fl := joinFlags (l.map fun x => x.2.fl)
          (∀ n r, l.find? (fun x => x.2.fl &&& s.fpEnables != 0) = some (n, r) →
            exec i s = .next (s.except ⟨0x0F, fl.setWidth 8, BitVec.ofNat 64 n, 0⟩)) ∧
          (fl &&& s.fpEnables = 0 → ∀ e, TangentTrap s (o.fixed.getD w) l e → exec i s = .next (s.except e))))

/-- R125 to R127: `vcvt` converts each element, and between two floating-point types the slots of each. The result has the bundle width of a
between two floating-point types and 0 otherwise, whatever d that it merges into carries. -/
def Obligations.VectorConversions : Prop :=
  ∀ (s : State) (p : Option VPfx) (t : ETy) (d a : VSpec) (src : ETy) (rm : Rm) (w : Nat),
    Instr.wf (.vcvt p t d a src rm) = true →
    let m := maskOf p; let ws := [ETy.bytes t, ETy.bytes src]; let w' := if t.isFp && src.isFp then (s.vreg a).width else 0
    VecAllowed s ⟨.vcvt p t d a src rm, p.isSome, m.mask != 0, ws⟩ →
    TagsOk s ws true ([⟨1, .vec a (ETy.fmt src)⟩] ++ dSource m.merges d (ETy.fmt t)) (some d) w w' →
    Ready s ([⟨a, trapA p, 1⟩] ++ dReads m.merges d (trapD p)) → DestFree s d →
    let res := eachElem s fun e => convertLane t src (s.rmode rm) w' (laneAt (s.vreg a) (ETy.bits src) e)
    NoTrap s w' (activeOf s m res) →
    ∃ t', exec (.vcvt p t d a src rm) s = .next t' ∧ WritesV s t' ⟨d, ETy.fmt t, w', m, 0xFFFF⟩ res (vlen p)

/-- R145: each instruction of VINT with two operands; the result wraps to the element and carries no tangents. R145: `viota` writes to each
element the number of active elements below it. -/
def Obligations.VectorIntegerArithmetic : Prop :=
  (∀ (s : State) (i : Instr) (p : Option VPfx) (d a : VSpec) (b : VB) (op : ETy → Nat → Nat → Int) (w : Nat),
    i.wf = true → intBinary i = some (p, d, a, b, op) →
    let t := typeOf .i32 p; let m := maskOf p
    VecAllowed s ⟨i, p.isSome, m.mask != 0, [ETy.bytes t]⟩ →
    TagsOk s [ETy.bytes t] true ([⟨1, .vec a (ETy.fmt t)⟩] ++ VB.isource t b ++ dSource m.merges d (ETy.fmt t)) (some d) w 0 →
    Ready s ([⟨a, trapA p, 1⟩] ++ VB.reads (trapB p) b ++ dReads m.merges d (trapD p)) → DestFree s d →
    let res := eachElem s fun e =>
      Res.plain ⟨(op t (partOf (s.vreg a) (ETy.bits t) 0 e) (intB s p t b e) % 2 ^ ETy.bits t).toNat, []⟩
    ∃ t', exec i s = .next t' ∧ WritesV s t' ⟨d, ETy.fmt t, 0, m, 0⟩ res (vlen p)) ∧
  (∀ (s : State) (p : Option VPfx) (d : VSpec) (w : Nat),
    Instr.wf (.viota p d) = true →
    let t := typeOf .i32 p; let m := maskOf p
    VecAllowed s ⟨.viota p d, p.isSome, m.mask != 0, [ETy.bytes t]⟩ →
    TagsOk s [ETy.bytes t] true (dSource m.merges d (ETy.fmt t)) (some d) w 0 →
    Ready s (dReads m.merges d (trapD p)) → DestFree s d →
    ∃ t', exec (.viota p d) s = .next t' ∧
      WritesV s t' ⟨d, ETy.fmt t, 0, m, 0⟩ (eachElem s fun e => Res.plain ⟨rankOf s m e % 2 ^ ETy.bits t, []⟩) (vlen p))

/-- R146: `vfcmp` and `vcmp` write one bit for each active element; the tangents are not read. Writes end at `vl` (log entry 16). That two
different nonzero bundle widths of their operands are a mismatch all the same is the model's (log entry 92), and so is that the bits of
elements beyond the size of a mask are dropped (log entry 89). R147, R148: the mask instructions; bits of a mask result at and above `vl`
are 0, and of an image too. Those that write an `x` register are lane barriers, which run when every earlier instruction has written its
elements. That a matrix engine that stands at a fault is not awaited, and that `kmov.k` into an `o` register is limited to 384 elements, are
the model's (log entries 123, 90). -/
def Obligations.VectorComparisonsAndMasks : Prop :=
  (∀ (s : State) (p : Option VPfx) (kd : BitVec 3) (a : VSpec) (b : VB) (w : Nat),
    (∀ c : VFCond, Instr.wf (.vfcmp p c kd a b) = true →
      let t := typeOf .f32 p; let m := maskOf p
      VecAllowed s ⟨.vfcmp p c kd a b, p.isSome, m.mask != 0, [ETy.bytes t]⟩ →
      TagsOk s [ETy.bytes t] true ([⟨1, .vec a (ETy.fmt t)⟩] ++ VB.fsource t b) none w w →
      Ready s ([⟨a, trapA p, 1⟩] ++ VB.reads (trapB p) b) →
      let cmp := fun e => vfcompare c ((ETy.ffmt t).val (partOf (s.vreg a) (ETy.bits t) 0 e)) ((ETy.ffmt t).val (floatB s p t b e).val)
      let fl := joinFlags (((List.range s.vl).filter (isActive s m)).map fun e => (cmp e).2)
      fl &&& s.fpEnables = 0 →
      ∃ t', exec (.vfcmp p c kd a b) s = .next t' ∧ WritesK s t' kd (compareBit s m kd fun e => (cmp e).1) fl (vlen p)) ∧
    (∀ c : VCond, Instr.wf (.vcmp p c kd a b) = true →
      let t := typeOf .i32 p; let m := maskOf p
      VecAllowed s ⟨.vcmp p c kd a b, p.isSome, m.mask != 0, [ETy.bytes t]⟩ →
      TagsOk s [ETy.bytes t] true ([⟨1, .vec a (ETy.fmt t)⟩] ++ VB.isource t b) none w w →
      Ready s ([⟨a, trapA p, 1⟩] ++ VB.reads (trapB p) b) →
      ∃ t', exec (.vcmp p c kd a b) s = .next t' ∧
        WritesK s t' kd (compareBit s m kd fun e =>
          vcompare c (valueElem t (partOf (s.vreg a) (ETy.bits t) 0 e)) (valueElem t (intB s p t b e))) 0 (vlen p))) ∧
  (∀ (s : State),
    (∀ (i : Instr) (p : Option VPfx) (d : BitVec 3) (bit : Nat → Bool), i.wf = true → maskLogic s i = some (p, d, bit) → MaskAllowed s i p →
      ∃ t, exec i s = .next t ∧ WritesK s t d (fun e => decide (e < s.vl) && bit e) 0 (vlen p)) ∧
    (∀ (i : Instr) (p : Option VPfx) (d : Reg) (v : Word), i.wf = true → maskCounts s i = some (p, d, v) → MaskAllowed s i p →
      s.core.vec.unwritten = false →
      ∃ t, exec i s = .next t ∧ WritesX s t d v (vlen p)) ∧
    (∀ (p : Option VPfx) (d : BitVec 3) (a : VSpec), Instr.wf (.kmovKMask p d a) = true → MaskAllowed s (.kmovKMask p d a) p →
      TagsOk s [] false [⟨1, .vec a .mask⟩] none 0 0 → Ready s [⟨a, trapA p, 1⟩] →
      ∃ t, exec (.kmovKMask p d a) s = .next t ∧
        WritesK s t d (fun e => decide (e < s.vl) && ((s.vreg a).plane 0).testBit e) 0 (vlen p)) ∧
    (∀ (p : Option VPfx) (d : VSpec) (a : BitVec 3), Instr.wf (.kmovKVector p d a) = true → MaskAllowed s (.kmovKVector p d a) p →
      TagsOk s [] false [] (some d) 0 0 → DestFree s d →
      ∃ t, exec (.kmovKVector p d a) s = .next t ∧ (t.vreg d).tag = Tag.of .mask 0 ∧ (t.vreg d).failed = none ∧
        (∀ e, ((t.vreg d).plane 0).testBit e = (decide (e < s.vl) && s.k a e)) ∧ Pushed s t d ∧ OtherRegs s t d ∧
        t.st = s.st ∧ InSequence s t (vlen p) ∧ VecFrame s t))

/-- R128, R130, R99, R100: when every earlier instruction has written its elements, each reduction writes the result of segment j to element
j, and zero to the elements past the last segment; the mask selects source elements only. Flags and traps count at the result element (log
entry 9), a signalling NaN that is alone in its segment sets no flag (log entry 113), and a matrix engine that stands at a fault is not
awaited (log entry 123). R131: `vscan.o` writes to each element the ordered sum of the active elements of its segment up to it. -/
def Obligations.VectorReductionsAndScan : Prop :=
  (∀ (s : State) (i : Instr) (p : Option VPfx) (d a : VSpec) (seg : Option (BitVec 7)) (op : RedOp) (w : Nat),
    i.wf = true → reductionOf i = some (p, d, a, seg, op) →
    let t := typeOf .f32 p; let m := maskOf p; let n := segLen p s.vl seg
    VecAllowed s ⟨i, p.isSome, m.mask != 0, [ETy.bytes t]⟩ →
    TagsOk s [ETy.bytes t] true [⟨1, .vec a (ETy.fmt t)⟩] (some d) w w → Ready s [⟨a, trapA p, 1⟩] → DestFree s d → s.core.vec.unwritten = false →
    let res := eachElem s fun j => if j < (s.vl + n - 1) / n then reduceOne s m t w op j (segmentOf s m (s.vreg a) (ETy.bits t) n j) else Res.zero w
    NoTrap s w res →
    ∃ t', exec i s = .next t' ∧ WritesV s t' ⟨d, ETy.fmt t, w, .none, 0xFFFF⟩ res (vlen p)) ∧
  (∀ (s : State) (p : Option VPfx) (d a : VSpec) (seg : Option (BitVec 7)) (w : Nat),
    Instr.wf (.vscanO p d a seg) = true →
    let t := typeOf .f32 p; let m := maskOf p; let n := segLen p s.vl seg
    VecAllowed s ⟨.vscanO p d a seg, p.isSome, m.mask != 0, [ETy.bytes t]⟩ →
    TagsOk s [ETy.bytes t] true ([⟨1, .vec a (ETy.fmt t)⟩] ++ dSource m.merges d (ETy.fmt t)) (some d) w (s.vreg a).width →
    Ready s ([⟨a, trapA p, 1⟩] ++ dReads m.merges d (trapD p)) → DestFree s d → s.core.vec.unwritten = false →
    let pairs := (List.range s.vl).map fun e => (laneAt (s.vreg a) (ETy.bits t) e, isActive s m e)
    let res := (segments n s.vl pairs).flatMap (scanSeg t (s.rmode .dyn) (s.vreg a).width none)
    NoTrap s (s.vreg a).width (activeOf s m res) →
    ∃ t', exec (.vscanO p d a seg) s = .next t' ∧ WritesV s t' ⟨d, ETy.fmt t, (s.vreg a).width, m, 0xFFFF⟩ res (vlen p))

/-- R132: each permutation, slide, compression, expansion, broadcast and move writes to element e the element of a that its entry names, or
zero where it names none. The result has the bundle width of a. Slots of a NaN move as they are (log entry 8), and a merging `vcompress`
checks d (log entry 19). R132: `vsplat` writes one scalar to every element: an `f` register with its tangents, whose bundle width the result
has, an `x` register or an immediate. -/
def Obligations.VectorMoves : Prop :=
  (∀ (s : State) (i : Instr) (p : Option VPfx) (d a : VSpec) (ws : List Nat) (extra : List Source) (reads : List Reads) (all : Bool)
    (src : Nat → Option Nat) (w : Nat),
    i.wf = true → moveOf s i = some (p, d, a, ws, extra, reads, all, src) →
    let t := typeOf .f32 p; let m := maskOf p; let w' := (s.vreg a).width
    VecAllowed s ⟨i, p.isSome, m.mask != 0, ETy.bytes t :: ws⟩ →
    TagsOk s (ETy.bytes t :: ws) true ([⟨1, .vec a (ETy.fmt t)⟩] ++ extra ++ dSource m.merges d (ETy.fmt t)) (some d) w w' →
    Ready s ([⟨a, trapA p, 1⟩] ++ reads ++ dReads m.merges d (trapD p)) → DestFree s d → s.core.vec.unwritten = false →
    ∃ t', exec i s = .next t' ∧ WritesV s t' ⟨d, ETy.fmt t, w', if all then .none else m, 0xFFFF⟩
      (eachElem s fun e => Res.plain (movedLane (s.vreg a) (ETy.bits t) w' (src e))) (vlen p)) ∧
  (∀ (s : State) (p : Option VPfx) (d : VSpec) (b : XB) (w : Nat),
    Instr.wf (.vsplat p d b) = true →
    let t := typeOf .f32 p; let m := maskOf p; let w' := splatPlanes s t b
    VecAllowed s ⟨.vsplat p d b, p.isSome, m.mask != 0, [ETy.bytes t]⟩ →
    TagsOk s [ETy.bytes t] true (splatSource t b ++ dSource m.merges d (ETy.fmt t)) (some d) w w' →
    Ready s (dReads m.merges d (trapD p)) → DestFree s d → s.core.vec.unwritten = false →
    let one : Lane := match b with
      | .vs r => if t.isFp then floatB s p t (.vs r) 0 else ⟨(s.x r).toNat % 2 ^ ETy.bits t, []⟩
      | .vi i => if t.isFp then floatB s p t (.vi i) 0 else ⟨intB s p t (.vi i) 0, []⟩
    ∃ t', exec (.vsplat p d b) s = .next t' ∧
      WritesV s t' ⟨d, ETy.fmt t, w', m, 0xFFFF⟩ (eachElem s fun _ => Res.plain ⟨one.val, (List.range w').map one.slot⟩) (vlen p))

/-- R134 to R138: the instructions of TAN: seeding directions, clearing tangents, reading a plane, writing one, and masking planes. -/
def Obligations.TangentInstructions : Prop :=
  ∀ (s : State) (i : Instr) (o : TanForm) (w : Nat),
    i.wf = true → tanForm s i = some o → o.ok →
    let t := typeOf .f32 o.p; let m := maskOf o.p; let rd := o.readD || m.merges; let w' := o.fixed.getD w
    VecAllowed s ⟨i, o.p.isSome, m.mask != 0, [ETy.bytes t]⟩ →
    TagsOk s [ETy.bytes t] true (o.source t ++ dSource rd o.d (ETy.fmt t)) (some o.d) w w' →
    Ready s ((o.a.map fun a => (⟨a, trapA o.p, 1⟩ : Reads)).toList ++ dReads rd o.d (trapD o.p)) → DestFree s o.d →
    ∃ t', exec i s = .next t' ∧ WritesV s t' ⟨o.d, ETy.fmt t, w', m, o.watch⟩
      (eachElem s fun e => Res.plain ⟨o.val e, (List.range w').map fun j => o.slot j e⟩) (vlen o.p)

namespace Sys2Proof.Claims

open Machine

/-! ### Stores of several places -/

/-- The low `n` bytes of a number, least first (R2). -/
def leBytes (v n : Nat) : List Byte := (List.range n).map fun i => BitVec.ofNat 8 (v / 2 ^ (8 * i))

/-- Memory in `t` is that of `s` after the stores `l` one after another: a byte that no store covers is as before, and a byte of a store
that no later one covers has its value. A fabric window holds no byte of this package. -/
def StoresBytes (s t : State) (l : List (Loc × List Byte)) : Prop :=
  (∀ q, (∀ x ∈ l, ¬ Within q x.1 x.2.length) → byteAt t q = byteAt s q) ∧
  (∀ (n : Nat) (x : Loc × List Byte), l[n]? = some x → x.1.isFabric = false → ∀ i, i < x.2.length →
    (∀ (m : Nat) (y : Loc × List Byte), n < m → l[m]? = some y → ¬ Within (Loc.up x.1 i) y.1 y.2.length) →
    byteAt t (Loc.up x.1 i) = x.2.getD i 0)

/-! ### Vector accesses (R170 to R177) -/

/-- Prefix, type, register, base, bundled, first-fault, local, and address mode of each vector load. -/
def vloadForm : Instr → Option (Option MPfx × ETy × VSpec × Reg × Bool × Bool × Bool × AddrMode)
  | .vld p t v base bnd ff loc => some (p, t, v, base, bnd, ff, loc, .unit)
  | .vldS p t v base bnd ff xs loc => some (p, t, v, base, bnd, ff, loc, .strided xs)
  | .vld2d p t v base bnd ff xs loc => some (p, t, v, base, bnd, ff, loc, .twoD xs)
  | .vldX p t v base bnd vi loc => some (p, t, v, base, bnd, false, loc, .indexed vi)
  | _ => none

/-- Prefix, type, register, base, bundled, local, and address mode of each vector store. -/
def vstoreForm : Instr → Option (Option MPfx × ETy × VSpec × Reg × Bool × Bool × AddrMode)
  | .vst p t v base bnd loc => some (p, t, v, base, bnd, loc, .unit)
  | .vstS p t v base bnd xs loc => some (p, t, v, base, bnd, loc, .strided xs)
  | .vst2d p t v base bnd xs loc => some (p, t, v, base, bnd, loc, .twoD xs)
  | .vstX p t v base bnd vi loc => some (p, t, v, base, bnd, loc, .indexed vi)
  | _ => none

/-- The address of plane `pl` of element `e` (R170, R174). -/
def spotAddr (s : State) (m : AddrMode) (b : Word) (w e pl : Nat) : Word := s.elemAddr m b w e + word (pl * s.planePitch w)

/-- The planes of a bundled access lie at multiples of the width, and every plane of every active element is aligned (R174, R175). -/
def SpotsAligned (s : State) (m : AddrMode) (k : MaskOf) (b : Word) (w planes : Nat) (bnd : Bool) : Prop :=
  (bnd = true → s.planePitch w % w = 0) ∧
    ∀ e, e < s.vl → isActive s k e = true → ∀ pl, pl ≤ planes → (spotAddr s m b w e pl).toNat % w = 0

/-- Plane `pl` of element `e` lies at the place `l`, is permitted, is not behind an atomic operation of the thread (R253), races with
nothing (R238), and a fabric window has its token (R349). -/
def SpotAt (s : State) (m : AddrMode) (b : Word) (w : Nat) (k : Access) (e pl : Nat) (l : Loc) : Prop :=
  Machine.locate s.part s.mem s.space (spotAddr s m b w e pl) w k = .ok l ∧ s.chained l w = false ∧
    raceCheck s.part s.mem (s.agent false .core) (k == .store) l w (spotAddr s m b w e pl) = .ok () ∧
    (∀ win va, l = .fabric win va → (s.token win).isSome = true)

/-- Every plane of every active element that `on` selects lies where `at'` says. -/
def SpotsAt (s : State) (m : AddrMode) (k : MaskOf) (b : Word) (w planes : Nat) (a : Access) (on : Nat → Prop) (at' : Nat → Nat → Loc) : Prop :=
  ∀ e, e < s.vl → isActive s k e = true → on e → ∀ pl, pl ≤ planes → SpotAt s m b w a e pl (at' e pl)

/-- An element that a load leaves as the mask says: zero, or what it held (R53). -/
def keptElem (s : State) (v : VSpec) (zero : Bool) (w pl e : Nat) : Nat :=
  if zero then 0 else if pl ≤ (s.vreg v).width then partOf (s.vreg v) w pl e else 0

/-- The frame of a vector load: the vector registers, what is still to come into them, and the books of memory and fabric. -/
def LoadFrame (s t : State) : Prop :=
  t = State.follow
    { s with core := { s.core with tlb := t.core.tlb, seq := t.core.seq, fills := t.core.fills,
                                   vec := { s.core.vec with v := t.core.vec.v, o := t.core.vec.o, l0 := t.core.vec.l0, l1 := t.core.vec.l1 } },
             mem := { s.mem with summaries := t.mem.summaries, notes := t.mem.notes }, fab := { s.fab with reqs := t.fab.reqs, qparts := t.fab.qparts } } t

/-- The frame of a vector store: the bytes of memory and what is kept about them, `vstart`, and packets. -/
def StoreFrame (s t : State) : Prop :=
  t = State.follow
    { s with core := { s.core with tlb := t.core.tlb, seq := t.core.seq, vec := { s.core.vec with vstart := t.core.vec.vstart } },
             mem := { s.mem with hbm := t.mem.hbm, tables := t.mem.tables, cxl := t.mem.cxl, spad := t.mem.spad, marks := t.mem.marks,
                                 badHbm := t.mem.badHbm, badSpad := t.mem.badSpad, badCxl := t.mem.badCxl, summaries := t.mem.summaries,
                                 notes := t.mem.notes, pubs := t.mem.pubs },
             fab := { s.fab with reqs := t.fab.reqs } } t

/-- The stores of a vector store in order: active elements from `from'` up, and the planes of each (R173, R177). -/
def storesOf (s : State) (k : MaskOf) (v : VReg) (w planes from' : Nat) (at' : Nat → Nat → Loc) : List (Loc × List Byte) :=
  ((List.range s.vl).filter fun e => isActive s k e && decide (from' ≤ e)).flatMap fun e =>
    (List.range (planes + 1)).map fun pl => (at' e pl, leBytes (if pl ≤ v.width then partOf v (8 * w) pl e else 0) w)

/-- Where an access starts: at `vstart`, which an indexed access ignores (R177). -/
def firstElem (s : State) (m : AddrMode) : Nat := if m.isIndexed then 0 else s.core.vec.vstart.toNat

/-! ### Quantised accesses (R179) -/

/-- Address and bytes of part `j` of block `n`: three words of codes, then the scale byte. -/
def blockPart (b scale : Word) (n j : Nat) : Word × Nat := if j < 3 then (b + word (24 * n + 8 * j), 8) else (scale + word n, 1)

/-- Part `j` of block `n` lies at the place `l`, is permitted, not chained, races with nothing, and a fabric window has its token (R349). -/
def PartAt (s : State) (b scale : Word) (k : Access) (n j : Nat) (l : Loc) : Prop :=
  Machine.locate s.part s.mem s.space (blockPart b scale n j).1 (blockPart b scale n j).2 k = .ok l ∧
    s.chained l (blockPart b scale n j).2 = false ∧
    raceCheck s.part s.mem (s.agent false .core) (k == .store) l (blockPart b scale n j).2 (blockPart b scale n j).1 = .ok () ∧
    (∀ win va, l = .fabric win va → (s.token win).isSome = true)

/-- The codes of block `n` as one number of 192 bits (R94). -/
def codesAt (s : State) (at' : Nat → Nat → Loc) (n : Nat) : Nat :=
  readLoc s.mem (at' n 0) 8 + 2 ^ 64 * readLoc s.mem (at' n 1) 8 + 2 ^ 128 * readLoc s.mem (at' n 2) 8

/-- The elements of block `n` of a register. -/
def blockValues (s : State) (v : VReg) (n : Nat) : List Nat :=
  ((List.range s.vl).filter fun e => decide (e / 32 = n)).map fun e => partOf v 32 0 e

/-- The stores of one quantised block. -/
def blockStores (at' : Nat → Nat → Loc) (n : Nat) (q : Nat × List Nat × Flags) : List (Loc × List Byte) :=
  [(at' n 0, leBytes (lnsPack q.2.1) 8), (at' n 1, leBytes (lnsPack q.2.1 / 2 ^ 64) 8), (at' n 2, leBytes (lnsPack q.2.1 / 2 ^ 128) 8),
   (at' n 3, leBytes q.1 1)]

/-! ### Atomics (R250 to R256) -/

/-- What each vector atomic and memory reduction is. -/
def vamoForm : Instr → Option VAmo
  | .vamoAdd p d vi base t loc => some ⟨.vamoAdd p d vi base t loc, p, .add, t, d, vi, base, loc, true⟩
  | .vamoMin p d vi base t loc => some ⟨.vamoMin p d vi base t loc, p, .min, t, d, vi, base, loc, true⟩
  | .vamoMax p d vi base t loc => some ⟨.vamoMax p d vi base t loc, p, .max, t, d, vi, base, loc, true⟩
  | .vamoSwap p d vi base t loc => some ⟨.vamoSwap p d vi base t loc, p, .swap, t, d, vi, base, loc, true⟩
  | .vamoCas p d vi base t loc => some ⟨.vamoCas p d vi base t loc, p, .cas, t, d, vi, base, loc, true⟩
  | .mredAdd p d vi base t loc => some ⟨.mredAdd p d vi base t loc, p, .add, t, d, vi, base, loc, false⟩
  | .mredMin p d vi base t loc => some ⟨.mredMin p d vi base t loc, p, .min, t, d, vi, base, loc, false⟩
  | .mredMax p d vi base t loc => some ⟨.mredMax p d vi base t loc, p, .max, t, d, vi, base, loc, false⟩
  | _ => none

/-- Operation, d, a, b, type, order and scope of each scalar atomic. -/
def amoForm : Instr → Option (AOp × Reg × Reg × Reg × AmoTy × AmoOrd × Scope)
  | .amoAdd d a b t ord sc => some (.add, d, a, b, t, ord, sc)
  | .amoMin d a b t ord sc => some (.min, d, a, b, t, ord, sc)
  | .amoMax d a b t ord sc => some (.max, d, a, b, t, ord, sc)
  | .amoSwap d a b t ord sc => some (.swap, d, a, b, t, ord, sc)
  | .amoCas d a b t ord sc => some (.cas, d, a, b, t, ord, sc)
  | _ => none

/-- Op of R252 on integers of a type. -/
def intAtom (op : AOp) (t : ETy) (old data new : Nat) : Nat :=
  match op with
  | .add => (old + data) % 2 ^ ETy.bits t
  | .min => if valueElem t data < valueElem t old then data else old
  | .max => if valueElem t old < valueElem t data then data else old
  | .swap => data
  | .cas => if old = data then new else old

/-- The element operation that element `e` of a vector atomic at place `l` joins its chain with (R247, R252), and what it passes on: a strong
relaxed access passes on what fences before it release (R253, R264). -/
def chainOp (s : State) (o : VAmo) (b : Word) (w e : Nat) (l : Loc) : AtomOp :=
  { core := s.core.id, handle := s.core.me.handle, wid := s.core.me.wid, loc := l, va := b + s.indexAt o.vi e, size := w,
    op := AOp.code o.op, ty := (VAmoTy.code o.t).setWidth 4, data := partOf (s.vreg (.v o.d)) (8 * w) 0 e,
    new := if o.op = .cas then partOf (s.vreg (.v (o.d + 1))) (8 * w) 0 e else 0, dest := if o.ret then some (.v o.d, e) else none,
    passes := s.core.fenced.map fun x => ⟨x.1, x.2, false⟩ }

end Sys2Proof.Claims

/-! ### Vector memory -/

/-- R170 to R172, R176: a vector load none of whose active elements faults. An active element takes what its place holds; an inactive one
zero or what it held; elements at and above `vl` stay. The destination is full at once when every place is a scratchpad, and else fills
later (R50); an element in a fabric window is asked for by a packet. Memory and every other register stay. Packets follow log entries 11 and
80. -/
def Obligations.VectorLoads : Prop :=
  ∀ (s : State) (i : Instr) (p : Option MPfx) (t : ETy) (v : VSpec) (base : Reg) (bnd ff loc : Bool) (m : AddrMode) (at' : Nat → Nat → Loc),
    i.wf = true → vloadForm i = some (p, t, v, base, bnd, ff, loc, m) →
    let k := maskOfM p; let w := ETy.bytes t; let planes := if bnd then s.planes else 0; let b := s.baseAddr p base loc
    VecAllowed s ⟨i, p.isSome, k.mask != 0, [w]⟩ → s.zeroRows m = false →
    TagsOk s (w :: s.indexWidths m) false (s.indexSource m ++ dSource k.merges v (ETy.fmt t)) (some v) 0 planes →
    Ready s (indexReads (trapIdx p) m ++ dReads k.merges v (trapData p)) → DestFree s v →
    SpotsAligned s m k b w planes bnd → SpotsAt s m k b w planes .load (fun _ => True) at' →
    (∀ e, e < s.vl → isActive s k e = true → ∀ pl, pl ≤ planes → badAt s.mem (at' e pl) = none) →
    ∃ t', exec i s = .next t' ∧
      (∀ e, e < s.vl → ∀ pl, pl ≤ planes →
        (isActive s k e = false → partOf (t'.vreg v) (8 * w) pl e = keptElem s v k.zero (8 * w) pl e) ∧
        (isActive s k e = true → (at' e pl).isFabric = false → partOf (t'.vreg v) (8 * w) pl e = readLoc s.mem (at' e pl) w % 2 ^ (8 * w)) ∧
        (isActive s k e = true → ∀ win va, at' e pl = .fabric win va → ∃ r ∈ t'.fab.reqs.drop s.fab.reqs.length,
          r.win = some win ∧ r.packet.kind = 0 ∧ ∃ es, r.use = .lanes v (8 * w) pl es ∧ e ∈ es)) ∧
      (∀ e, s.vl ≤ e → ∀ pl, pl ≤ planes → partOf (t'.vreg v) (8 * w) pl e = keptElem s v false (8 * w) pl e) ∧
      (t'.vreg v).tag.fmt = ETy.fmt t ∧ (t'.vreg v).tag.bundle = Bundle.ofPlanes planes ∧ (t'.vreg v).failed = none ∧
      ((t'.vreg v).tag.full = true ↔ ∀ e, e < s.vl → isActive s k e = true → ∀ pl, pl ≤ planes → (at' e pl).isSpad = true) ∧
      (∀ r, r ≠ v → t'.vreg r = s.vreg r) ∧ SameMemory s t' ∧ InSequence s t' (mlen p) ∧ LoadFrame s t'

/-- R170, R173, R177: a vector store none of whose active elements faults stores each active element from `vstart` up, with its planes under
`.b`, in ascending order, and sets `vstart` to 0; every other byte and every register stay. An element in a fabric window leaves as a
packet. The order of the checks and the packets follow log entries 11, 14 and 80, and that an indexed store sets `vstart` to 0 log entry
115. -/
def Obligations.VectorStores : Prop :=
  ∀ (s : State) (i : Instr) (p : Option MPfx) (t : ETy) (v : VSpec) (base : Reg) (bnd loc : Bool) (m : AddrMode) (at' : Nat → Nat → Loc),
    MemoryOk s → i.wf = true → vstoreForm i = some (p, t, v, base, bnd, loc, m) →
    let k := maskOfM p; let w := ETy.bytes t; let planes := if bnd then (s.vreg v).width else 0; let b := s.baseAddr p base loc
    VecAllowed s ⟨i, p.isSome, k.mask != 0, [w]⟩ → s.zeroRows m = false →
    TagsOk s (w :: s.indexWidths m) false (s.indexSource m ++ dSource true v (ETy.fmt t)) none 0 0 →
    Ready s (indexReads (trapIdx p) m ++ dReads true v (trapData p)) →
    SpotsAligned s m k b w planes bnd → SpotsAt s m k b w planes .store (fun e => firstElem s m ≤ e) at' →
    ∃ t', exec i s = .next t' ∧ StoresBytes s t' (storesOf s k (s.vreg v) w planes (firstElem s m) at') ∧ t'.core.vec.vstart = 0 ∧
      (∀ e, e < s.vl → isActive s k e = true → firstElem s m ≤ e → ∀ pl, pl ≤ planes → ∀ win va, at' e pl = .fabric win va →
        ∃ r ∈ t'.fab.reqs.drop s.fab.reqs.length, r.win = some win ∧ r.packet.kind = 1) ∧
      InSequence s t' (mlen p) ∧ StoreFrame s t'

/-- R176: a load whose lowest faulting active element is f > 0 performs the elements below f and sets `vl` and `vfault` to f; at element 0
it raises precisely, or with `.ff` sets both to 0 and performs nothing. R177: a store whose lowest faulting active element is f raises that
element's fault: a store of modes 0 to 2 has performed the elements below f and set `vstart` to f; an indexed store has performed none, and
leaves `vstart` at 0 and f in `vfault`. Every register and every other byte is as it was. The order of the checks follows log entries 14 and
15. -/
def Obligations.VectorAccessesStopAtAFault : Prop :=
  (∀ (s : State) (i : Instr) (p : Option MPfx) (t : ETy) (v : VSpec) (base : Reg) (bnd ff loc : Bool) (m : AddrMode) (at' : Nat → Nat → Loc)
    (f q : Nat) (x : Exc),
    i.wf = true → vloadForm i = some (p, t, v, base, bnd, ff, loc, m) →
    let k := maskOfM p; let w := ETy.bytes t; let planes := if bnd then s.planes else 0; let b := s.baseAddr p base loc
    VecAllowed s ⟨i, p.isSome, k.mask != 0, [w]⟩ → s.zeroRows m = false →
    TagsOk s (w :: s.indexWidths m) false (s.indexSource m ++ dSource k.merges v (ETy.fmt t)) (some v) 0 planes →
    Ready s (indexReads (trapIdx p) m ++ dReads k.merges v (trapData p)) → DestFree s v →
    SpotsAligned s m k b w planes bnd → SpotsAt s m k b w planes .load (fun e => e < f) at' →
    (∀ e, e < f → isActive s k e = true → ∀ pl, pl ≤ planes → badAt s.mem (at' e pl) = none) →
    f < s.vl → isActive s k f = true → q ≤ planes →
    (∀ pl, pl < q → ∃ l, Machine.locate s.part s.mem s.space (spotAddr s m b w f pl) w .load = .ok l) →
    Machine.locate s.part s.mem s.space (spotAddr s m b w f q) w .load = .error x → partialClass x.cls = true →
    (f = 0 → ff = false → exec i s = .next (s.except x)) ∧
    (f = 0 → ff = true → ∃ t', exec i s = .next t' ∧
      Finishes s { s with core := { s.core with vec := { s.core.vec with vl := 0, vfault := 0 } } } t' (mlen p)) ∧
    (0 < f → ∃ t', exec i s = .next t' ∧ t'.core.vec.vl = f ∧ t'.core.vec.vfault = word f ∧
      (∀ e, e < f → isActive s k e = true → ∀ pl, pl ≤ planes → (at' e pl).isFabric = false →
        partOf (t'.vreg v) (8 * w) pl e = readLoc s.mem (at' e pl) w % 2 ^ (8 * w)) ∧
      (∀ e, f ≤ e → ∀ pl, pl ≤ planes → partOf (t'.vreg v) (8 * w) pl e = keptElem s v false (8 * w) pl e) ∧
      (∀ r, r ≠ v → t'.vreg r = s.vreg r) ∧ SameMemory s t' ∧ InSequence s t' (mlen p))) ∧
  (∀ (s : State) (i : Instr) (p : Option MPfx) (t : ETy) (v : VSpec) (base : Reg) (bnd loc : Bool) (m : AddrMode) (at' : Nat → Nat → Loc)
    (f q : Nat) (x : Exc),
    MemoryOk s → i.wf = true → vstoreForm i = some (p, t, v, base, bnd, loc, m) →
    let k := maskOfM p; let w := ETy.bytes t; let planes := if bnd then (s.vreg v).width else 0; let b := s.baseAddr p base loc
    VecAllowed s ⟨i, p.isSome, k.mask != 0, [w]⟩ → s.zeroRows m = false →
    TagsOk s (w :: s.indexWidths m) false (s.indexSource m ++ dSource true v (ETy.fmt t)) none 0 0 →
    Ready s (indexReads (trapIdx p) m ++ dReads true v (trapData p)) →
    SpotsAligned s m k b w planes bnd → SpotsAt s m k b w planes .store (fun e => firstElem s m ≤ e ∧ e < f) at' →
    f < s.vl → isActive s k f = true → firstElem s m ≤ f → q ≤ planes →
    (∀ pl, pl < q → ∃ l, Machine.locate s.part s.mem s.space (spotAddr s m b w f pl) w .store = .ok l) →
    Machine.locate s.part s.mem s.space (spotAddr s m b w f q) w .store = .error x → partialClass x.cls = true →
    ∃ u : State, exec i s = .next (u.except x) ∧
      (if m.isIndexed then u = { s with core := { s.core with vec := { s.core.vec with vstart := 0, vfault := word f } } }
      else StoreFrame s u ∧ u.core.sc = s.core.sc ∧ u.core.via = s.core.via ∧ u.core.looped = s.core.looped ∧
        StoresBytes s u ((List.range f).filter (fun e => isActive s k e && decide (firstElem s m ≤ e)) |>.flatMap fun e =>
          (List.range (planes + 1)).map fun pl => (at' e pl, leBytes (if pl ≤ (s.vreg v).width then partOf (s.vreg v) (8 * w) pl e else 0) w)) ∧
        u.core.vec.vstart = word f))

/-- R179, R94, R95: `vld.q` decodes each element from the codes and the scale byte of its block; `vst.q` quantises each block from `vstart`
up, stores it whole, sets the flags of its elements and sets `vstart` to 0. A part of a block in a fabric window is asked for, or leaves, by
a packet (R349). An infinity sets overflow alone (log entry 17). -/
def Obligations.QuantisedAccesses : Prop :=
  ∀ (s : State) (p : Option MPfx) (v : VSpec) (base xs : Reg) (loc : Bool) (at' : Nat → Nat → Loc),
    let b := s.baseAddr p base loc; let blocks := (s.vl + 31) / 32
    b.toNat % 8 = 0 →
    (∀ ff : Bool, Instr.wf (.vldQ p v base ff xs loc) = true →
      VecAllowed s ⟨.vldQ p v base ff xs loc, p.isSome, false, [4]⟩ → TagsOk s [4] false [] (some v) 0 0 → DestFree s v →
      (∀ n, n < blocks → ∀ j, j < 4 → PartAt s b (s.x xs) .load n j (at' n j) ∧ badAt s.mem (at' n j) = none) →
      ∃ t, exec (.vldQ p v base ff xs loc) s = .next t ∧
        (∀ e, e < s.vl → (∀ j, j < 4 → (at' (e / 32) j).isFabric = false) → partOf (t.vreg v) 32 0 e =
          lnsDecode (readLoc s.mem (at' (e / 32) 3) 1) (codesAt s at' (e / 32) / 2 ^ (6 * (e % 32)) % 64) % 2 ^ 32) ∧
        (∀ e, s.vl ≤ e → partOf (t.vreg v) 32 0 e = partOf (s.vreg v) 32 0 e) ∧
        (∀ n, n < blocks → ∀ j, j < 4 → ∀ win va, at' n j = .fabric win va → ∃ r ∈ t.fab.reqs.drop s.fab.reqs.length,
          r.win = some win ∧ r.packet.kind = 0 ∧ ∃ ps, r.use = .quant v s.vl ps ∧ (n, j) ∈ ps) ∧
        ((t.vreg v).tag.full = true ↔ ∀ n, n < blocks → ∀ j, j < 4 → (at' n j).isSpad = true) ∧
        (t.vreg v).tag.fmt = .f32 ∧ (t.vreg v).tag.bundle = .w0 ∧ (∀ r, r ≠ v → t.vreg r = s.vreg r) ∧ t.st = s.st ∧ SameMemory s t ∧
        InSequence s t (mlen p) ∧ LoadFrame s t) ∧
    (∀ val : Bool, MemoryOk s → Instr.wf (.vstQ p v base val xs loc) = true →
      VecAllowed s ⟨.vstQ p v base val xs loc, p.isSome, false, [4]⟩ → s.core.vec.vstart.toNat % 32 = 0 →
      TagsOk s [4] false [⟨0, .vec v .f32⟩] none 0 0 → ((s.vreg v).width = 0 ∨ val = true) → Ready s [⟨v, trapData p, 3⟩] →
      let from' := s.core.vec.vstart.toNat / 32
      let q := fun n => lnsBlock (blockValues s (s.vreg v) n)
      let done := (List.range blocks).drop from'
      let fl := joinFlags (done.map fun n => (q n).2.2)
      (∀ n, from' ≤ n → n < blocks → ∀ j, j < 4 → PartAt s b (s.x xs) .store n j (at' n j)) → fl &&& s.fpEnables = 0 →
      ∃ t, exec (.vstQ p v base val xs loc) s = .next t ∧ StoresBytes s t (done.flatMap fun n => blockStores at' n (q n)) ∧
        (∀ n, from' ≤ n → n < blocks → ∀ j, j < 4 → ∀ win va, at' n j = .fabric win va → ∃ r ∈ t.fab.reqs.drop s.fab.reqs.length,
          r.win = some win ∧ r.packet.kind = 1) ∧
        t.core.vec.vstart = 0 ∧ t.st.fcsr = s.st.fcsr ||| (fl.setWidth 13 <<< 3) ∧ (∀ r, t.vreg r = s.vreg r) ∧ (∀ r, t.x r = s.x r) ∧
        InSequence s t (mlen p))

/-- R273, R275 to R278: `vsv` stores the header and the planes of each register of its range in its slot and changes no register; `vrs`
restores each register of its range from its slot: a void one as void, any other with the saved tag and planes. Past the last element of a
plane its slot holds the bits of the register (log entry 26). Lines in a fabric window leave, or are asked for, by packets (R349). -/
def Obligations.RegistersSaveAndRestore : Prop :=
  ∀ (s : State) (p : Option MPfx) (count : BitVec 4) (v : BitVec 6) (base : Reg) (slot : BitVec 7) (loc : Bool) (lines : List (Word × Loc)),
    let b := s.baseAddr p base loc; let rs := regRange v count
    b.toNat % 64 = 0 → v.toNat + count.toNat < s.nregs → v.toNat + count.toNat < 64 →
    (MemoryOk s → Instr.wf (.vsv p count v base slot loc) = true → VecAllowed s ⟨.vsv p count v base slot loc, p.isSome, false, []⟩ →
      Ready s (rs.map fun r => ⟨r, false, 0⟩) →
      let img := rs.map fun r => lines64 (s.slotImage (s.vreg r))
      s.checkLines .store (((List.range img.length).zip img).flatMap fun x =>
        (List.range x.2.length).map fun j => s.slotAddr b (slot.toNat + x.1) + word (64 * j)) = .ok lines →
      s.needLines lines = .ok () →
      ∃ t, exec (.vsv p count v base slot loc) s = .next t ∧ StoresBytes s t ((lines.zip img.flatten).map fun x => (x.1.2, x.2)) ∧
        (∀ x ∈ lines, ∀ win va, x.2 = .fabric win va → ∃ r ∈ t.fab.reqs.drop s.fab.reqs.length, r.win = some win ∧ r.packet.kind = 1) ∧
        (∀ r, t.vreg r = s.vreg r) ∧ (∀ r, t.x r = s.x r) ∧ t.core.vec = s.core.vec ∧ InSequence s t (mlen p) ∧ StoreFrame s t) ∧
    (∀ (heads : List (List Byte)) (tags : List Tag) (places : List (List (Word × Loc))) (bodies : List (List (Word × Loc) × List Byte × Option Exc)),
      Instr.wf (.vrs p count v base slot loc) = true → VecAllowed s ⟨.vrs p count v base slot loc, p.isSome, false, []⟩ →
      let addrs := (List.range rs.length).map fun j => s.slotAddr b (slot.toNat + j)
      s.checkLines .load addrs = .ok lines → s.needLines lines = .ok () → s.readHeads lines = .ok heads →
      heads.map (headerTag s.nregs s.planes s.mvl) = tags.map some →
      (tags.zip addrs).mapM (fun x => s.planesOf x.1 x.2) = .ok places → s.needLines places.flatten = .ok () →
      places.mapM (fun l => (s.readLines l).map fun r => (l, r.1, r.2)) = .ok bodies → (∀ r ∈ rs, DestFree s r) →
      ∃ t, exec (.vrs p count v base slot loc) s = .next t ∧
        (∀ j, j ≤ count.toNat →
          let r : VSpec := .v (BitVec.ofNat 6 (v.toNat + j)); let g := tags.getD j .void; let y := bodies.getD j ([], [], none)
          (g.fmt = .void → t.vreg r = .void) ∧
          (g.fmt ≠ .void → t.vreg r = restoredReg g s.mvl (y.1.any fun x => !x.2.isSpad) y.2.1) ∧
          (∀ m x, y.1[m]? = some x → ∀ win va, x.2 = .fabric win va →
            8 * (m % (s.planeBytes / 64)) < s.unitsUsed g.fmt → ∃ q ∈ t.fab.reqs.drop s.fab.reqs.length, q.win = some win ∧ q.packet.kind = 0 ∧
              ∃ es, q.use = .lanes r 64 (m / (s.planeBytes / 64)) es ∧ 8 * (m % (s.planeBytes / 64)) ∈ es)) ∧
        (∀ r, r ∉ rs → t.vreg r = s.vreg r) ∧ SameMemory s t ∧ InSequence s t (mlen p) ∧ LoadFrame s t)

/-! ### Atomics -/

/-- R255, R256: a scalar atomic on memory of this package stores Op of the old value and writes the old value to `x[d]`, widened by its
type; every other byte stays. R256, R357: a scalar atomic on a fabric window sends one packet with its operation, data, order and scope, and
`x[d]` waits for the reply. The data of a compare-and-swap packet follow log entry 31. -/
def Obligations.ScalarAtomics : Prop :=
  (∀ (s : State) (i : Instr) (op : AOp) (d a b : Reg) (t : AmoTy) (ord : AmoOrd) (sc : Scope) (l : Loc) (old : Nat),
    MemoryOk s → amoForm i = some (op, d, a, b, t, ord, sc) →
    let ty := AmoTy.ety t; let w := ETy.bytes ty; let va := s.x a
    let low := fun r => (s.x r).toNat % 2 ^ (8 * w)
    (AmoOrd.releases ord = true → NothingOwed s) → Reaches s va w .atomic l → l.isFabric = false →
    raceCheck s.part s.mem (s.agent true sc) true l w va = .ok () → badAt s.mem l = none → old < 2 ^ (8 * w) → Stored s l w old →
    ∃ u, exec i s = .next u ∧
      Stored u l w (intAtom op ty old (if op = .cas then low d else low b) (low b)) ∧ SameMemoryBut s u l w ∧
      (∀ r, u.x r = if r = d ∧ r ≠ 0 then widened (ETy.signed ty) w old else s.x r) ∧
      (∀ r : Reg, u.core.xpend.getLsbD r.toNat = (s.core.xpend.getLsbD r.toNat || (!l.isSpad && decide (r = d ∧ r ≠ 0)))) ∧
      InSequence s u 4 ∧
      AccessFrame s u { s.mem with hbm := u.mem.hbm, tables := u.mem.tables, cxl := u.mem.cxl, spad := u.mem.spad, marks := u.mem.marks,
                                   badHbm := u.mem.badHbm, badSpad := u.mem.badSpad, badCxl := u.mem.badCxl }) ∧
  (∀ (s : State) (i : Instr) (op : AOp) (d a b : Reg) (t : AmoTy) (ord : AmoOrd) (sc : Scope) (win va' : Nat) (tok : TokEntry),
    amoForm i = some (op, d, a, b, t, ord, sc) →
    let ty := AmoTy.ety t; let w := ETy.bytes ty; let va := s.x a
    let low := fun r => (s.x r).toNat % 2 ^ (8 * w)
    (AmoOrd.releases ord = true → NothingOwed s) → Reaches s va w .atomic (.fabric win va') → s.token win = some tok →
    ∃ u r, exec i s = .next u ∧ u.fab.reqs = s.fab.reqs ++ [r] ∧ r.packet.kind = 2 ∧ r.packet.op = AOp.code op ∧ r.packet.count = 1 ∧
      r.packet.opTy = AmoTy.vcode t ∧ r.packet.order = AmoOrd.order ord ∧ r.packet.scope = sc ∧
        r.packet.offset = va - (tok.lbase.setWidth 64 <<< 16) ∧
      r.packet.data = (if op = .cas then leBytes (low d) w ++ leBytes (low b) w else leBytes (low b) w) ∧
      r.use = .scalar d w (ETy.signed ty) ∧ (∀ q, u.x q = s.x q) ∧ (d ≠ 0 → u.core.xpend.getLsbD d.toNat = true) ∧
      SameMemory s u ∧ InSequence s u 4)

/-- R247, R250 to R253, R264: a vector atomic or a memory reduction none of whose active elements faults sends one element operation for
each active element to its chain, in element order, with the data of that element; `vamo` leaves its destination empty until the old values
have come, its inactive elements merged or zeroed; memory changes when the operations are performed, not before. A release waits as log
entry 32 says. -/
def Obligations.VectorAtomics : Prop :=
  ∀ (s : State) (i : Instr) (o : VAmo) (at' : Nat → Loc) (width : Nat),
    i.wf = true → vamoForm i = some o →
    let t := VAmoTy.ety o.t; let w := ETy.bytes t; let k := maskOfM o.p; let b := s.baseAddr o.p o.base o.loc
    VecAllowed s ⟨i, o.p.isSome, k.mask != 0, [w]⟩ → (o.op = .cas → o.d.toNat + 1 < s.nregs) →
    TagsOk s [w] true (s.indexSource (.indexed o.vi) ++ ⟨0, .vec (.v o.d) (ETy.fmt t)⟩ ::
      (if o.op = .cas then [⟨0, .vec (.v (o.d + 1)) (ETy.fmt t)⟩] else [])) none width width →
    Ready s (⟨.v o.vi, trapIdx o.p, 1⟩ :: ⟨.v o.d, trapData o.p, 3⟩ :: (if o.op = .cas then [⟨.v (o.d + 1), false, 3⟩] else [])) →
    (∀ e, e < s.vl → isActive s k e = true → let va := b + s.indexAt o.vi e
      va.toNat % w = 0 ∧ Machine.locate s.part s.mem s.space va w .atomic = .ok (at' e) ∧
      raceCheck s.part s.mem (s.agent true .sys) true (at' e) w va = .ok () ∧
      (∀ win x, at' e = .fabric win x → (s.token win).isSome = true)) →
    let es := (List.range s.vl).filter (isActive s k)
    ∃ u, exec i s = .next u ∧
      u.mem.ops = s.mem.ops ++ ((es.filter fun e => !(at' e).isFabric).map fun e => chainOp s o b w e (at' e)) ∧
      (∀ e ∈ es, ∀ win x, at' e = .fabric win x → ∃ r ∈ u.fab.reqs.drop s.fab.reqs.length, r.win = some win ∧ r.packet.kind = 2) ∧
      (o.ret = false → ∀ r, u.vreg r = s.vreg r) ∧
      (o.ret = true → (∀ r, r ≠ .v o.d → u.vreg r = s.vreg r) ∧
        (u.vreg (.v o.d)).tag = { Tag.of (ETy.fmt t) 0 with full := es.isEmpty } ∧
        (∀ e, e < s.vl → isActive s k e = false → partOf (u.vreg (.v o.d)) (8 * w) 0 e = keptElem s (.v o.d) k.zero (8 * w) 0 e) ∧
        (∀ e, s.vl ≤ e → partOf (u.vreg (.v o.d)) (8 * w) 0 e = partOf (s.vreg (.v o.d)) (8 * w) 0 e)) ∧
      (∀ r, u.x r = s.x r) ∧ SameMemory s u ∧ InSequence s u (mlen o.p)

/-- ATOMIC_APPLY, R247, R252, R256: the next operation of its chain is performed: the bytes at its place take Op of what they held, the
element that its instruction names takes the old value, and the operation has left the chain. -/
def Obligations.AtomicOperationsArePerformed : Prop :=
  ∀ (s : State) (n : Nat) (o : AtomOp) (old : Nat),
    MemoryOk s → s.choice = .index n → s.mem.ops[n]? = some o → (∀ q ∈ s.mem.ops.take n, overlaps q.loc q.size o.loc o.size = false) →
    o.loc.isFabric = false → badAt s.mem o.loc = none → old < 2 ^ (8 * o.size) → Stored s o.loc o.size old →
    ∃ t, exec .atomicApply s = .next t ∧ t.mem.ops = s.mem.ops.eraseIdx n ∧
      Stored t o.loc o.size (atomApply (AOp.ofCode o.op) (amoEty o.ty) old o.data o.new) ∧ SameMemoryBut s t o.loc o.size ∧
      (∀ d e, o.dest = some (d, e) → o.core = s.core.id → 0 < o.size → partOf (t.vreg d) (8 * o.size) 0 e = old) ∧
      (∀ r, (∀ e, o.dest ≠ some (r, e)) → t.vreg r = s.vreg r) ∧ t.core.sc = s.core.sc ∧ t.core.sup = s.core.sup

namespace Sys2Proof.Claims

open Machine

/-! ### Steps and exceptions -/

/-- The turn of the active core: its own on the agenda, or the alternation of an empty one (log entry 2). -/
abbrev CoreMoves (s : State) : Prop := (s.agenda = [] ∧ s.tick % 2 = 0) ∨ s.agenda.head? = some (.core s.core.id)

/-- The state once the step has begun: time has moved on (log entry 2, R367). -/
def begun (s : State) : State :=
  { s with agenda := s.agenda.tail, tick := s.tick + 1, ftime := s.ftime + Config.elapsed s.tick }

/-- The state in which the instruction at the PC issues: the translation of the PC is cached (R167), and what it stores the program of this core
stores (log entry 109). -/
def Issuing (s b : State) : Prop :=
  b = { begun s with core := { s.core with
    tlb := b.core.tlb, atTrap := s.core.atTrap && s.core.sup.mode == .supervisor, looped := false }, mem := { s.mem with writer := some s.core.id } }

/-- The cause register of an exception: active in bit 63, the class in bits 15 to 8, the detail below (R283, R286). -/
def causeWord (e : Exc) : Word := 0x8000000000000000 ||| (e.cls.setWidth 64 <<< 8) ||| e.detail.setWidth 64

/-- The conditions of R283 for delivery to the thread's own handler. Classes 0x14, 0x16 and 0x18, data errors of detail 0x10 (R289) and
exceptions of the innkeeper itself go to no thread. -/
abbrev HasHandler (s : State) (e : Exc) : Prop :=
  s.core.sup.mode = .user ∧ e.cls ≠ 0x14 ∧ e.cls ≠ 0x16 ∧ e.cls ≠ 0x18 ∧ ¬ (e.cls = 0x11 ∧ e.detail = 0x10) ∧
    s.st.udeleg.getLsbD e.cls.toNat = true ∧ s.st.ucause.getLsbD 63 = false ∧ s.st.uvec ≠ 0

/-- The memories are in canonical form, and each loop stack holds at most its six entries (R27). -/
abbrev MachineInv (s : State) : Prop := MemoryOk s ∧ ∀ c ∈ s.cores, c.sc.loops.length ≤ 6

/-- The state right after reset in the terms of the rules (R28, R44, R45, R56, R57, R190, R284, R286, R305, R367). -/
def resetRegs : List (Nat × Word) :=
  [(0x001, 0), (0x002, 0), (0x010, 0), (0x011, 8), (0x012, 12288), (0x013, 0), (0x014, 0), (0x015, 0), (0x016, 2), (0x017, 0), (0x020, 0), (0x021, 0),
   (0x022, 0), (0x023, 0), (0x024, 0), (0x025, 0), (0x026, 0x3F800000), (0x030, 0), (0x031, 0x6060), (0x041, 0), (0x042, 0), (0x043, 0), (0x044, 0),
   (0x045, 0), (0x046, 0), (0x051, 0), (0x060, 0), (0x061, 0xFFFFFFFF), (0x100, 0), (0x101, 0), (0x102, 0), (0x103, 0), (0x104, 0), (0x110, 0), (0x120, 0x400000), (0x121, 0x10000),
   (0x130, 0), (0x131, 0), (0x132, 0)]

/-- Words of the specification's own examples (04_words R62 to R74 and the sections of the families), with what they stand for there: first word,
second word, instruction. -/
def knownWords : List (Word32 × Word32 × Instr) :=
  [ (0x18CE5501, 0x0, .ldI64 7 5 .die .acq 1),
    (0x090E8480, 0x0, .mulhN 7 8 9),
    (0x17392345, 0x0, .lui 7 0x12345),
    (0x230C0003, 0x0, .bpT 3 3),
    (0x28100040, 0x0, .jal 1 0x40),
    (0x39120000, 0x0, .ppack 9),
    (0x1A926001, 0x0, .st32 9 6 .core .wk 1),
    (0x30061104, 0x0, .fadd 3 1 2 .dyn),
    (0x33841101, 0x0, .fcmp 2 1 2 .lt),
    (0xFAC00000, 0x40014184, .vfadd (some ⟨2, true, true, false, false, none, 0⟩) (.v 5) (.v 3) (.vv (.v 4))),
    (0xF8088000, 0x40014184, .vfadd (some ⟨0, false, false, false, false, some .f16, 0⟩) (.v 5) (.v 3) (.vv (.v 4))),
    (0xF8002164, 0x44408380, .vfmul (some ⟨0, false, false, false, false, none, 0x2164⟩) (.v 2) (.v 7) (.vi 0)),
    (0x5140C101, 0x0, .vfround none (.v 3) (.v 2) .rtz),
    (0x60048083, 0x0, .vfcmp none .lt 2 (.v 1) (.vv (.v 3))),
    (0x7400C103, 0x0, .vsumO none (.v 3) (.v 2) (some 3)),
    (0x7C414101, 0x0, .dget none (.v 5) (.v 2) (.vi 1)),
    (0x81108658, 0x0, .vldS none .f16 (.v 4) 6 false true 12 false),
    (0x8C304892, 0x0, .vstQ none (.v 2) 8 true 9 false),
    (0x90021274, 0x0, .vamoAdd none 4 9 7 .n32 false),
    (0x98029269, 0x0, .mredAdd none 5 9 6 .f32 true),
    (0xA081C061, 0x0, .mxStep 0 14 0 24 .f16),
    (0x8DB28320, 0x0, .vsv none 11 20 3 16 false),
    (0xC0253800, 0x0, .itBind 5 7),
    (0xD0205342, 0x0, .mcLdr 1 9 20 .add .bf16),
    (0xC819AE80, 0x0, .clProp 25 21 26 0),
    (0xE0220400, 0x0, .setshape 8 2),
    (0xD88C4800, 0x0, .optRout 12 9) ]

end Sys2Proof.Claims

/-! ### The machine as a whole -/

/-- R38, R58, R158, R231, R233, R288, R306 to R308: a step of a running core with no pre-emption request to deliver fetches the words at the
PC, decodes them, staggers the instruction where a frame captures it, and runs it; an instruction that left the PC without an exception is
counted in `qcount` in user mode, its frame goes on, and its quantum may end. A fetch that fails raises instruction fetch fault, an
instruction that names a register whose value has not returned waits, and so does one whose words have yet to come by the fabric (log entry
99), and one that makes accesses behind an acquire of the thread that is still on its way to a fabric window. One that reads a value which
failed raises that failure unless a check at issue comes first (log entry 87). That the agenda of the state says what moves next is the
model's choice (log entry 2); counting follows log entry 62 and frames log entry 79. -/
def Obligations.AStepRunsTheDecodedInstruction : Prop :=
  ∀ (s : State), CoreMoves s → s.core.run = .running →
    (∀ t, (begun s).landed = some t → step s = .next t) ∧
    ((begun s).landed = none → (∀ va, s.farFetch = some va → step s = .next ((begun s).askWord va)) ∧
    (s.farFetch = none →
    (∀ e, s.fetchWord s.pc = .error e → step s = .next ((begun s).except e)) ∧
    (∀ w n i, s.fetchWord s.pc = .ok w → (needsSecond w = true → s.fetchWord (s.pc + 4) = .ok n) →
      decode w (if needsSecond w = true then n else 0) = .ok i →
      (s.inFrame = false → s.atPc = .ok i) ∧
      (s.inFrame = true → ∀ e rest fi l, s.loops = e :: rest → s.frameOf e = .ok (fi, l) →
        s.atPc = .ok (staggered fi (e.index.toNat - fi.stages.getD (indexAt s.pc l) 0) i))) ∧
    (∀ i, s.atPc = .ok i →
      ((s.xWaits i = true ∨ (s.acquiring = true ∧ Machine.Instr.ordered i = true)) → step s = .next ((begun s).setRun .waiting)) ∧
      (s.xWaits i = false → (s.acquiring = true → Machine.Instr.ordered i = false) → s.xFails i = none → ∃ b, Issuing s b ∧ ∀ t, exec i b = .next t →
        (t.issued = false → step s = .next t) ∧
        (t.issued = true → State.trapped s.core.sup.mode t = true → step s = .next (t.quantum.useFar s.core.me)) ∧
        (t.issued = true → State.trapped s.core.sup.mode t = false →
          let u := if s.core.sup.mode = .user then t.countIssue else t
          step s = .next ((if s.inFrame = true then u.settle else u).quantum.useFar s.core.me))) ∧
      (s.xWaits i = false → (s.acquiring = true → Machine.Instr.ordered i = false) → ∀ e, s.xFails i = some e → ∃ b, Issuing s b ∧
        ∀ t, exec i (b.clearReads i) = .next t →
        (∀ x : Exc, x.atIssue i = true → t ≠ (b.clearReads i).except x) → step s = .next ((b.except e).useFar s.core.me)))))

/-- R60 to R74: words written out bit by bit from the encoding tables decode to the instructions that they stand for. -/
def Obligations.KnownWordsDecode : Prop := ∀ x ∈ knownWords, decode x.1 x.2.1 = .ok x.2.2

/-- R58 to R74: every well-formed instruction of one word is read back from its encoding with every operand, whatever word follows. R58 to
R74, R156: every well-formed instruction of two words is read back from its encoding with every operand and every field of its prefix. -/
def Obligations.EncodedInstructionsDecode : Prop :=
  (∀ (i : Instr) (w n : Word32), i.wf = true → encode i = [w] → decode w n = .ok i) ∧
  (∀ (i : Instr) (p w : Word32), i.wf = true → encode i = [p, w] → decode p w = .ok i ∧ needsSecond p = true)

/-- R283 to R286: where an exception goes. A thread with a handler takes it there, with `uepc`, `ucause`, `uaddr` and `uvia` written;
otherwise the innkeeper takes it in supervisor mode at `svec`, with `sepc`, `scause`, `saddr` and `svia` written; one of the innkeeper's own
while `scause` is active stops the core. Nothing else changes. That an exception in supervisor mode never goes to the thread's handler is a
reading (log entry 28). -/
def Obligations.ExceptionsAreDelivered : Prop :=
  ∀ (s : State) (e : Exc),
    (HasHandler s e → s.except e = { s with core := { s.core with
      run := .running, via := 0, atTrap := true,
      sc := { s.core.sc with pc := s.st.uvec, st := { s.core.sc.st with uepc := s.pc, ucause := causeWord e, uaddr := e.addr, uvia := e.via } } } }) ∧
    (¬ HasHandler s e → s.core.sup.mode = .user → s.except e = { s with core := { s.core with
      run := .running, via := 0, atTrap := true, sc := { s.core.sc with pc := s.core.sup.svec },
      sup := { s.core.sup with mode := .supervisor, sepc := s.pc, scause := causeWord e ||| 0x4000000000000000, saddr := e.addr, svia := e.via } } }) ∧
    (s.core.sup.mode = .supervisor → s.core.sup.scause.getLsbD 63 = false → s.except e = { s with core := { s.core with
      run := .running, via := 0, atTrap := true, sc := { s.core.sc with pc := s.core.sup.svec },
      sup := { s.core.sup with sepc := s.pc, scause := causeWord e, saddr := e.addr, svia := e.via } } }) ∧
    (s.core.sup.mode = .supervisor → s.core.sup.scause.getLsbD 63 = true → s.except e = { s with core := { s.core with run := .stopped } })

/-- R56, R190, R400: what reset leaves: the state registers at the values of their tables, each STEP of an optimiser context 0, the boot
status and the count of results 0. That the pool, the queues, the tokens and the grants are empty, every register void, the first handle 1
and memory in canonical form is the model's (log entries 1, 3). -/
def Obligations.ResetLeavesTheStatedValues : Prop :=
  (∀ x ∈ resetRegs, State.reset.readReg x.1 = some x.2) ∧ MachineInv State.reset ∧ State.reset.loops = [] ∧
    (∀ r, (State.reset.vreg r).tag = .void) ∧ (∀ r, (State.reset.f r).tag = .void) ∧
    State.reset.sched.nodes = [] ∧ State.reset.sched.nextHandle = 1 ∧ State.reset.outstanding = [] ∧ State.reset.fab.tokens = [] ∧
    State.reset.grants = [] ∧ (∀ d c, State.reset.stepOf d c = 0) ∧ State.reset.host.bootst = 0 ∧ State.reset.host.srhead = 0

/-- R27: every step keeps the invariant of the machine: the memories of the package in canonical form, and no loop stack of more than six
entries, whatever instruction or event it runs. The canonical form of memory is the model's (log entry 3). -/
def Obligations.StepsKeepTheInvariant : Prop := ∀ s t, MachineInv s → step s = .next t → MachineInv t

/-- Every instruction and every event answers a next state: the model refuses none and none stops it. This is a property of the model, not a
rule: it says that the coverage is whole. -/
def Obligations.EveryInstructionAnswers : Prop := ∀ (i : Instr) (s : State), Completes (exec i s)

/-- R286, R296, R299, R311: an instruction in user mode changes no supervisor register, except that an exception writes `sepc`, `scause`,
`saddr` and `svia` as it enters supervisor mode. It rests on the reading of log entry 28. -/
def Obligations.UserInstructionsKeepSupervisorState : Prop :=
  ∀ (i : Instr) (s t : State), i.isEvent = false → s.core.sup.mode = .user → exec i s = .next t →
    t.core.sup = s.core.sup ∨
    (t.core.sup.mode = .supervisor ∧ t.core.sup.scause.getLsbD 63 = true ∧ t.core.sup.scause.getLsbD 62 = true ∧ t.pc = s.core.sup.svec ∧
      t.core.sup = { s.core.sup with mode := .supervisor, sepc := t.core.sup.sepc, scause := t.core.sup.scause, saddr := t.core.sup.saddr,
                                     svia := t.core.sup.svia })

namespace Sys2Proof.Claims

open Machine

/-! ### Configuration and state registers -/

/-- The thread may use the vector state of the core (R311). -/
abbrev MayUseVec (s : State) : Prop := s.core.sup.mode = .user → s.core.sup.vown = s.core.me.image

/-- MVL for elements of `w` bytes (R43, R44): G × EG × 4 / w with G = 1024 / (N × (1 + k)). -/
def mvlFor (s : State) (w : Nat) : Nat := 1024 / (s.nregs * (1 + s.planes)) * s.part.eg * 4 / w

/-- What a register of R56, R57, R284, R286, R305 or R350 that programs may write reads as after a write of `v` over `old`. -/
def readBack (old v : Word) : Nat → Option Word
  | 0x013 => some v
  | 0x014 => some v
  | 0x015 => some (v &&& 0xFFFFFFFF)
  | 0x016 => some (if 8 < (v &&& 0xF).toNat then 8 else v &&& 0xF)
  | 0x017 => some (v &&& 0xF)
  | 0x020 => some (if v.getLsbD 2 then (v &&& 0x1FF8) ||| (old &&& 7) else v &&& 0x1FFF)
  | 0x021 => some v
  | 0x022 => some (v &&& 0xFFFF)
  | 0x023 => some (v &&& 0xF)
  | 0x024 => some v
  | 0x025 => some v
  | 0x026 => some (v &&& 0xFFFFFFFF)
  | 0x040 => some v
  | 0x041 => some (v &&& 0xFFFFFFFFFFFFC)
  | 0x042 => some v
  | 0x043 => some (v &&& 0x800000000000FFFF)
  | 0x044 => some v
  | 0x045 => some v
  | 0x046 => some (v &&& 0xAFFFFE)
  | 0x100 => some (v &&& 0xFFFFFFFFFFFFC)
  | 0x101 => some v
  | 0x102 => some (v &&& 0xC00000000000FFFF)
  | 0x103 => some v
  | 0x104 => some v
  | 0x110 => some (v &&& 0xFFFFFFFFFF000)
  | 0x120 => some (if v = 0 then 1 else if 2 ^ 48 < v.toNat then 0x1000000000000 else v)
  | 0x121 => some (if v = 0 then 1 else if 2 ^ 48 < v.toNat then 0x1000000000000 else v)
  | 0x122 => some (v &&& 0xFFFFFFFFFFFFF000)
  | 0x130 => some (v &&& 0xFFFFFFFFFFFF0)
  | 0x131 => some (v &&& 0xFFFFFFFFFFFF0)
  | 0x132 => some (if 0x10000 < v.toNat then 0x10000 else v)
  | n => if 0x70 ≤ n ∧ n < 0x80 then some v else none

/-- The destination value of each instruction that writes a state register (R296). -/
def regWrite (s : State) : Instr → Option (BitVec 12 × (Word → Word))
  | .stwrite a n => some (n, fun _ => s.x a)
  | .stset a n => some (n, fun old => old ||| s.x a)
  | .stclr a n => some (n, fun old => old &&& ~~~(s.x a))
  | _ => none

/-- The access to register `n` is allowed: not a supervisor register in user mode, and the vector state is the thread's own where the
register is part of it (R56, R296, R310, R311). -/
abbrev RegAllowed (s : State) (n : Nat) : Prop :=
  (s.core.sup.mode = .user → n < 0x100) ∧ (vectorReg n = true → MayUseVec s)

/-- `i` reads or writes the state register `n` (R296). -/
def AccessesReg (s : State) (i : Instr) (n : BitVec 12) : Prop := (∃ f, regWrite s i = some (n, f)) ∨ ∃ d, i = .stread d n

/-- Window length `w` is one that the group of slot `g` takes (R383). -/
def WindowTaken (s : State) (g : Nat) (w : Word) : Prop := ∃ x, s.slotGroup g = some x ∧ x.minW ≤ w.toNat ∧ w.toNat ≤ 1048575

/-- `s` with the vector registers, masks and free-value counter of `t`, of the shape `n`, `k` and with `vl` 0. -/
def reshaped (s t : State) (n k : Nat) : State :=
  let v := t.core.vec
  { s with
    free := t.free
    core := { s.core with vec := { s.core.vec with v := v.v, o := v.o, l0 := v.l0, l1 := v.l1, k := v.k, shapeN := n, shapeK := k, vl := 0 } } }

/-! ### Barrier objects -/

/-- An object at `va`: in a scratchpad window, aligned, permitted, at byte `k` of the scratchpads; its access at scope `sc` races with nothing
and its word holds no error (R259). -/
abbrev ObjectAt (s : State) (va : Word) (k : Nat) (w : Bool) (sc : Scope) : Prop :=
  (bits va 48 16 = 0xE ∨ bits va 48 16 = 0xF) ∧ va.toNat % 8 = 0 ∧
    Machine.locate s.part s.mem s.space va 8 (if w = true then .store else .load) = .ok (.spad k) ∧
    raceCheck s.part s.mem (s.agent true sc) w (.spad k) 8 va = .ok () ∧ badAt s.mem (.spad k) = none

/-- The word of an object. -/
def objectWord (s : State) (k : Nat) : Word := BitVec.ofNat 64 (s.mem.spad.read k 8)

/-- The word after one arrival (R257, R261): pending falls by 1; when that is 0 the phase rises, the phase bit turns and pending is expected. -/
def arrived (w : Word) : Word :=
  let pending := bits w 16 16 - 1
  if pending = 0 then bits w 48 16 ++ bits w 32 16 ++ bits w 32 16 ++ (bits w 1 15 + 1) ++ ~~~(bits w 0 1)
  else bits w 48 16 ++ bits w 32 16 ++ pending ++ bits w 0 16

/-- What a synchronising instruction changes beside its result: the books of the memory model (R231, R235, R240, R243, R264). -/
def SyncFrame (u t : State) : Prop :=
  t = State.follow { u with
    core := { u.core with region := t.core.region, seen := t.core.seen, fenced := t.core.fenced, tlb := t.core.tlb },
    mem := { u.mem with summaries := t.mem.summaries, notes := t.mem.notes, openRegions := t.mem.openRegions, nextRegion := t.mem.nextRegion, pubs := t.mem.pubs,
                        arrivals := t.mem.arrivals } } t

/-- The thread sleeps at its instruction; the device has noted the read that it made (R30, R236). -/
def SleepsAfterRead (s t : State) : Prop :=
  t = { s with core := { s.core with run := .asleep }, mem := { s.mem with summaries := t.mem.summaries, notes := t.mem.notes } }

/-- The scratchpads of `t`, and what is kept about their words, in `s`. -/
def withSpad (s t : State) : State := { s with mem := { s.mem with spad := t.mem.spad, marks := t.mem.marks, badSpad := t.mem.badSpad } }

end Sys2Proof.Claims

/-! ### Configuration, state registers and system -/

/-- R161, R45, R274: `setvl` sets `vl` to the smaller of x[a] and MVL and writes it to `x[d]`; `setshape` waits for fills, then makes every
register void, masks zero and `vl` 0, and sets the shape; `vframe` moves `vsp` by whole slots and raises stack limit outside its bounds. -/
def Obligations.VectorConfiguration : Prop :=
  ∀ (s : State), MayUseVec s →
    (∀ (d a : Reg) (w : SetvlW), let n := min (s.x a).toNat (mvlFor s (SetvlW.bytes w))
      ∃ t, exec (.setvl d a w) s = .next t ∧
        Finishes s (({ s with core := { s.core with vec := { s.core.vec with vl := n } } } : State).setX d (BitVec.ofNat 64 n)) t 4) ∧
    (∀ (n : BitVec 7) (k : BitVec 5), Instr.wf (.setshape n k) = true → s.filling = true → exec (.setshape n k) s = .next (s.setRun .waiting)) ∧
    (∀ (n : BitVec 7) (k : BitVec 5), Instr.wf (.setshape n k) = true → s.filling = false → ∃ t, exec (.setshape n k) s = .next t ∧
      (∀ r, (t.vreg r).tag = .void ∧ (t.vreg r).failed = none) ∧ (∀ r : BitVec 3, t.core.vec.k.get r.toFin = 0) ∧
      t.core.vec.vl = 0 ∧ t.nregs = n.toNat ∧ t.planes = k.toNat ∧
      Finishes s (reshaped s t n.toNat k.toNat) t 4) ∧
    (∀ n : BitVec 13,
      let S : Nat := 64 + (1 + s.planes) * (1024 / (s.nregs * (1 + s.planes))) * s.part.eg * 4
      let new : Int := (s.x 3).toNat - n.toInt * S
      (new < s.st.stklim.toNat → exec (.vframe n) s = .next (s.except ⟨0x0C, 0x03, BitVec.ofInt 64 new, 0⟩)) ∧
      (s.st.stklim.toNat ≤ new → (new < s.core.me.stackLo.toNat ∨ (s.core.me.stackHi.toNat : Int) < new) →
        exec (.vframe n) s = .next (s.except ⟨0x0C, 0x04, BitVec.ofInt 64 new, 0⟩)) ∧
      (s.st.stklim.toNat ≤ new → s.core.me.stackLo.toNat ≤ new → new ≤ s.core.me.stackHi.toNat →
        ∃ t, exec (.vframe n) s = .next t ∧ Finishes s (s.setX 3 (BitVec.ofInt 64 new)) t 4))

/-- R296, R3, R56, R57: `stread` writes the register to `x[d]`; `stwrite`, `stset` and `stclr` leave the register with what its fields hold
of the value, and every other register as it was. Illegal instruction are: a supervisor number in user mode, with detail 0x07; an unassigned
number, with 0x06; a window length that the group of its slot refuses (R383), with 0x06; and a write of a read-only register, with 0x08.
Clamped values and the order of the checks follow log entry 63. -/
def Obligations.StateRegisters : Prop :=
  ∀ (s : State) (n : BitVec 12),
    (RegAllowed s n.toNat →
      (∀ (d : Reg) (w : Word), s.readReg n.toNat = some w → ∃ t, exec (.stread d n) s = .next t ∧ Finishes s (s.setX d w) t 4) ∧
      (∀ (i : Instr) (f : Word → Word) (old new : Word), regWrite s i = some (n, f) → s.readReg n.toNat = some old →
        readBack old (f old) n.toNat = some new → (0x70 ≤ n.toNat ∧ n.toNat < 0x80 → WindowTaken s (n.toNat - 0x70) (f old)) →
        ∃ t, exec i s = .next t ∧ t.readReg n.toNat = some new ∧ (∀ m, m < 4096 → m ≠ n.toNat → t.readReg m = s.readReg m) ∧
          Finishes s { s with
            core := { s.core with
              sc := { s.core.sc with st := t.core.sc.st },
              vec := { s.core.vec with vstart := t.core.vec.vstart, vfault := t.core.vec.vfault },
              sup := { t.core.sup with mode := s.core.sup.mode, vown := s.core.sup.vown } },
            fab := { s.fab with sgtab := t.fab.sgtab, swtab := t.fab.swtab, swcnt := t.fab.swcnt } } t 4)) ∧
    (∀ i, AccessesReg s i n → s.core.sup.mode = .user → 0x100 ≤ n.toNat →
      ∃ e : Exc, e.cls = 0x01 ∧ e.detail = 0x07 ∧ exec i s = .next (s.except e)) ∧
    ((s.core.sup.mode = .user → n.toNat < 0x100) →
      (∀ i, AccessesReg s i n → s.readReg n.toNat = none → ∃ e : Exc, e.cls = 0x01 ∧ e.detail = 0x06 ∧ exec i s = .next (s.except e)) ∧
      (∀ i f old, regWrite s i = some (n, f) → s.readReg n.toNat = some old → 0x70 ≤ n.toNat → n.toNat < 0x80 →
        ¬ WindowTaken s (n.toNat - 0x70) (f old) → ∃ e : Exc, e.cls = 0x01 ∧ e.detail = 0x06 ∧ exec i s = .next (s.except e)) ∧
      (∀ i f, regWrite s i = some (n, f) → readOnly n.toNat = true →
        ∃ e : Exc, e.cls = 0x01 ∧ e.detail = 0x08 ∧ exec i s = .next (s.except e)))

/-- R297 to R300, R58, R75, R151, R284, R286, R302, R306, R309: `inncall` completes and raises with the PC after it saved; `dbgtrap` raises
with its own; `eret` returns from the thread's handler or, in supervisor mode, to the thread; `tlb.inv` drops translations and has walks
read tables anew; `halt` leaves the thread to retire, or raises vector-unit owned when its matrix commands stand elsewhere; words that are
no instruction raise illegal instruction; speculation leaves no state of its own. What `eret` from the innkeeper does beside its return, and
how words are judged, follow log entries 64 and 66; that the bits [1:0] of a saved PC are dropped log entry 127; that after a pre-emption an
`eret` with `sctx` = 0 frees the core log entry 126; which table writes a `tlb.inv` shows log entry 109; the vector-unit owned of `halt` log
entry 103; and that a resolved branch changes nothing log entry 84. -/
def Obligations.SystemInstructions : Prop :=
  ∀ (s : State),
    (∀ n : BitVec 8, ∃ c, Finishes s s c 4 ∧
      exec (.inncall n) s = .next (State.deliver (if s.core.sup.mode = .user then c.countIssue.quantum else c) ⟨0x13, n, 0, 0⟩ (s.pc + 4))) ∧
    (∀ n : BitVec 8, exec (.dbgtrap n) s = .next (s.except ⟨0x12, n, 0, 0⟩)) ∧
    (s.core.sup.mode = .user → s.st.ucause.getLsbD 63 = true → exec .eret s = .next { s with core := { s.core with
      via := 0, sc := { s.core.sc with pc := s.st.uepc &&& 0xFFFFFFFFFFFFFFFC, st := { s.core.sc.st with ucause := s.st.ucause &&& 0x7FFFFFFFFFFFFFFF } } } }) ∧
    (s.core.sup.mode = .user → s.st.ucause.getLsbD 63 = false →
      ∃ e : Exc, e.cls = 0x01 ∧ e.detail = 0x06 ∧ exec .eret s = .next (s.except e)) ∧
    (s.core.sup.mode = .supervisor → bits s.core.sup.scause 8 8 ≠ 0x14 → bits s.core.sup.scause 8 8 ≠ 0x09 →
      ((s.core.sup.sctx = 0 ∧ bits s.core.sup.scause 8 8 ≠ 0x18) ∨ (s.core.sup.sctx ≠ 0 ∧ s.core.sup.sctx = s.core.me.image)) →
      exec .eret s = .next { s with core := { s.core with
        via := 0, slept := false, sc := { s.core.sc with pc := s.core.sup.sepc &&& 0xFFFFFFFFFFFFFFFC },
        sup := { s.core.sup with mode := .user, scause := s.core.sup.scause &&& 0x7FFFFFFFFFFFFFFF } } }) ∧
    (s.core.sup.mode = .supervisor → bits s.core.sup.scause 8 8 = 0x18 → bits s.core.sup.scause 62 2 = 3 → s.core.sup.sctx = 0 →
      ∃ t, exec .eret s = .next t ∧ t.core.run = .idle ∧ t.core.sup.mode = .user ∧ ∃ x ∈ t.sched.swapped, x.me = s.core.me ∧ x.asleep = s.core.slept ∧
        x.region = s.core.region ∧ x.seen = s.core.seen) ∧
    (∀ a kind, s.core.sup.mode = .user → ∃ e : Exc, e.cls = 0x01 ∧ e.detail = 0x07 ∧ exec (.tlbInv a kind) s = .next (s.except e)) ∧
    (∀ a kind, s.core.sup.mode = .supervisor → ∃ t, exec (.tlbInv a kind) s = .next t ∧
      (∀ e ∈ t.core.tlb, e ∈ s.core.tlb ∧ kind ≠ .all ∧ (s.x a).toNat / 2 ^ e.shift ≠ e.va / 2 ^ e.shift) ∧
      (kind ≠ .page → ∀ c ∈ t.parked, ∀ e ∈ c.tlb, kind ≠ .all ∧ (s.x a).toNat / 2 ^ e.shift ≠ e.va / 2 ^ e.shift) ∧
      Finishes s { s with core := { s.core with tlb := t.core.tlb }, parked := t.parked, mem := { s.mem with tables := t.mem.tables } } t 4 ∧
      (∀ x ∈ t.mem.tables, x ∈ s.mem.tables ∧ ∃ c, x.writer = some c ∧ c ≠ s.core.id) ∧
      (∀ l x r, s.mem.tables = l ++ x :: r → (∀ y ∈ x :: r, y.word = x.word → ∃ c, y.writer = some c ∧ c ≠ s.core.id) → x ∈ t.mem.tables) ∧
      t.parked.map (fun c => { c with tlb := [] }) = s.parked.map (fun c => { c with tlb := [] })) ∧
    (NothingOwed s → s.core.sup.vown = s.core.me.image → s.core.vec.mx.fault = none → exec .halt s = .next (s.mxResume.setRun .halting)) ∧
    (s.core.sup.vown ≠ s.core.me.image →
      (s.core.sup.mode = .user → s.savedWork = true → exec .halt s = .next (s.except ⟨0x14, 0, 0, 0⟩)) ∧
      (NothingOwed s → (s.core.sup.mode = .user → s.savedWork = false) → exec .halt s = .next (s.setRun .halting))) ∧
    exec .speculationResolve s = .next s ∧
    (∀ w d, s.fetchWord s.pc = .ok w → needsSecond w = false → decode w 0 = .illegal d [] →
      ¬ (major w = 0x14 ∧ s.part.hasMx = false) → ¬ (major w = 0x1A ∧ s.part.hasFab = false) →
      exec .illegalInstruction s = .next (s.except ⟨0x01, d, w.setWidth 64, 0⟩))

/-! ### Loops -/

/-- R152 to R155: `loop` pushes an entry for the next n words, or goes past them when the count is 0, or raises stack limit on a full stack;
`brkl` pops the innermost entry and goes on behind its body, or completes in sequence at its end; `lidx` reads an index. -/
def Obligations.LoopInstructions : Prop :=
  ∀ (s : State),
    (∀ (c : Reg) (n : BitVec 16),
      let next : Word := s.pc + 4
      Instr.wf (.loop c n) = true →
      (s.x c = 0 → s.loops.length < 6 → exec (.loop c n) s = .next { s with core := { s.core with via := 0, sc := { s.core.sc with
        pc := BitVec.ofNat 64 (s.pc.toNat + 4 + 4 * n.toNat) } } }) ∧
      (s.x c ≠ 0 → s.loops.length < 6 → exec (.loop c n) s = .next { s with core := { s.core with via := 0, sc := { s.core.sc with
        pc := next, loops := ⟨.loop, next, BitVec.ofNat 64 (s.pc.toNat + 4 * n.toNat), s.x c, 0⟩ :: s.loops } } }) ∧
      (s.x c ≠ 0 → 6 ≤ s.loops.length → exec (.loop c n) s = .next (s.except ⟨0x0C, 0x01, 0, 0⟩))) ∧
    (s.loops = [] → exec .brkl s = .next (s.except ⟨0x0C, 0x02, 0, 0⟩)) ∧
    (∀ e rest, s.loops = e :: rest →
      let u : State := { s with core := { s.core with sc := { s.core.sc with loops := rest } } }
      (e.last ≠ s.pc → exec .brkl s = .next { u with core := { u.core with via := s.pc, sc := { u.core.sc with pc := e.last + 4 } } }) ∧
      (e.last = s.pc → ∃ t, exec .brkl s = .next t ∧ Finishes u u t 4)) ∧
    (∀ (d : Reg) (level : BitVec 3), Instr.wf (.lidx d level) = true → ∃ t, exec (.lidx d level) s = .next t ∧
      WritesX s t d (((s.loops[level.toNat]?).map (·.index)).getD (BitVec.allOnes 64)) 4)

/-- R157, R159: a `repf` whose captured instructions pass its checks raises stack limit on a full stack, is skipped with its captured range
when the count is 0, and else pushes the frame, whose first captured instruction that runs is next. Frames follow log entry 79, and one of
count 0 log entry 114. A `loop` of count 0 goes past its body on a full stack too, which is the model's choice (log entry 88). -/
def Obligations.RepeatFramesStart : Prop :=
  (∀ (s : State) (c : Reg) (n : BitVec 16), Instr.wf (.loop c n) = true → s.x c = 0 → 6 ≤ s.loops.length →
    exec (.loop c n) s = .next { s with core := { s.core with via := 0, sc := { s.core.sc with pc := BitVec.ofNat 64 (s.pc.toNat + 4 + 4 * n.toNat) } } }) ∧
  (∀ (s : State) (c : Reg) (m : BitVec 4) (sd sa sb : BitVec 2) (wz : BitVec 3) (map : Word32) (l : List (Word × Option Instr × Bool)),
    let fi : FrameInfo := ⟨sd.toNat, sa.toNat, sb.toNat, 2 ^ wz.toNat, (List.range (m.toNat + 1)).map fun j => map.toNat / 4 ^ j % 4⟩
    let after := s.afterCaptured l
    s.captured (s.pc + 8) (m.toNat + 1) = .ok l → (∀ x ∈ l, x.2.2 = true) →
    (∀ q, q < min (s.x c).toNat fi.window → ∀ x ∈ l, (∀ i, x.2.1 = some i → ∀ v ∈ vregsOf (staggered fi q i), v.toNat < s.nregs) ∧
      (x.2.1 = none → ∀ v ∈ s.strayRegs fi q x.1, v.toNat < s.nregs)) →
    (s.x c = 0 → s.loops.length < 6 → exec (.repf c m sd sa sb wz map) s = .next { s with core := { s.core with via := 0, sc := { s.core.sc with pc := after } } }) ∧
    (6 ≤ s.loops.length → exec (.repf c m sd sa sb wz map) s = .next (s.except ⟨0x0C, 0x01, 0, 0⟩)) ∧
    (s.x c ≠ 0 → s.loops.length < 6 → exec (.repf c m sd sa sb wz map) s = .next (State.settle { s with core := { s.core with
      via := 0, sc := { s.core.sc with pc := s.pc + 8, loops := ⟨.frame, s.pc, after - 4, s.x c, 0⟩ :: s.loops } } })))

/-! ### Synchronisation -/

/-- R260 to R262: `bar.init` writes generation, counts and phase of the object and marks it; `bar.arr` counts one arrival and returns the
old word; `bar.wait` and `bar.test` compare the object with the token. Only the object's word changes in memory. -/
def Obligations.BarrierInstructions : Prop :=
  ∀ (s : State) (b : Reg) (k : Nat), MemoryOk s →
    (∀ (n : Reg) (sc : Scope), NothingOwed s → ObjectAt s (s.x b) k true sc → s.chained (.spad k) 8 = false → (s.x n).toNat ≠ 0 →
      (s.x n).toNat ≤ 65535 → ∃ t, exec (.barInit b n sc) s = .next t ∧ (t.mem.marks.find? fun x => x.1 == k / 8) = some (k / 8, sc) ∧
        Stored t (.spad k) 8 ((bits (objectWord s k) 48 16 + 1) ++ bits (s.x n) 0 16 ++ bits (s.x n) 0 16 ++ (0 : BitVec 16)).toNat ∧
        SameMemoryBut s t (.spad k) 8 ∧ InSequence s t 4 ∧ SyncFrame (withSpad s t) t) ∧
    (∀ (d : Reg) (rlx : Bool) (sc : Scope) (y : Nat), NothingOwed s → ObjectAt s (s.x b) k true sc →
      (s.mem.marks.find? fun x => x.1 == k / 8) = some (y, sc) →
      ∃ t, exec (.barArr d b rlx) s = .next t ∧ Stored t (.spad k) 8 (arrived (objectWord s k)).toNat ∧ SameMemoryBut s t (.spad k) 8 ∧
        InSequence s t 4 ∧ t.mem.marks = s.mem.marks ∧ SyncFrame ((withSpad s t).setX d (objectWord s k)) t) ∧
    (∀ (r : Reg) (sc : Scope) (y : Nat), ObjectAt s (s.x b) k false sc → (s.mem.marks.find? fun x => x.1 == k / 8) = some (y, sc) →
      let w := objectWord s k; let tok := s.x r
      (bits w 48 16 ≠ bits tok 48 16 → exec (.barWait b r) s = .next (s.except ⟨0x0E, 0x0E, 0, 0⟩)) ∧
      (bits w 48 16 = bits tok 48 16 → bits w 0 16 = bits tok 0 16 → ∃ t, exec (.barWait b r) s = .next t ∧ SleepsAfterRead s t) ∧
      (bits w 48 16 = bits tok 48 16 → bits w 0 16 ≠ bits tok 0 16 →
        ∃ t, exec (.barWait b r) s = .next t ∧ InSequence s t 4 ∧ SyncFrame s t) ∧
      (∀ d : Reg, ∃ t, exec (.barTest d b r) s = .next t ∧ InSequence s t 4 ∧ SyncFrame
        (s.setX d (if bits w 48 16 ≠ bits tok 48 16 then 2 else if bits w 0 16 = bits tok 0 16 then 0 else 1)) t))

/-- R264 to R266: `fence` completes once the stores before it have been performed; `waita` completes when the word at x[a] meets its
condition and else sleeps, and asks for a word of a fabric window by a packet (R349) each time that it is tried (log entry 94); `node.sub`
hands the record at x[r] to the dispatcher and writes its answer to `x[d]`. What a release waits for, the detail of a misaligned record, and
that an acquire waits for the strong loads before it from fabric windows, follow log entries 32, 44 and 125. -/
def Obligations.FencesWaitsAndSubmissions : Prop :=
  ∀ (s : State),
    (∀ (kind : FenceKind) (sc : Scope), NothingOwed s →
      ((kind = .rel ∨ s.loadsOwed = false) → ∃ t, exec (.fence kind sc) s = .next t ∧ t.core.region = s.mem.nextRegion ∧ InSequence s t 4 ∧
        SyncFrame s t) ∧
      (kind ≠ .rel → s.loadsOwed = true → exec (.fence kind sc) s = .next (s.setRun .waiting))) ∧
    (∀ (a b : Reg) (sc : Scope) (c : WCond) (l : Loc), Reaches s (s.x a) 8 .load l → l.isFabric = false →
      raceCheck s.part s.mem (s.agent true sc) false l 8 (s.x a) = .ok () → badAt s.mem l = none →
      let w : Word := BitVec.ofNat 64 (readLoc s.mem l 8)
      let holds : Bool := match c with
        | .eq => w == s.x b | .ne => w != s.x b | .ge => decide ((s.x b).toNat ≤ w.toNat)
      (holds = false → ∃ t, exec (.waita a b sc c) s = .next t ∧ SleepsAfterRead s t) ∧
      (holds = true → ∃ t, exec (.waita a b sc c) s = .next t ∧ InSequence s t 4 ∧ SyncFrame s t)) ∧
    (∀ (a b : Reg) (sc : Scope) (c : WCond) (win va' : Nat), Reaches s (s.x a) 8 .load (.fabric win va') →
      let answer := s.farAns s.core.me.handle s.core.me.wid none false (s.x a) 8
      (s.token win = none → exec (.waita a b sc c) s = .next (s.except ⟨0x15, 0x06, s.x a, 0⟩)) ∧
      (∀ tok, s.token win = some tok →
        (answer = none → ∃ t r, exec (.waita a b sc c) s = .next t ∧ t.core.run = .waiting ∧ t.pc = s.pc ∧ t.fab.reqs = s.fab.reqs ++ [r] ∧
          r.packet.kind = 0 ∧ r.packet.offset = s.x a - (tok.lbase.setWidth 64 <<< 16) ∧ r.packet.count = 1 ∧ r.packet.order = .acq ∧
          r.packet.scope = sc ∧ r.addr = s.x a) ∧
        (answer = some .awaited → exec (.waita a b sc c) s = .next (s.setRun .waiting)) ∧
        (∀ q st, answer = some (.failed q st) → exec (.waita a b sc c) s = .next (s.except ⟨q, st, s.x a, s.pc⟩)) ∧
        (∀ l, answer = some (.data l) →
          let w : Word := BitVec.ofNat 64 (valueOfBytes l)
          let holds : Bool := match c with
            | .eq => w == s.x b | .ne => w != s.x b | .ge => decide ((s.x b).toNat ≤ w.toNat)
          let u := s.dropFar s.core.me.handle s.core.me.wid none
          (holds = false → exec (.waita a b sc c) s = .next (u.setRun .asleep)) ∧
          (holds = true → ∃ t, exec (.waita a b sc c) s = .next t ∧ InSequence s t 4 ∧ SyncFrame u t)))) ∧
    (∀ (d r : Reg) (rec' : List Byte) (u : State), (s.x r).toNat % 256 = 0 → s.readUnits (s.x r) 32 = .ok (rec', u) → NothingOwed s →
      let q := u.sync.submitRecord rec' (some s.core.me.handle) s.core.seen
      ∃ t, exec (.nodeSub d r) s = .next t ∧ Finishes s (q.2.setX d q.1) t 4) ∧
    (∀ (d r : Reg), (s.x r).toNat % 256 ≠ 0 → exec (.nodeSub d r) s = .next (s.except ⟨0x06, 0, s.x r, 0⟩))

/-- R18, R19, R266: what the dispatcher answers to a record: a status when a check fails, in order, with nothing changed; else the next
handle, and the node joins the pool, waiting for its predecessors and for nodes of its stream whose regions conflict. `giver` is the node
whose thread submits the record, for which it waits only when it names it; the host is none. -/
def Obligations.SubmittedRecordsAreChecked : Prop :=
  ∀ (s : State) (l : List Byte) (giver : Option Nat) (seen : List Nat),
    let r := parseRecord l; let a := s.submitRecord l giver seen
    let refuse (code : Nat) : Word := BitVec.ofNat 64 (2 ^ 63 + code * 2 ^ 56)
    ((recordCrc l 0x7C).toNat ≠ field l 0x7C 4 → a = (refuse 1, s)) ∧
    ((recordCrc l 0x7C).toNat = field l 0x7C 4 →
      (recordBad l = true → a = (refuse 2, s)) ∧
      (recordBad l = false →
        ((∃ h ∈ r.preds, s.sched.nextHandle ≤ h) → a = (refuse 3, s)) ∧
        ((∀ h ∈ r.preds, h < s.sched.nextHandle) →
          (65536 ≤ s.sched.nodes.length → a = (refuse 4, s)) ∧
          (s.sched.nodes.length < 65536 →
            (r.unsatisfiable s.part = true → a = (refuse 5, s)) ∧
            (r.unsatisfiable s.part = false → ∃ n : Node, n.handle = s.sched.nextHandle ∧ n.record = r ∧ n.host = giver.isNone ∧ n.prio = r.prio ∧
              n.nextWid = 0 ∧ n.reserve = [] ∧ n.retired = 0 ∧ n.ended = none ∧ n.seen = seen ∧
              (∀ h, h ∈ n.edges ↔ ∃ p ∈ s.sched.nodes, p.handle = h ∧ waitsFor r giver p = true) ∧ (n.readyAt = none ↔ n.edges ≠ []) ∧
              a = (BitVec.ofNat 64 s.sched.nextHandle, { s with sched := { s.sched with
                nodes := s.sched.nodes ++ [n], nextHandle := s.sched.nextHandle + 1 } }))))))

namespace Sys2Proof.Claims

open Machine

/-! ### Engine queues -/

/-- Commands of the queues of `l`, with the batches that they belong to, join: they take the next numbers, the thread's region closes and the
commands' open (R226, R235), and beside what `u` says nothing else changes. -/
structure Join (s u t : State) (l : List (Queue × Option (BitVec 16))) : Prop where
  region : ∃ g : List CmdRegion, t.eng.regions = s.eng.regions ++ g ∧
    g.map (fun r => (r.id, r.queue, r.batch)) = l.zipIdx.map (fun x => (s.eng.nextId + x.2, x.1)) ∧
    ∀ r ∈ g, r.core = s.core.id ∧ r.handle = s.core.me.handle ∧ r.wid = s.core.me.wid
  count : t.eng.nextId = s.eng.nextId + l.length
  next : InSequence s t 4
  frame : t = State.follow { u with
    core := { u.core with region := t.core.region, tlb := t.core.tlb },
    mem := { u.mem with openRegions := t.mem.openRegions, nextRegion := t.mem.nextRegion, summaries := t.mem.summaries },
    eng := { u.eng with nextId := t.eng.nextId, regions := t.eng.regions } } t

/-- One command of queue `q` joins. -/
abbrev Joins (s u t : State) (q : Queue) (batch : Option (BitVec 16)) : Prop := Join s u t [(q, batch)]

/-- The resident thread has fewer commands in a queue than its depth (R23). -/
abbrev HasRoom (s : State) (q : Queue) : Prop := s.countMine q < s.depth q

/-- What a wait for commands changes when it completes: the regions of the thread's own performed commands that `which` names close, with
the fences that then hold nothing (R215, R226, R235). Of a command whose region is closed (region 0) only what happens before it may be kept,
for the commands behind it in its queue (R241). -/
structure Acquires (s u t : State) (which : CmdRegion → Prop) : Prop where
  kept : ∀ r ∈ t.eng.regions, r ∈ s.eng.regions ∨
    ∃ q ∈ s.eng.regions, (which q ∨ q.region = 0) ∧ r = { q with region := 0, prior := r.prior } ∧ r.prior.Sublist q.prior
  closed : ∀ r ∈ s.eng.regions, r.region ≠ 0 → (r ∉ t.eng.regions ↔ which r)
  next : InSequence s t 4
  frame : t = State.follow { u with
    core := { u.core with region := t.core.region, seen := t.core.seen, atFence := t.core.atFence },
    mem := { u.mem with openRegions := t.mem.openRegions, nextRegion := t.mem.nextRegion },
    eng := { u.eng with regions := t.eng.regions, fences := t.eng.fences, nextId := t.eng.nextId } } t

/-- The command of a region is the resident thread's, and has left its queue. -/
def Performed (s : State) (q : Queue) (r : CmdRegion) : Prop :=
  r.queue = q ∧ r.handle = s.core.me.handle ∧ r.wid = s.core.me.wid ∧ ∀ c ∈ s.outstanding, c.id ≠ r.id

/-! ### Matrix engine -/

/-- The conditions of every MX instruction: the unit is present, the thread may use the vector state, and no fault is pending (R207, R208). -/
abbrev MxReady (s : State) : Prop := s.part.hasMx = true ∧ MayUseVec s ∧ s.mx.fault = none

/-- Slots `t` to `t + w` are a tile's, as `mx.zero` leaves the slots before the engine clears them (R55, R202, R211): the tiles that it
overlaps are void. -/
def SlotsTaken (s t : State) (base w : Nat) : Prop :=
  ∀ n, n < 8 → t.slot n =
    if base ≤ n ∧ n ≤ base + w then { s.slot n with tag := { Tag.of .f32 w with full := false }, base := base }
    else if (s.slot n).tag.fmt ≠ .void ∧ ∃ m ∈ List.range 8, base ≤ m ∧ m ≤ base + w ∧ (s.slot m).tag.fmt ≠ .void ∧
      (s.slot m).base = (s.slot n).base then
      { s.slot n with tag := .void }
    else s.slot n

/-- The vector state with shape registers. -/
def mxShaped (v : Vec) (rows cols : BitVec 7) (img : Bool) : Vec := { v with mxRows := rows.setWidth 8, mxCols := cols.setWidth 8, mxImg := img }

/-- The vector state with another view of the weight buffer. -/
def mxViewed (v : Vec) (w : WView) : Vec := { v with mx := { v.mx with view := w } }

/-- The MX instructions (R209 to R217). -/
def mxInstr : Instr → Bool
  | .mxCfg _ _ _ => true
  | .mxZero _ _ => true
  | .mxLdw _ _ _ _ => true
  | .mxSeedw _ _ => true
  | .mxSeedwClr => true
  | .mxStep _ _ _ _ _ => true
  | .mxStepf _ _ _ _ _ => true
  | .mxCommit => true
  | .mxWait _ => true
  | .mxRd _ _ _ _ => true
  | .mxWr _ _ _ _ => true
  | _ => false

/-- The body of the command and the vector state beside the queue that `mx.cfg`, `mx.ldw`, `mx.seedw` and `mx.seedw.clr` leave, from the
state `r` (R210, R212, R213). -/
def mxCommand (r : State) : Instr → Option (MxBody × Vec)
  | .mxCfg rows cols img => some (.cfg (rows.setWidth 8) (cols.setWidth 8) img, mxShaped r.core.vec rows cols img)
  | .mxLdw k b x ty =>
    if (r.x k).toNat = 0 ∨ MxTy.limit ty < (r.x k).toNat then none
    else some (.ldw (r.x k).toNat (r.x b) (r.x x) ty r.core.vec.mxCols.toNat,
      mxViewed r.core.vec ⟨ty, (r.x k).toNat, r.core.vec.mxCols.toNat, none⟩)
  | .mxSeedw j off => some (.seedw (some ⟨r.st.dkey, r.st.dstep, r.st.dsig.setWidth 32, r.x j, off.toNat⟩),
      mxViewed r.core.vec { r.mx.view with seedOff := some off.toNat })
  | .mxSeedwClr => some (.seedw none, mxViewed r.core.vec { r.mx.view with seedOff := none })
  | _ => none

/-- The vector state with command `c` at the end of its matrix queue. -/
def mxQueued (v : Vec) (c : MxCmd) : Vec := { v with mx := { v.mx with queue := v.mx.queue ++ [c] } }

/-- The state with another vector state. -/
def withVec (s : State) (v : Vec) : State := { s with core := { s.core with vec := v } }

/-- A matrix command that the instruction at the PC issues, the `n`th that it enters. -/
abbrev MxIssued (s : State) (n : Nat) (c : MxCmd) (b : MxBody) : Prop :=
  c.body = b ∧ c.id = s.eng.nextId + n ∧ c.pc = s.pc ∧ c.via = s.pc ∧ c.handle = s.core.me.handle ∧ c.wid = s.core.me.wid ∧
    c.root = s.core.sup.ptbase ∧ c.held = none ∧ c.dropped = false

/-- Bytes from one column of A to the next (R203). -/
def columnOf (ty : MxTy) (rows : Nat) : Nat :=
  match ty with
  | .f32 => 4 * rows
  | .f16 => 2 * rows
  | .bf16 => 2 * rows
  | .lns6 => ((rows + 31) / 32 * 25 + 7) / 8 * 8

/-- A step passes the checks of R214: its tile, its rows of B, its types, its place in the thread's scratchpad, its alignment. -/
abbrev StepOk (s : State) (t : Nat) (ma : Word) (k0 d : Nat) (ty : MxTy) : Prop :=
  let x := s.slot t; let v := s.mx.view; let rows := s.core.vec.mxRows.toNat; let w := Bundle.planes x.tag.bundle
  let q := if s.st.bplane = 0 then d * columnOf ty rows else s.st.bplane.toNat
  let tail := match ty with
    | .f32 => 4 * rows | .f16 => 2 * rows | .bf16 => 2 * rows | .lns6 => (rows + 31) / 32 * 25
  let unit := match ty with
    | .f32 => 4 | .f16 => 2 | .bf16 => 2 | .lns6 => 8
  x.tag.fmt ≠ .void ∧ x.base = t ∧ k0 + d ≤ v.rows ∧ s.core.vec.mxCols.toNat ≤ v.cols ∧ (∀ off, v.seedOff = some off → off + w ≤ 16) ∧
    (v.ty = .lns6 ∨ v.ty = ty) ∧ bits ma 48 16 = 0xF ∧
    (∃ a, findAllot s.mem.allots s.core.me.handle s.core.me.wid = some a ∧
      ma.toNat - 0x000F000000000000 + (d - 1) * columnOf ty rows + tail + (if s.core.vec.mxImg = true then w else 0) * q ≤ a.spad) ∧
    ma.toNat % unit = 0 ∧ (s.core.vec.mxImg = true → q % unit = 0 ∧ ty ≠ .lns6)

/-- The queue `m` with its open batch closed by the commands `l` (R200, R201). -/
def batchClosed (m : Mx) (l : List MxCmd) : Mx := { m with queue := m.queue ++ l, closed := m.closed ++ [m.next], next := m.next + 1, opened := 0 }

/-- The queue `m` with a step that joins the open batch (R201, R202). -/
def stepJoined (m : Mx) (c : MxCmd) (base w : Nat) : Mx :=
  { m with queue := m.queue ++ [c], opened := m.opened + 1, slots := m.slots ++ [⟨m.next, base, w⟩] }

/-- The vector state with the slots of a tile empty. -/
def slotsEmpty (v : Vec) (base w : Nat) : Vec :=
  { v with tiles := v.tiles.mapFinIdx fun i x _ => if base ≤ i ∧ i ≤ base + w then { x with tag := { x.tag with full := false } } else x }

/-- The vector state with another matrix queue. -/
def withMx (v : Vec) (m : Mx) : Vec := { v with mx := m }

/-- The two instructions that issue a step. -/
def stepForm : Instr → Option (BitVec 3 × Reg × BitVec 4 × BitVec 7 × MxTy × Bool)
  | .mxStep t a k d ty => some (t, a, k, d, ty, false)
  | .mxStepf t a k d ty => some (t, a, k, d, ty, true)
  | _ => none

/-- The tile `t` of `w` tangent slots may be read or written: its base is a slot of its own, its rows reach `r` (R208, R216, R217). -/
abbrev TileOk (s : State) (t w r : Nat) : Prop :=
  (s.slot t).tag.fmt ≠ .void ∧ (s.slot t).base = t ∧ w = Bundle.planes (s.slot t).tag.bundle ∧ r < s.core.vec.mxRows.toNat

/-- No slot of the tile waits for the engine (R202). -/
abbrev TileIdle (s : State) (t w : Nat) : Prop := ∀ n, t ≤ n → n ≤ t + w → n < 8 → (s.slot n).tag.fmt = .void ∨ (s.slot n).tag.full = true

end Sys2Proof.Claims

/-! ### Matrix engine -/

/-- R76, R200, R207, R208, R210, R212, R213: `mx.cfg`, `mx.ldw`, `mx.seedw` and `mx.seedw.clr` resume the engine, add their command to the
end of the queue and change what issues after them sees. `mx.ldw` of no rows, or of more than its type allows, raises BADID. A pending fault
is delivered instead, and the engine then holds its stop point. What these commands wait for follows log entry 32. On a part without matrix
engines every MX instruction raises unit absent in place of its effect, whatever its operands. R211: `mx.zero` takes its slots, empty, and
voids the tiles that it overlaps; a slot of a busy tile among them raises tile busy, class 0x05. -/
def Obligations.MatrixCommandsEnter : Prop :=
  ((∀ (s : State) (i : Instr), s.part.hasMx = false → mxInstr i = true → exec i s = .next (s.except ⟨0x02, 0x14, 0, 0⟩)) ∧
  ∀ (s : State) (i : Instr), s.part.hasMx = true → MayUseVec s →
    (s.mx.fault = none → NothingOwed s → ∀ (b : MxBody) (v : Vec), mxCommand s.mxResume i = some (b, v) →
      ∃ t c, exec i s = .next t ∧ MxIssued s 0 c b ∧ Joins s (withVec s (mxQueued v c)) t .matrix none) ∧
    (s.mx.fault = none → ∀ k b x ty, (s.x k).toNat = 0 ∨ MxTy.limit ty < (s.x k).toNat →
      exec (.mxLdw k b x ty) s = .next (s.mxResume.except ⟨0x0E, 0x09, 0, 0⟩)) ∧
    (∀ (e : Exc) (x : MxBody × Vec), s.mx.fault = some e → mxCommand s.mxResume i = some x →
      exec i s = .next (State.except (withVec s { s.core.vec with
        mxprog := s.core.vec.mxprog &&& ~~~2#64, mx := { s.mx with fault := none, holds := true } }) e))) ∧
  (∀ (s : State) (tile : BitVec 3) (b : BitVec 2), Instr.wf (.mxZero tile b) = true → MxReady s → NothingOwed s →
    let w := match b.toNat with
      | 0 => 0 | 1 => 1 | 2 => 2 | _ => 4
    (TileIdle s tile.toNat w →
      ∃ t c, exec (.mxZero tile b) s = .next t ∧ MxIssued s 0 c (.zero tile.toNat w) ∧ SlotsTaken s t tile.toNat w ∧
        Joins s (withVec s (mxQueued { s.mxResume.core.vec with tiles := t.core.vec.tiles } c)) t .matrix none) ∧
    (¬ TileIdle s tile.toNat w → exec (.mxZero tile b) s = .next (s.mxResume.except ⟨0x05, 0, 0, 0⟩)))

/-- R200 to R202, R214, R215: a step that passes its checks joins the open batch, which closes first when it holds 16 steps, and leaves its
tile empty; `mx.commit` closes the open batch. The closing of a batch is a command behind its steps. Both sleep while that would exceed the
depth. The address of a range that is not readable follows log entry 35. -/
def Obligations.StepsJoinBatches : Prop :=
  ∀ (s : State), MxReady s →
    let r := s.mxResume; let m := r.mx; let room := m.closed.length < s.depth .matrix
    (∀ (i : Instr) (tile : BitVec 3) (a : Reg) (k : BitVec 4) (d : BitVec 7) (ty : MxTy) (free : Bool),
      i.wf = true → stepForm i = some (tile, a, k, d, ty, free) → NothingOwed s →
      StepOk s tile.toNat (s.x a) (s.x (k.setWidth 5)).toNat d.toNat ty →
      (m.opened = 16 → ¬ room → exec i s = .next (r.setRun .asleep)) ∧
      (m.opened ≠ 16 ∨ room →
        let full := m.opened = 16; let w := Bundle.planes (s.slot tile.toNat).tag.bundle
        ∃ t l c, exec i s = .next t ∧ l.length = (if full then 1 else 0) ∧ (∀ k ∈ l, MxIssued s 0 k (.commit m.next)) ∧
          let m' := if full then batchClosed m l else m
          MxIssued s l.length c
            (.step ⟨tile.toNat, w, s.x a, (s.x (k.setWidth 5)).toNat, d.toNat, ty, free, s.st.bplane.toNat, m'.next, m'.opened, 0, 0⟩) ∧
          Join s (withVec s (slotsEmpty (withMx r.core.vec (stepJoined m' c tile.toNat w)) tile.toNat w)) t
            (l.map (fun _ => (.matrix, some m.next)) ++ [(.matrix, some m'.next)]))) ∧
    (m.opened = 0 → ∃ t, exec .mxCommit s = .next t ∧ Finishes s r t 4) ∧
    (m.opened ≠ 0 → NothingOwed s → room → ∃ t c, exec .mxCommit s = .next t ∧ MxIssued s 0 c (.commit m.next) ∧
      Joins s (withVec s (withMx r.core.vec (batchClosed m [c]))) t .matrix (some m.next)) ∧
    (m.opened ≠ 0 → NothingOwed s → ¬ room → exec .mxCommit s = .next (r.setRun .asleep))

/-- R215 to R217, R292: `mx.wait` sleeps while more than n closed batches are incomplete, and else acquires; `mx.rd` waits for its tile and
reads one row, with +0.0 from the active columns up, and acquires the writes of the batches that are complete; `mx.wr` writes one row of an
idle tile, which then holds no error. The regions that `mx.wait` closes follow log entry 38. That a source of another bundle width than its
tile counts against operand 1, even where the slot is not the tile's base, is the model's choice (log entry 93). -/
def Obligations.MatrixRowsAndWaits : Prop :=
  ∀ (s : State), MxReady s →
    let r := s.mxResume
    let ended (b : BitVec 16) : Prop := b ∉ s.mx.closed ∧ (b ≠ s.mx.next ∨ s.mx.opened = 0)
    let done (g : CmdRegion) : Prop := Performed s .matrix g ∧ ∀ b, g.batch = some b → ended b
    let batched (g : CmdRegion) : Prop := Performed s .matrix g ∧ ∃ b, g.batch = some b ∧ ended b
    (∀ n : BitVec 5,
      (n.toNat < s.mx.closed.length → exec (.mxWait n) s = .next (r.setRun .asleep)) ∧
      (s.mx.closed.length ≤ n.toNat → s.myFail (fun q => q == .matrix) = none → ∃ t, exec (.mxWait n) s = .next t ∧ Acquires s r t done) ∧
      (s.mx.closed.length ≤ n.toNat → ∀ f, s.myFail (fun q => q == .matrix) = some f → ∃ u,
        exec (.mxWait n) s = .next (State.except u ⟨0x0E, f.status.setWidth 8, f.addr, f.via⟩) ∧ u.pc = s.pc ∧ u.core.sc = s.core.sc ∧
        u.eng.fails = s.eng.fails.erase f)) ∧
    (∀ (v : VSpec) (tile : BitVec 3) (ta : Bool) (x : Reg) (w : Nat), Instr.wf (.mxRd v tile ta x) = true →
      VecAllowed s ⟨.mxRd v tile ta x, false, false, [4]⟩ → TileOk s tile.toNat w (s.x x).toNat → DestOk s (oCapacity [4]) w v →
      ((s.slot tile.toNat).tag.full = false →
        exec (.mxRd v tile ta x) s = .next (if ta = true then r.except ⟨0x04, 1, 0, 0⟩ else r.setRun .waiting)) ∧
      ((s.slot tile.toNat).tag.full = true → (∀ n, tile.toNat ≤ n → n ≤ tile.toNat + w → n < 8 → (s.slot n).bad = false) → DestFree s v →
        ∃ t, exec (.mxRd v tile ta x) s = .next t ∧ (t.vreg v).tag = Tag.of .f32 w ∧ (t.vreg v).failed = none ∧
          (∀ e, e < s.vl → ∀ p, p ≤ w → partOf (t.vreg v) 32 p e =
            if e < s.core.vec.mxCols.toNat then (s.slot (tile.toNat + p)).at (s.x x).toNat e else 0) ∧
          (∀ e, s.vl ≤ e → ∀ p, p ≤ w → partOf (t.vreg v) 32 p e = if p ≤ (s.vreg v).width then partOf (s.vreg v) 32 p e else 0) ∧
          (∀ q, q ≠ v → t.vreg q = s.vreg q) ∧
          (∀ n, n < 64 → t.st.dhealth.getLsbD n = (s.st.dhealth.getLsbD n || (decide (n < w) &&
            (List.range (min s.vl s.core.vec.mxCols.toNat)).any fun e =>
              (FFmt.f32.val ((s.slot (tile.toNat + n + 1)).at (s.x x).toNat e)).special))) ∧
          Acquires s { r with core := { r.core with
            vec := { r.core.vec with v := t.core.vec.v, o := t.core.vec.o },
            sc := { r.core.sc with st := { r.core.sc.st with dhealth := t.st.dhealth } } } } t batched)) ∧
    (∀ (v : VSpec) (tile : BitVec 3) (ta : Bool) (x : Reg) (b : Nat), Instr.wf (.mxWr tile v x ta) = true →
      VecAllowed s ⟨.mxWr tile v x ta, false, false, [4]⟩ → SourceOk s (oCapacity [4]) ⟨1, .vec v .f32⟩ →
      WidthIs s true [⟨1, .vec v .f32⟩] b → (s.slot tile.toNat).tag.fmt ≠ .void → b ≠ 0 →
      b ≠ Bundle.planes (s.slot tile.toNat).tag.bundle → exec (.mxWr tile v x ta) s = .next (r.except ⟨0x03, 0x42, 0, 0⟩)) ∧
    (∀ (v : VSpec) (tile : BitVec 3) (ta : Bool) (x : Reg) (w b : Nat), Instr.wf (.mxWr tile v x ta) = true →
      VecAllowed s ⟨.mxWr tile v x ta, false, false, [4]⟩ → TileOk s tile.toNat w (s.x x).toNat →
      SourceOk s (oCapacity [4]) ⟨1, .vec v .f32⟩ → WidthIs s true [⟨1, .vec v .f32⟩] b → (b = 0 ∨ b = w) → Ready s [⟨v, ta, 1⟩] →
      (¬ TileIdle s tile.toNat w → exec (.mxWr tile v x ta) s = .next (r.except ⟨0x05, 0, 0, 0⟩)) ∧
      (TileIdle s tile.toNat w → ∃ t, exec (.mxWr tile v x ta) s = .next t ∧
        (∀ n j, n < 8 → elem 32 (t.slot n).data j =
          if tile.toNat ≤ n ∧ n ≤ tile.toNat + w ∧ 96 * (s.x x).toNat ≤ j ∧ j < 96 * (s.x x).toNat + min s.vl s.core.vec.mxCols.toNat then
            (if n - tile.toNat ≤ b then partOf (s.vreg v) 32 (n - tile.toNat) (j - 96 * (s.x x).toNat) else 0)
          else elem 32 (s.slot n).data j) ∧
        (∀ n, n < 8 → { t.slot n with data := 0 } =
          { s.slot n with data := 0, bad := (s.slot n).bad && !(decide (tile.toNat ≤ n) && decide (n ≤ tile.toNat + w)) }) ∧
        Finishes s { r with core := { r.core with vec := { r.core.vec with tiles := t.core.vec.tiles } } } t 4))

namespace Sys2Proof.Claims

open Machine

/-! ### Copy and optimiser queues -/

/-- A copy command that the instruction at the PC issues for the waybill `wb` at `addr`. -/
abbrev CopyIssued (s : State) (c : CpCmd) (addr : Word) (lin : Bool) (wb : Waybill) (gen : BitVec 16) : Prop :=
  c.id = s.eng.nextId ∧ c.pc = s.pc ∧ c.addr = addr ∧ c.handle = s.core.me.handle ∧ c.wid = s.core.me.wid ∧ c.root = s.core.sup.ptbase ∧
    c.lin = lin ∧ c.wb = wb ∧ c.gen = gen ∧ c.started = false ∧ c.count = 0 ∧ c.failed = none ∧ c.before = []

/-- The state with another command at the end of the core's copy queue. -/
def withCopy (s : State) (c : CpCmd) : State := { s with core := { s.core with copy := s.core.copy ++ [c] } }

/-- The waybill that `cp.lin` stands for: `n` bytes from `src` to `dst`, and a word counted at `done` (R225). -/
def linearWaybill (src dst done : Word) (n : Nat) : Waybill :=
  { src := src, dst := dst, esize := 1, dims := [⟨n, 1, 1⟩], scope := .core, planes := 1, psrc := 0, pdst := 0, done := done, doneval := 0,
    bar := none, mx := none, ma := 0, k0 := 0 }

/-- An optimiser command that the instruction at the PC issues. -/
abbrev OptIssued (s : State) (c : OptCmd) (addr : Word) (b : OptBody) : Prop :=
  c.id = s.eng.nextId ∧ c.pc = s.pc ∧ c.addr = addr ∧ c.core = s.core.id ∧ c.die = s.core.id / s.part.coresPerDie ∧
    c.handle = s.core.me.handle ∧ c.wid = s.core.me.wid ∧ c.root = s.core.sup.ptbase ∧ c.body = b ∧ c.run = none ∧ c.fixed = none ∧
    c.failed = none

/-- The state with another command at the end of the optimiser queues. -/
def withOpt (s : State) (c : OptCmd) : State := { s with eng := { s.eng with opt := s.eng.opt ++ [c] } }

/-- The queue of the die has room (R180). -/
abbrev OptRoom (s : State) : Prop := (s.eng.opt.filter fun c => c.die == s.core.id / s.part.coresPerDie).length < 1024

/-- `s` without the failures of the resident thread that `opt.stat` shows. -/
def forgotten (s : State) : State :=
  { s with eng := { s.eng with optFails := s.eng.optFails.filter fun f => !(f.handle == s.core.me.handle && f.wid == s.core.me.wid) } }

/-- The fence `f` names the queue `q` of a command that the thread `wid` of node `handle` issued on core `c`: the queue of the core where the
fence was placed, that of its die for the optimiser, and for the matrix engine that of its thread, which moves with the vector state (R226,
R311). -/
def Named (s : State) (f : QFence) (q : Queue) (c handle wid : Nat) : Prop :=
  f.mask.getLsbD (match q with | .copy => 0 | .matrix => 1 | .opt => 2 | .fabric => 3) = true ∧
    match q with
    | .copy => f.core = c
    | .matrix => f.handle = handle ∧ f.wid = wid
    | .opt => f.core / s.part.coresPerDie = c / s.part.coresPerDie
    | .fabric => f.core = c

/-- A fence that the resident thread places. -/
def fenceHere (s : State) (id : Nat) (mask : BitVec 4) : QFence :=
  { id := id, mask := mask, core := s.core.id, handle := s.core.me.handle, wid := s.core.me.wid }

/-- The fence at which `q.fence.w` waits: the one that the thread has placed, which is gone when nothing is before it, or a new one. -/
def fenceAt (s : State) (mask : BitVec 4) : QFence :=
  match s.core.atFence with
  | none => fenceHere s s.eng.nextId mask
  | some id => (s.eng.fences.find? fun f => f.id == id).getD (fenceHere s id 0)

/-- The state with a fence placed. -/
def withFence (s : State) (mask : BitVec 4) : State :=
  { s with eng := { s.eng with fences := s.eng.fences ++ [fenceHere s s.eng.nextId mask], nextId := s.eng.nextId + 1 } }

/-- The state whose thread waits at fence `n`. -/
def waitingAt (s : State) (n : Nat) : State := { s with core := { s.core with run := .asleep, atFence := some n } }

/-- A word of failure: R189, R221. -/
def failedWord (f : CmdFail) : Word := 1#1 ++ f.status ++ f.cls ++ BitVec.ofNat 48 (min f.count (2 ^ 48 - 1))

/-- `s` without the failure `f`. -/
def reported (s : State) (f : CmdFail) : State := { s with eng := { s.eng with fails := s.eng.fails.erase f } }

/-- The matrix commands of the thread are in its core's engine, or the mode is supervisor (log entry 103). -/
abbrev EngineHere (s : State) : Prop := s.core.sup.mode = .user → s.savedWork = false

end Sys2Proof.Claims

/-! ### Copy engine and queue fences -/

/-- R218, R219, R223, R225: `cp.lin` and `cp.nd` add their command to the copy queue, which sleeps at its depth; a bad waybill, address or
count raises with nothing enqueued; a follow-on step joins the open batch, held until its waybill releases it, and raises unit absent on a
part without matrix engines (R76). The counter of `cp.lin` and the checks of a waybill follow log entries 33 and 34; that a bad count comes
before a misaligned counter is the model's choice (log entry 122). R224, R226: `q.fence` places a fence in the queues of its mask;
`q.fence.w` places one, sleeps until every command before it has been performed, and then acquires their writes or reports a failure; matrix
commands that stand elsewhere with the thread's vector state raise vector-unit owned instead (a reading, log entry 103); `cp.stat` reads the
count of commands or takes the next failure. That `q.fence` acquires nothing is a reading (log entry 39). -/
def Obligations.CopyCommandsEnter : Prop :=
  (∀ (s : State),
    (∀ d a n c : Reg, let go (x : Reg) : Word := s.x x
      ((go n).toNat ≤ 2 ^ 40 → (go c).toNat % 8 = 0 → HasRoom s .copy → NothingOwed s →
        ∃ t k, exec (.cpLin d a n c) s = .next t ∧ CopyIssued s k s.pc true (linearWaybill (go a) (go d) (go c) (go n).toNat) 0 ∧
          Joins s (withCopy s k) t .copy none) ∧
      ((go n).toNat ≤ 2 ^ 40 → (go c).toNat % 8 = 0 → ¬ HasRoom s .copy → exec (.cpLin d a n c) s = .next (s.setRun .asleep)) ∧
      (2 ^ 40 < (go n).toNat → exec (.cpLin d a n c) s = .next (s.except ⟨0x0E, 0x09, 0, 0⟩)) ∧
      ((go n).toNat ≤ 2 ^ 40 → (go c).toNat % 8 ≠ 0 → exec (.cpLin d a n c) s = .next (s.except ⟨0x06, 8, go c, 0⟩))) ∧
    (∀ w : Reg, (s.x w).toNat % 32 ≠ 0 → exec (.cpNd w) s = .next (s.except ⟨0x06, 32, s.x w, 0⟩)) ∧
    (∀ w : Reg, (s.x w).toNat % 32 = 0 → bits (s.x w) 48 16 ≠ 0xF → exec (.cpNd w) s = .next (s.except ⟨0x08, 0x05, s.x w, 0⟩)) ∧
    (∀ (w : Reg) (l : List Byte) (u : State), s.readWaybill (s.x w) = .ok (l, u) →
      let wb := parseWaybill l; let follows := field l 0x11 1 / 4 % 2 = 1
      (follows → s.part.hasMx = false → exec (.cpNd w) s = .next (s.except ⟨0x02, 0x14, 0, 0⟩)) ∧
      (¬ follows → waybillBad l = true → exec (.cpNd w) s = .next (s.except ⟨0x0E, 0x0A, 0, 0⟩)) ∧
      (∀ gen u', ¬ follows → waybillBad l = false → u.captureGen wb = .ok (gen, u') → HasRoom s .copy → NothingOwed s →
        ∃ t k, exec (.cpNd w) s = .next t ∧ CopyIssued s k (s.x w) false wb gen ∧ Joins s (withCopy u' k) t .copy none) ∧
      (∀ gen u' word tile d ty free, follows → s.part.hasMx = true → MayUseVec s → waybillBad l = false → wb.mx = some word →
        followStep word = some (tile, d, ty, free) → StepOk u tile.toNat wb.ma wb.k0.toNat d.toNat ty → u.captureGen wb = .ok (gen, u') →
        HasRoom s .copy → NothingOwed s → (u.mx.opened ≠ 16 ∨ u.mx.closed.length < s.depth .matrix) →
        let full := u.mx.opened = 16; let n := Bundle.planes (u.slot tile.toNat).tag.bundle
        ∃ t k l c, exec (.cpNd w) s = .next t ∧ CopyIssued s k (s.x w) false wb gen ∧ l.length = (if full then 1 else 0) ∧
          (∀ q ∈ l, q.body = .commit u.mx.next ∧ q.id = s.eng.nextId + 1 ∧ q.held = none ∧ q.via = s.x w ∧ q.pc = s.pc ∧ q.dropped = false) ∧
          let m := if full then batchClosed u.mx l else u.mx
          c.id = s.eng.nextId + 1 + l.length ∧ c.held = some k.id ∧ c.via = s.x w ∧ c.pc = s.pc ∧ c.dropped = false ∧
          c.body = .step ⟨tile.toNat, n, wb.ma, wb.k0.toNat, d.toNat, ty, free, s.st.bplane.toNat, m.next, m.opened, 0, 0⟩ ∧
          Join s (withVec (withCopy u' k) (slotsEmpty (withMx u.core.vec (stepJoined m c tile.toNat n)) tile.toNat n)) t
            ((.copy, none) :: l.map (fun _ => (.matrix, some u.mx.next)) ++ [(.matrix, some m.next)])))) ∧
  (∀ (s : State),
    (∀ mask, ∃ t, exec (.qFence mask) s = .next t ∧ Finishes s (withFence s mask) t 4) ∧
    (∀ mask, let f := fenceAt s mask; let placed := if s.core.atFence = none then withFence s mask else s
      let held := ∃ c ∈ s.outstanding, c.id < f.id ∧ Named s f c.queue c.core c.handle c.wid
      let fails (q : Queue) : Bool := mask.getLsbD (match q with | .copy => 0 | .matrix => 1 | .opt => 2 | .fabric => 3)
      let here := mask.getLsbD 1 = true → EngineHere s
      (¬ here → exec (.qFenceW mask) s = .next (s.except ⟨0x14, 0, 0, 0⟩)) ∧
      (here → held → exec (.qFenceW mask) s = .next (waitingAt placed f.id)) ∧
      (here → ¬ held → s.myFail fails = none → ∃ t, exec (.qFenceW mask) s = .next t ∧ t.core.atFence = none ∧ Acquires s placed t (fun r =>
        r.id < f.id ∧ Named s f r.queue r.core r.handle r.wid ∧ r.handle = s.core.me.handle ∧ r.wid = s.core.me.wid)) ∧
      (here → ¬ held → ∀ x, s.myFail fails = some x → ∃ u, exec (.qFenceW mask) s = .next (State.except u ⟨0x0E, x.status.setWidth 8, x.addr, x.via⟩) ∧
        u.core.sc = s.core.sc ∧ u.eng.fails = (Claims.reported s x).eng.fails)) ∧
    (∀ d, ∃ t, exec (.cpStat d false) s = .next t ∧ WritesX s t d (BitVec.ofNat 64 (s.countMine .copy)) 4) ∧
    (∀ d, s.myFail (fun q => q == .copy) = none → ∃ t, exec (.cpStat d true) s = .next t ∧ WritesX s t d 0 4) ∧
    (∀ d f, s.myFail (fun q => q == .copy) = some f →
      ∃ t, exec (.cpStat d true) s = .next t ∧ Finishes s ((Claims.reported s f).setX d (failedWord f)) t 4))

/-! ### Optimiser engine -/

/-- R180 to R182, R190 to R192: `opt.card`, `opt.step` and `opt.rout` add their command to the queue of the die, which sleeps at its depth;
`opt.wait` sleeps while more than n are outstanding, then acquires or reports; `opt.stat` reads the count, a step counter of a context that
the node was granted, or the earliest failure since the thread's last `opt.wait`. What a wait forgets follows log entry 101, its releases
follow log entry 78. That `opt.step` reports a failure at its own PC is the model's choice (log entry 118). -/
def Obligations.OptimiserCommands : Prop :=
  ∀ (s : State), let mine (q : Queue) : Bool := q == .opt
    (∀ (c : Reg) (l : List Byte) (u : State), (s.x c).toNat % 128 = 0 → s.readUnits (s.x c) 16 = .ok (l, u) →
      (cardBad l = true → exec (.optCard c) s = .next (s.except ⟨0x0E, 0x01, 0, 0⟩)) ∧
      (cardBad l = false → HasRoom s .opt → OptRoom s → NothingOwed s → ∃ t k, exec (.optCard c) s = .next t ∧
        OptIssued s k (s.x c) (.card (parseCard l)) ∧ Joins s (withOpt u k) t .opt none) ∧
      (cardBad l = false → ¬ HasRoom s .opt → exec (.optCard c) s = .next (s.setRun .asleep))) ∧
    (∀ c : Reg, (s.x c).toNat % 128 ≠ 0 → exec (.optCard c) s = .next (s.except ⟨0x06, 128, s.x c, 0⟩)) ∧
    (∀ c : Reg, HasRoom s .opt → OptRoom s → NothingOwed s → (s.x c).toNat ≤ 31 → ∃ t k, exec (.optStep c) s = .next t ∧
      OptIssued s k s.pc (.step (s.x c).toNat) ∧ Joins s (withOpt s k) t .opt none) ∧
    (∀ c : Reg, 31 < (s.x c).toNat → exec (.optStep c) s = .next (s.except ⟨0x0E, 0x09, 0, 0⟩)) ∧
    (∀ i a : Reg, HasRoom s .opt → OptRoom s → NothingOwed s → (s.x i).toNat ≤ 63 → ∃ t k, exec (.optRout i a) s = .next t ∧
      OptIssued s k (s.x a) (.rout (s.x i).toNat) ∧ Joins s (withOpt s k) t .opt none) ∧
    (∀ i a : Reg, 63 < (s.x i).toNat → exec (.optRout i a) s = .next (s.except ⟨0x0E, 0x09, 0, 0⟩)) ∧
    (∀ n : BitVec 7,
      (n.toNat < s.countMine .opt → exec (.optWait n) s = .next (s.setRun .asleep)) ∧
      (s.countMine .opt ≤ n.toNat → s.myFail mine = none → ∃ t, exec (.optWait n) s = .next t ∧ Acquires s (forgotten s) t (Performed s .opt)) ∧
      (s.countMine .opt ≤ n.toNat → ∀ f, s.myFail mine = some f → ∃ u,
        exec (.optWait n) s = .next (State.except u ⟨0x0E, f.status.setWidth 8, f.addr, f.via⟩) ∧ u.core.sc = s.core.sc ∧
        u.eng.fails = s.eng.fails.filter fun x => !(x.queue == .opt && x.handle == s.core.me.handle && x.wid == s.core.me.wid))) ∧
    (∀ d x, ∃ t, exec (.optStat d x 0) s = .next t ∧ WritesX s t d (BitVec.ofNat 64 (s.countMine .opt)) 4) ∧
    (∀ d x, (s.x x).toNat ≤ 31 → ∃ t, exec (.optStat d x 1) s = .next t ∧ WritesX s t d
      (if s.granted s.core.me.handle (s.x x).toNat = true then s.stepOf (s.core.id / s.part.coresPerDie) (s.x x).toNat else BitVec.allOnes 64) 4) ∧
    (∀ d x, ∃ t, exec (.optStat d x 2) s = .next t ∧
      WritesX s t d ((s.eng.optFails.find? fun f => f.handle == s.core.me.handle && f.wid == s.core.me.wid).elim 0 failedWord) 4)

namespace Sys2Proof.Claims

open Machine

/-! ### Itineraries -/

/-- A packet of the thread itself, and not of one of its commands. -/
def ownPacket (r : Req) : Prop :=
  match r.use with
  | .far cmd _ => cmd = none
  | .line _ _ => False
  | _ => True

/-- Every earlier access of the thread has been performed (R334). -/
abbrev AccessesDone (s : State) : Prop :=
  (∀ o ∈ s.mem.ops, s.ownOp o = false) ∧ ∀ r ∈ s.fab.reqs, s.mine r = true → ¬ ownPacket r

/-- An idle entry is due at a milestone (R324). -/
def dueAt (m : Nat) (e : ItEntry) : Bool := e.startedAt.isNone && decide (e.milestone ≤ m + e.lead)

/-- The entries due at a milestone started, in ascending index, with start numbers from `n` on (R324). -/
def started (m n : Nat) (l : List ItEntry) : List ItEntry :=
  l.mapIdx fun k e => if dueAt m e = true then { e with startedAt := some (n + (l.take k).countP (dueAt m)) } else e

/-- The porter once the node `h` with itinerary `i` has posted `m`: the first post of a value starts what is due (R324, R334). -/
def posted (p : Porter) (h m : Nat) (i : Itin) : Porter :=
  if i.reached.all (fun r => decide (r < m)) = true then
    { p with
      itins := p.itins.map fun x => if x.handle = h then { x with reached := some m, entries := started m p.starts i.entries } else x
      starts := p.starts + i.entries.countP (dueAt m) }
  else p

/-- The state with a porter and a milestone register. -/
def withPost (s : State) (p : Porter) (m : Word) : State :=
  { s with porter := p, core := { s.core with sc := { s.core.sc with st := { s.core.sc.st with milestone := m } } } }

/-- Entry `n` of itinerary `i` is a checked fetch due by `m` that is not done (R330). -/
def Missed (s : State) (i : Itin) (m n : Nat) : Prop :=
  ∃ e, i.entries[n]? = some e ∧ e.kind = .fetch ∧ e.nocheck = false ∧ e.milestone ≤ m ∧ s.entryState i n ≠ .done

/-- The porter of `s` with a new itinerary of `n` of the frames that are free (R321, R335), whose entries due at milestone 0 start. -/
def bound (s : State) (h : Nat) (va : Word) (es : List ItEntry) (n : Nat) : Porter :=
  let p := s.porter; let f := takeFrames n s.freeFrames
  { p with
    itins := (p.itins ++ [(⟨h, va, es, none, n, f.1⟩ : Itin)]).map fun x => if x.handle = h then { x with entries := started 0 p.starts es } else x
    hbmFree := f.1.foldl (fun l x => cutFrames x.1 x.2 l) p.hbmFree
    starts := p.starts + es.countP (dueAt 0) }

/-- The state with the `itin` register. -/
def withItin (s : State) (w : Word) : State :=
  { s with core := { s.core with sc := { s.core.sc with st := { s.core.sc.st with itin := w } } } }

/-! ### Claims -/

/-- The thread acts in slot `g`, one of those that its node's record asks for, as the member `m`, under the descriptor that is bound to its
node (R395). -/
def Acts (s : State) (g : BitVec 4) (m : ClaimMember) : Prop :=
  (∃ n, s.node s.core.me.handle = some n ∧ g.toNat < n.record.cgslots) ∧ ∃ grp x, s.slotGroup g.toNat = some grp ∧
    s.member grp.tag (if grp.domain = true then packageEp else coreEp s.core.id) = some x ∧
    m = { x with group := grp }

/-- A handle that the member does not know can no longer become known: its proposal must have arrived, and has been taken in (R384, R398). -/
abbrev Gone (s : State) (m : ClaimMember) (h : Word) : Prop := s.handlePassed h (m.group.lmax + m.group.eps) = true ∧ s.overdue m = false

/-- The claim instructions with their slots. -/
def claimSlot : Instr → Option (BitVec 4)
  | .clProp _ _ _ g => some g
  | .clObj _ g => some g
  | .clWait _ _ g => some g
  | .clStat _ _ _ g => some g
  | .clHold _ g => some g
  | .clFree _ g => some g
  | _ => none

/-- What the thread's own earlier and later accesses see of a TAKEN claim (R246). -/
def acquired (s : State) (c : Claim) : State := { s with core := { s.core with seen := s.core.seen ++ c.seen } }

/-- A member changed. -/
def withMember (s : State) (m : ClaimMember) (f : ClaimMember → ClaimMember) : State :=
  { s with claims := { s.claims with members := s.claims.members.map fun x => if x.group.tag = m.group.tag ∧ x.ep = m.ep then f x else x } }

/-! ### Fabric -/

/-- The FAB instructions (R368 to R373). -/
def fabInstr : Instr → Bool
  | .tokSet _ _ _ => true
  | .tokClr _ => true
  | .fabStat _ _ => true
  | .mcSt _ _ _ _ => true
  | .mcLdr _ _ _ _ _ => true
  | _ => false

/-- The packets of a load-and-reduce of number `id` (R366, R371): one read of `vl` elements from each member, in order. -/
def LdrSent (s t : State) (id : Nat) (off : Word) (size : Nat) (l : List Member) : Prop :=
  ∃ reqs, t.fab.reqs = s.fab.reqs ++ reqs ∧ reqs.length = l.length ∧ ∀ n r m, reqs[n]? = some r → l[n]? = some m →
    r.use = .member id n ∧ r.packet.kind = 4 ∧ r.packet.target = m.pkg ∧ r.packet.token = m.token ∧ r.packet.offset = off ∧
      r.packet.count = s.vl ∧ r.packet.esize = (if size = 4 then 2 else 1) ∧ r.packet.stride = BitVec.ofNat 64 size ∧ r.packet.indexed = false ∧
      r.packet.seq = s.core.seq + BitVec.ofNat 32 n ∧ r.core = s.core.id ∧ r.pc = s.pc

/-- `mc.ldr` may issue: its unit, the vector state, its register, its length and its group of at most 56 members (R371). -/
abbrev LdrOk (s : State) (v : BitVec 6) (g : Reg) (l : List Member) : Prop :=
  s.part.hasFab = true ∧ MayUseVec s ∧ v.toNat < s.nregs ∧ s.vl ≤ 256 ∧ s.group (s.x g).toNat = some l ∧ l.length ≤ 56

/-- The load-and-reduce that the instruction at the PC starts. -/
def ldrJob (s : State) (v : BitVec 6) (d : Reg) (op : LdrOp) (ty : LdrTy) (waits : Bool) (n : Nat) : LdrJob :=
  { id := s.eng.nextId, handle := s.core.me.handle, wid := s.core.me.wid, core := s.core.id, pc := s.pc, v := v, s := d, op := op, ty := ty,
    vl := s.vl, waits := waits, replies := List.replicate n none }

/-- Bytes of an element of `mc.ldr`. -/
def ldrBytes : LdrTy → Nat
  | .f32 => 4
  | .f16 => 2
  | .bf16 => 2

end Sys2Proof.Claims

/-! ### Itineraries -/

/-- R324, R330, R334: `mile` waits for the thread's accesses, posts, starts the entries due, and raises schedule miss, with the post
standing, for the lowest checked fetch that is due and not done; a value that is no milestone or goes back is illegal. R333, R335 to R337:
`it.bind` binds an itinerary of valid entries to the node and gives it frames; `it.wait` sleeps until its entry is done or failed; `it.stat`
reads the node's post, its frames, or an entry. The order of the checks follows log entry 45. -/
def Obligations.ItineraryInstructions : Prop :=
  (∀ (s : State) (a : Reg), AccessesDone s →
    let m := s.x a; let h := s.core.me.handle
    let fits := m.toNat ≤ 0xFFFFFFFE ∧ (s.st.milestone = 0xFFFFFFFF ∨ s.st.milestone.toNat ≤ m.toNat)
    (¬ fits → ∃ e : Exc, e.cls = 0x01 ∧ e.detail = 0x06 ∧ exec (.mile a) s = .next (s.except e)) ∧
    (fits → s.itinOf h = none → ∃ t, exec (.mile a) s = .next t ∧ InSequence s t 4 ∧ SyncFrame (withPost s s.porter m) t) ∧
    (fits → ∀ i, s.itinOf h = some i →
      let u := withPost s (posted s.porter h m.toNat i) m
      ∃ i', u.itinOf h = some i' ∧
        ((∀ n, ¬ Missed u i' m.toNat n) → ∃ t, exec (.mile a) s = .next t ∧ InSequence s t 4 ∧ SyncFrame u t) ∧
        (∀ n, Missed u i' m.toNat n → (∀ k, k < n → ¬ Missed u i' m.toNat k) → ∃ v e, i'.entries[n]? = some e ∧
          exec (.mile a) s = .next (State.except v ⟨0x0A,
            if u.entryState i' n = .failed then (e.cause.getD 1).setWidth 8 else 1, BitVec.ofNat 64 n, 0⟩) ∧ v.pc = s.pc ∧ SyncFrame u v))) ∧
  (∀ (s : State), let h := s.core.me.handle; let raises (i : Instr) (d : BitVec 8) : Prop := exec i s = .next (s.except ⟨0x0E, d, 0, 0⟩)
    (∀ a n : Reg, let va := s.x a; let c := (s.x n).toNat
      (va.toNat % 32 ≠ 0 → exec (.itBind a n) s = .next (s.except ⟨0x06, 32, va, 0⟩)) ∧
      (va.toNat % 32 = 0 → (c = 0 ∨ 4096 < c) → raises (.itBind a n) 0x09) ∧
      (va.toNat % 32 = 0 → 1 ≤ c → c ≤ 4096 → ∀ i, s.itinOf h = some i →
        (i.base = va ∧ i.entries.length = c → ∃ t, exec (.itBind a n) s = .next t ∧ Finishes s (withItin s va) t 4) ∧
        (¬ (i.base = va ∧ i.entries.length = c) → raises (.itBind a n) 0x11)) ∧
      (va.toNat % 32 = 0 → 1 ≤ c → c ≤ 4096 → s.itinOf h = none → ∀ l u, s.readUnits va (4 * c) = .ok (l, u) →
        let pool := ((s.node h).map (·.pool)).getD 256; let all := (s.porter.itins.map fun i => i.entries.length).sum + c
        (parseEntries c l = none → raises (.itBind a n) 0x10) ∧
        (∀ es, parseEntries c l = some es →
          (65536 < all → raises (.itBind a n) 0x12) ∧
          (all ≤ 65536 → countFrames u.freeFrames < pool → raises (.itBind a n) 0x18) ∧
          (all ≤ 65536 → pool ≤ countFrames u.freeFrames → ∃ t, exec (.itBind a n) s = .next t ∧
            Finishes s (withItin (State.setItin { u with porter := bound u h va es pool } h va) va) t 4)))) ∧
    (∀ (i : Reg), s.itinOf h = none → raises (.itWait i) 0x13 ∧ ∀ d, raises (.itStat d i) 0x13) ∧
    (∀ (i : Reg) (it : Itin), s.itinOf h = some it → let n := (s.x i).toNat
      (it.entries.length ≤ n → raises (.itWait i) 0x09) ∧
      (n < it.entries.length → (s.entryState it n = .idle ∨ s.entryState it n = .moving) → exec (.itWait i) s = .next (s.setRun .asleep)) ∧
      (n < it.entries.length → (s.entryState it n = .done ∨ s.entryState it n = .failed) →
        ∃ t, exec (.itWait i) s = .next t ∧ InSequence s t 4 ∧ SyncFrame s t) ∧
      (∀ d, s.x i = BitVec.allOnes 64 →
        ∃ t, exec (.itStat d i) s = .next t ∧ WritesX s t d (BitVec.ofNat 64 (it.reached.getD 0xFFFFFFFF)) 4) ∧
      (∀ d, s.x i = BitVec.allOnes 64 - 1 → ∃ t, exec (.itStat d i) s = .next t ∧
        WritesX s t d (BitVec.ofNat 32 it.granted ++ BitVec.ofNat 32 (countFrames it.free)) 4) ∧
      (∀ d, s.x i ≠ BitVec.allOnes 64 → s.x i ≠ BitVec.allOnes 64 - 1 → it.entries.length ≤ n → raises (.itStat d i) 0x09) ∧
      (∀ d e, s.x i ≠ BitVec.allOnes 64 → s.x i ≠ BitVec.allOnes 64 - 1 → it.entries[n]? = some e → ∃ t w, exec (.itStat d i) s = .next t ∧
        WritesX s t d w 4 ∧
        bits w 62 2 = (match s.entryState it n with | .idle => 0 | .moving => 1 | .done => 2 | .failed => 3) ∧
        bits w 56 6 = (if s.entryState it n = .failed then e.cause.getD 0 else 0) ∧ bits w 32 24 = 0 ∧
        bits w 16 16 = BitVec.ofNat 16 e.moved.length ∧ bits w 0 16 = BitVec.ofNat 16 (firstUnmoved e.moved e.count 0))))

/-! ### Claims -/

/-- R387 to R389, R393, R395 to R399: each claim instruction, for a member that the slot names; without one it raises NOGROUP. `cl.prop`
opens a claim with a handle of t0 and endpoint and sends the proposal, or answers all ones at a bound; `cl.obj` objects up to the deadline;
`cl.wait` sleeps until the claim closes; `cl.hold` and `cl.free` file and end a standing objection, after every proposal that must have
arrived at the member by then. Times, members and bounds follow log entries 46 to 50, 52 and 106. -/
def Obligations.ClaimInstructions : Prop :=
  ∀ (s : State), let raises (i : Instr) (d : BitVec 8) : Prop := exec i s = .next (s.except ⟨0x0E, d, 0, 0⟩)
    (∀ i g, claimSlot i = some g → (∀ m, ¬ Acts s g m) → raises i 0x16) ∧
    (∀ (g : BitVec 4) (m : ClaimMember), Acts s g m →
      (∀ h key val : Reg, AccessesDone s → NothingOwed s →
        let full := m.group.quota ≤ m.openOwn ∨ 4096 ≤ s.openClaims; let t0 := s.newT0 m.ep
        let hd : Word := BitVec.ofNat 64 (t0 % 2 ^ 48 * 65536 + m.ep.toNat); let u := (s.sync.propose m ((s.x key).setWidth 16) (s.x val) (s.cwin g)).2
        (full → ∃ t, exec (.clProp h key val g) s = .next t ∧ InSequence s t 4 ∧ SyncFrame (s.setX h (BitVec.allOnes 64)) t) ∧
        (¬ full → (∃ t, exec (.clProp h key val g) s = .next t ∧ Finishes s (u.setX h hd) t 4) ∧
          (∃ f ∈ u.claims.flights, f.objection = false ∧ f.dests = (m.group.members.map (·.1)).filter (· != m.ep) ∧
            f.msg = ⟨m.ep, m.group.tag, hd, (s.x key).setWidth 16, (s.cwin g).setWidth 32, s.x val, t0⟩) ∧
          (m.find hd = none → ∃ m' ∈ u.claims.members, m'.group.tag = m.group.tag ∧ m'.ep = m.ep ∧ ∃ c ∈ m'.claims,
            c.handle = hd ∧ c.t0 = t0 ∧ c.w = ((s.cwin g).setWidth 32 : BitVec 32).toNat ∧ c.key = (s.x key).setWidth 16 ∧ c.payload = s.x val ∧
              c.who = m.ep ∧ c.outcome = none))) ∧
      (∀ h : Reg, s.x h = BitVec.allOnes 64 → raises (.clObj h g) 0x09 ∧ ∀ d, raises (.clWait d h g) 0x09 ∧ raises (.clStat d h false g) 0x09) ∧
      (∀ h : Reg, s.x h ≠ BitVec.allOnes 64 → s.knownClaim m (s.x h) = none →
        let gone := Gone s m (s.x h)
        (gone → raises (.clObj h g) 0x14 ∧ ∀ d, raises (.clWait d h g) 0x14) ∧
        (¬ gone → exec (.clObj h g) s = .next (s.setRun .waiting) ∧ ∀ d, exec (.clWait d h g) s = .next (s.setRun .asleep)) ∧
        (∀ d, ∃ t v, exec (.clStat d h false g) s = .next t ∧ WritesX s t d v 4 ∧ (gone → v = 15) ∧ (¬ gone → v = 0))) ∧
      (∀ (h : Reg) (c : Claim), s.x h ≠ BitVec.allOnes 64 → s.knownClaim m (s.x h) = some c →
        let late := (c.t0 : Int) + c.w - m.group.lmax - m.group.eps < (s.ftime : Int)
        (late → exec (.clObj h g) s = .next (s.except ⟨0x0D, 0x01, BitVec.ofNat 64 s.ftime, 0⟩)) ∧
        (¬ late → ∃ t, exec (.clObj h g) s = .next t ∧ Finishes s (s.sendObjection m c.handle c.key s.ftime) t 4) ∧
        (c.outcome = none → ∀ d, exec (.clWait d h g) s = .next (s.setRun .asleep) ∧
          ∃ t, exec (.clStat d h false g) s = .next t ∧ WritesX s t d 0 4) ∧
        (∀ o, c.outcome = some o → let u := if o = 1 then acquired s c else s
          (∀ d, ∃ t, exec (.clStat d h false g) s = .next t ∧ Finishes s (u.setX d (o.setWidth 64)) t 4) ∧
          (∀ d va, c.effectFailed = some va → ∃ v, exec (.clWait d h g) s = .next (State.except v ⟨0x0E, 0x15, va, 0⟩) ∧ v.pc = s.pc ∧
            SyncFrame u v) ∧
          (∀ d, c.effectFailed = none → ∃ t, exec (.clWait d h g) s = .next t ∧ InSequence s t 4 ∧ SyncFrame (u.setX d (o.setWidth 64)) t))) ∧
      (∀ d h : Reg, ∃ t, exec (.clStat d h true g) s = .next t ∧ WritesX s t d (BitVec.ofNat 64 m.openOwn) 4) ∧
      (∀ key : Reg, let k : BitVec 16 := (s.x key).setWidth 16; let filed := ∃ x ∈ m.holds, x.1 = k
        (s.overdue m = true → exec (.clHold key g) s = .next (s.setRun .waiting) ∧ exec (.clFree key g) s = .next (s.setRun .waiting)) ∧
        (s.overdue m = false → (filed → ∃ t, exec (.clHold key g) s = .next t ∧ Finishes s s t 4) ∧
        (¬ filed → s.holdCount m.ep < 64 → ∃ t, exec (.clHold key g) s = .next t ∧
          Finishes s (withMember s m fun x => { x with holds := x.holds ++ [(k, s.core.me.handle)] }) t 4) ∧
        (¬ filed → 64 ≤ s.holdCount m.ep → raises (.clHold key g) 0x17) ∧
        (∃ t, exec (.clFree key g) s = .next t ∧ Finishes s (withMember s m fun x => { x with holds := x.holds.filter fun y => y.1 != k }) t 4))))

/-! ### Fabric -/

/-- R76, R365, R366, R368 to R373: the FAB instructions, which raise unit absent on a part without a fabric. `tok.set` and `tok.clr` write
the core's token table in supervisor mode; `fab.stat` reads the queue, a failure, the package and its clock, or the epoch; `mc.st` adds its
line to the fabric queue; `mc.ldr` sends one read to each member. `mc.ldr` and an unassigned group follow log entries 53 and 54. -/
def Obligations.FabricInstructions : Prop :=
  (∀ (s : State) (i : Instr), s.part.hasFab = false → s.myLdr = none → fabInstr i = true → exec i s = .next (s.except ⟨0x02, 0x1A, 0, 0⟩)) ∧
  ∀ (s : State), s.part.hasFab = true →
    (∀ i t w : Reg, s.core.sup.mode = .supervisor → let n := (s.x i).toNat; let v := s.x w
      let fits := n ≤ 4095 ∧ bits v 52 12 = 0 ∧ bits v 10 6 = 0 ∧ (bits v 0 10).toNat ≤ 767
      (fits → ∃ u, exec (.tokSet i t w) s = .next u ∧ Finishes s { s with fab := { s.fab with
        tokens := (n, ⟨bits v 0 10, bits v 16 36, s.x t⟩) :: s.fab.tokens.filter fun x => x.1 != n } } u 4) ∧
      (¬ fits → exec (.tokSet i t w) s = .next (s.except ⟨0x0E, 0x09, 0, 0⟩))) ∧
    (∀ i : Reg, s.core.sup.mode = .supervisor → let n := (s.x i).toNat
      let u : State := { s with fab := { s.fab with tokens := s.fab.tokens.filter fun x => x.1 != n } }
      let used := ∃ r ∈ s.fab.reqs, r.win = some n
      (4095 < n → exec (.tokClr i) s = .next (s.except ⟨0x0E, 0x09, 0, 0⟩)) ∧
      (n ≤ 4095 → used → exec (.tokClr i) s = .next (u.setRun .waiting)) ∧
      (n ≤ 4095 → ¬ used → ∃ t, exec (.tokClr i) s = .next t ∧ Finishes s u t 4)) ∧
    (∀ i t w : Reg, s.core.sup.mode = .user → (∃ e : Exc, e.cls = 0x01 ∧ e.detail = 0x07 ∧ exec (.tokSet i t w) s = .next (s.except e)) ∧
      ∃ e : Exc, e.cls = 0x01 ∧ e.detail = 0x07 ∧ exec (.tokClr i) s = .next (s.except e)) ∧
    (∀ d, ∃ t, exec (.fabStat d 0) s = .next t ∧ WritesX s t d (BitVec.ofNat 64 (s.countMine .fabric)) 4) ∧
    (∀ d, NothingOwed s → (s.myFail (fun q => q == .fabric) = none → ∃ t, exec (.fabStat d 1) s = .next t ∧ WritesX s t d 0 4) ∧
      ∀ f, s.myFail (fun q => q == .fabric) = some f →
        ∃ t, exec (.fabStat d 1) s = .next t ∧ Finishes s ((Claims.reported s f).setX d (failedWord f)) t 4) ∧
    (∀ d, ∃ t, exec (.fabStat d 2) s = .next t ∧
      WritesX s t d (BitVec.ofNat 64 (Config.packageNumber.toNat + if s.fab.timeFlag = true then 2 ^ 63 else 0)) 4) ∧
    (∀ d, ∃ t, exec (.fabStat d 3) s = .next t ∧ WritesX s t d (BitVec.ofNat 64 (s.ftime / 2 ^ 36 % 4096)) 4) ∧
    (∀ (g a k : Reg) (lenc : BitVec 5) (line : List Byte) (u : State) (l : List Member), s.readUnits (s.x a) (lenc.toNat + 1) = .ok (line, u) →
      s.group (s.x g).toNat = some l → l.length ≤ 512 → (s.x k).toNat % 8 = 0 → s.writable (ackSpots (s.x k) (8 + l.length)) = .ok () →
        HasRoom s .fabric → NothingOwed s →
      ∃ t j, exec (.mcSt g a k lenc) s = .next t ∧ j.id = s.eng.nextId ∧ j.handle = s.core.me.handle ∧ j.wid = s.core.me.wid ∧ j.core = s.core.id ∧
        j.pc = s.pc ∧ j.gid = (s.x g).toNat ∧ j.off = s.x (g + 1) ∧ j.ack = s.x k ∧ j.line = line ∧ j.started = false ∧
        Joins s { u with fab := { u.fab with jobs := u.fab.jobs ++ [j] } } t .fabric none) ∧
    (∀ (g a k : Reg) (lenc : BitVec 5) (x : List Byte × State), s.readUnits (s.x a) (lenc.toNat + 1) = .ok x → s.group (s.x g).toNat = none →
      (s.x k).toNat % 8 = 0 → s.writable (ackSpots (s.x k) 8) = .ok () → exec (.mcSt g a k lenc) s = .next (s.except ⟨0x15, 0x07, 0, 0⟩)) ∧
    (∀ (v : BitVec 6) (d g : Reg) (op : LdrOp) (ty : LdrTy) (l : List Member), s.myLdr = none → LdrOk s v g l →
      let free := s.empty (.v v) = false ∨ (s.vreg (.v v)).failed ≠ none; let waits := s.st.udeleg.getLsbD 21
      (s.vl = 0 → ∃ t, exec (.mcLdr v d g op ty) s = .next t ∧ WritesX s t d 0 4) ∧
      (s.vl ≠ 0 → ¬ free → exec (.mcLdr v d g op ty) s = .next (s.setRun .waiting)) ∧
      (s.vl ≠ 0 → free → ∃ t, exec (.mcLdr v d g op ty) s = .next t ∧ LdrSent s t s.eng.nextId (s.x (g + 1)) (ldrBytes ty) l ∧
        t.fab.ldrs = s.fab.ldrs ++ [ldrJob s v d op ty waits l.length] ∧ t.core.seq = s.core.seq + BitVec.ofNat 32 l.length ∧ SameMemory s t ∧
        (∀ r, t.x r = s.x r) ∧ (∀ r, r ≠ .v v → t.vreg r = s.vreg r) ∧
        (waits = true → t.core.run = .waiting ∧ t.pc = s.pc ∧ t.vreg (.v v) = s.vreg (.v v)) ∧
        (waits = false → InSequence s t 4 ∧ s.core.run = t.core.run ∧ (t.vreg (.v v)).tag = { Tag.of .f32 0 with full := false } ∧
          (d ≠ 0 → t.core.xpend.getLsbD d.toNat = true)))) ∧
    (∀ (v : BitVec 6) (d g : Reg) (op : LdrOp) (ty : LdrTy) (j : LdrJob), s.myLdr = some j →
      ((∃ r ∈ j.replies, r = none) → exec (.mcLdr v d g op ty) s = .next (s.setRun .waiting)) ∧
      ((∀ r ∈ j.replies, r ≠ none) →
        let done : State := ({ s with fab := { s.fab with ldrs := s.fab.ldrs.filter fun x => x.id != j.id } } : State).setVreg (.v j.v)
          ((s.vreg (.v j.v)).write (Tag.of .f32 0) 32 0 (j.reduce.map fun v => ⟨v, []⟩))
        ∃ t, Finishes s (done.setX j.s j.word) t 4 ∧
          exec (.mcLdr v d g op ty) s = .next (if j.excluded = .ok then t else
            State.deliver (if s.core.sup.mode = .user then t.countIssue else t) ⟨0x15, (MStatus.code j.excluded).setWidth 8, 0, 0⟩ (s.pc + 4))))

namespace Sys2Proof.Claims

open Machine

/-! ### Threads and dispatch -/

/-- The core with another state of running. -/
def runs (s : State) (r : Run) : State := { s with core := { s.core with run := r } }

/-- The active core has a thread, which may sleep at `halt` (R31). -/
abbrev Seated (s : State) : Prop := s.core.run = .running ∨ s.core.run = .waiting ∨ s.core.run = .asleep ∨ s.core.run = .halting

/-- The thread of the active core is in user mode (R306). -/
abbrev UserThread (s : State) : Prop := s.core.sup.mode = .user ∧ Seated s

/-- The thread of the active core sleeps (R30, R31). -/
abbrev Sleeps (s : State) : Prop := s.core.run = .asleep ∨ s.core.run = .halting

/-- The state whose thread has a pre-emption request that is `n` instructions old. -/
def requested (s : State) (n : Option Nat) : State := { s with core := { s.core with request := n } }

/-- The innkeeper takes overrun of detail `d` at the PC, and the request is gone (R279, R307, R308). -/
def overrunAt (s : State) (d : BitVec 8) : State :=
  { s with core := { s.core with
      run := .running, via := 0, request := none, slept := decide (Sleeps s), atTrap := true, sc := { s.core.sc with pc := s.core.sup.svec },
      sup := { s.core.sup with mode := .supervisor, sepc := s.pc, scause := causeWord ⟨0x18, d, 0, 0⟩ ||| 0x4000000000000000, saddr := 0, svia := 0 } } }

/-- The failures of the commands of a matrix queue that stands when the innkeeper ends its thread: with the class of the fault that stopped it,
or that of the exception which ends the thread (R31, R34, R294) (log entry 112). -/
def queueFails (s : State) (ended : Bool) : List CmdFail :=
  if ended = true ∧ s.core.sup.vown = s.core.me.image then
    s.mx.queue.map fun c => ⟨c.id, .matrix, c.handle, c.wid, 0x06, (s.mx.fault.map (·.cls)).getD (bits s.core.sup.scause 8 8), 0, 0, c.via⟩
  else []

/-- The thread has retired: its node counts it, with its class when the innkeeper has ended it, its core is free, and nobody owns its vector
state (R31, R34, R287). -/
def Retired (s t : State) (ended : Bool) : Prop :=
  t.core.run = .idle ∧ t.core.sup.mode = .user ∧ t.core.sc = s.core.sc ∧ t.core.me = s.core.me ∧ SameMemory s t ∧ t.core.region ∉ t.mem.openRegions ∧
    t.core.sup.vown = (if s.core.sup.vown = s.core.me.image then 0 else s.core.sup.vown) ∧ t.core.tlb = s.core.tlb ∧
    t.core.vec = withMx s.core.vec t.mx ∧ (ended = false → t.mx = s.mx) ∧ (ended = true → s.core.sup.vown = s.core.me.image → t.mx = .reset) ∧
    t.eng.fails = s.eng.fails ++ queueFails s ended ∧ t.fab = s.fab ∧ t.claims = s.claims ∧ t.porter = s.porter ∧ t.host = s.host ∧
      t.grants = s.grants ∧ t.streams = s.streams ∧
    t.sched.nodes.length = s.sched.nodes.length ∧
    ∀ n ∈ s.sched.nodes, ∃ n' ∈ t.sched.nodes, n'.handle = n.handle ∧ n'.record = n.record ∧
      (n.handle ≠ s.core.me.handle → n' = n) ∧
      (n.handle = s.core.me.handle → n'.retired = n.retired + 1 ∧
        n'.ended = if ended = true ∧ n.ended = none then some (bits s.core.sup.scause 8 8, s.core.me.wid) else n.ended)

/-- What halts, or is ended, deals with no other thread's image and with no matrix commands in its own first (R31, R314). -/
abbrev EndsHere (s : State) : Prop := s.savedWork = false ∧ s.unsettled = false

/-- No frame of a vector stack of the node was taken for it, so that its end leaves the page tables as they are. -/
abbrev NoStackFrames (s : State) (h : Nat) : Prop := ∀ a ∈ s.mem.allots, a.handle = h → a.frames = []

/-- The completion store of a node is none, or names no fabric window. -/
abbrev DoneNear (s : State) (n : Node) : Prop :=
  n.record.done = 0 ∨ ∀ win o, Machine.locate s.part s.mem (cmdSpace n.root n.handle (n.record.threads - 1)) n.record.done 8 .store ≠ .ok (.fabric win o)

/-- The completion word of a node (R32, R287). -/
def completionWord (n : Node) : Word :=
  match n.ended with
  | none => n.record.doneval
  | some (c, w) => 1#1 ++ 0x0B#7 ++ c ++ BitVec.ofNat 48 w

/-- An image of the resident thread holds its PC, its `x` registers and its predicates in the scalar section (R312). -/
def ImageHolds (s t : State) : Prop :=
  let a := s.core.me.image.toNat
  t.mem.hbm.read (a + 0x10) 8 = s.pc.toNat ∧ (∀ r : Reg, t.mem.hbm.read (a + 0xE0 + 8 * r.toNat) 8 = (s.x r).toNat) ∧
    t.mem.hbm.read (a + 0xBE0) 1 = s.core.sc.p.toNat ∧ (∀ q, q < a ∨ a + 0x1400 ≤ q → t.mem.hbm.get q = s.mem.hbm.get q)

/-! ### Time and errors -/

/-- A breach notice originates at this package now: its own store has it, and it leaves for the others (R386). -/
def breachSent (s : State) : State :=
  { s with claims := { s.claims with breaches := s.claims.breaches ++ [s.ftime], sentBreaches := s.claims.sentBreaches ++ [breachNotice s.ftime] } }

/-- The state with another fabric side. -/
def withFab (s : State) (f : Fab) : State := { s with fab := f }

/-- The list with `x`, once. -/
def including (x : Nat) (l : List Nat) : List Nat := if l.contains x = true then l else x :: l

/-! ### Engines -/

/-- The command at the head of the matrix queue, which nothing holds back (R200, R206, R223, R226). -/
abbrev MxAtHead (s : State) (c : MxCmd) (rest : List MxCmd) : Prop :=
  s.mx.queue = c :: rest ∧ s.mxRuns = true ∧ s.mx.fault = none ∧ s.mx.holds = false ∧ (c.held = none ∨ c.dropped = true) ∧
    s.fenced c.id = false

/-- A command still to come empties the tile at `base` (R202). -/
def TileAwaited (m : Mx) (rest : List MxCmd) (base : Nat) : Prop :=
  (∃ x ∈ m.slots, x.base = base) ∨ ∃ c ∈ rest, ∃ w, c.body = .zero base w

/-- The matrix queue without its head. -/
def mxDone (s : State) (rest : List MxCmd) : Mx := { s.mx with queue := rest }

/-- The state whose matrix engine has stopped at a fault (R206, R207). -/
def mxStoppedAt (s : State) (e : Exc) (at' : Word) : State :=
  withVec s { s.core.vec with mxprog := at' ||| 3, mx := { s.mx with fault := some e } }

/-- AddProduct of R205 for one element: the old value, its tangents, A with its tangents, B with its seeds. -/
def productAdded (old : Nat) (tan : List Nat) (a : MxNum) (da : List MxNum) (b : MxNum) (db : Nat → MxNum) (part : Nat) : Nat :=
  let v := addProduct old a b
  if part = 0 then v
  else if (FFmt.f32.val v).isNan = true then 0x7FC00000
  else addProduct (addProduct (tan.getD (part - 1) 0) (da.getD (part - 1) (.lin (FFmt.f32.val 0))) b) a (db (part - 1))

/-- The stop point of a step (R206). -/
def progressOf (st : MxStep) : Word :=
  BitVec.ofNat 64 (st.batch.toNat * 2 ^ 48) ||| BitVec.ofNat 64 (st.index * 2 ^ 44 + st.done * 2 ^ 24 + st.row * 2 ^ 10)

/-- The head of the copy queue, which no fence holds back. -/
abbrev CpAtHead (s : State) (c : CpCmd) (rest : List CpCmd) : Prop := s.core.copy = c :: rest ∧ s.fenced c.id = false

/-- The copy queue changed. -/
def withCopies (s : State) (l : List CpCmd) : State := { s with core := { s.core with copy := l } }

/-- The state with one failure more of a command. -/
def withFail (s : State) (f : CmdFail) : State := { s with eng := { s.eng with fails := s.eng.fails ++ [f] } }

/-- The next element of a copy command can be copied: aligned, mapped, permitted, with no race and no error, from `a` to `d` (R220, R221). -/
abbrev Copyable (s : State) (c : CpCmd) (a d : Loc) : Prop :=
  let p := c.wb.addrs c.count; let w := c.wb.esize; let m := noteAccess s.mem (s.cpAgent c) false a w
  c.count < c.wb.total ∧ c.failed = none ∧ a.isFabric = false ∧ d.isFabric = false ∧ p.1.toNat % w = 0 ∧ p.2.toNat % w = 0 ∧
    Machine.locate s.part s.mem c.space p.1 w .load = .ok a ∧
    raceCheck s.part s.mem (s.cpAgent c) false a w p.1 = .ok () ∧ badAt s.mem a = none ∧ s.core.copyBad = false ∧
    Machine.locate s.part m c.space p.2 w .store = .ok d ∧ raceCheck s.part m (s.cpAgent c) true d w p.2 = .ok () ∧
    ∀ i, i < w → ∀ x ∈ c.before, x.1 ≠ Loc.up a i

/-- No step of any matrix queue is held by the command: its waybill has no follow-on (R223). -/
abbrev NoFollow (s : State) (c : CpCmd) : Prop :=
  (∀ k ∈ s.cores, ∀ q ∈ k.vec.mx.queue, q.held ≠ some c.id) ∧ ∀ x ∈ s.sched.vimages, ∀ q ∈ x.vec.mx.queue, q.held ≠ some c.id

/-- One element of the command has been copied: `w` bytes, and nothing else of memory or of the thread. -/
def Copied (s t : State) (c : CpCmd) (rest : List CpCmd) (a d : Loc) : Prop :=
  Stored t d c.wb.esize (readLoc s.mem a c.wb.esize) ∧ SameMemoryBut s t d c.wb.esize ∧ t.core.sc = s.core.sc ∧ t.core.vec = s.core.vec ∧
    ∃ c', t.core.copy = c' :: rest ∧ c' = { c with started := true, count := c.count + 1, before := c'.before }

/-- The atomic add of `cp.lin` can be made at `l` (R225). -/
abbrev CanAdd (s : State) (c : CpCmd) (l : Loc) : Prop :=
  Machine.locate s.part s.mem c.space c.wb.done 8 .atomic = .ok l ∧
    raceCheck s.part s.mem { s.cpAgent c with strong := true, scope := .core } true l 8 c.wb.done = .ok () ∧ badAt s.mem l = none

/-- What the fabric has answered to the command of a thread that opened a region is used up (R349). -/
def answersUsed (s : State) (handle wid region : Nat) : State :=
  { s with fab := { s.fab with far := s.fab.far.filter fun x => !(x.handle == handle && x.wid == wid && x.cmd == some region) } }

/-- Status and class of a failed access of a command: uncorrectable data, here or at the target of a fabric window, is DATA (R189, R221) (log
entry 94). -/
def StatusIs (e : Exc) (st : BitVec 7) (cl : BitVec 8) : Prop :=
  let data := e.cls = 0x11 ∨ (e.cls = 0x15 ∧ e.detail = 0x05)
  (data → st = 0x07 ∧ cl = 0) ∧ (¬ data → st = 0x06 ∧ cl = e.cls)

/-- A completion store of `v` at `va` can be made at `l` (R189, R221). -/
abbrev CanStore (s : State) (sp : Space) (ag : Agent) (va : Word) (sc : Scope) (l : Loc) : Prop :=
  Machine.locate s.part s.mem sp va 8 .store = .ok l ∧ raceCheck s.part s.mem { ag with strong := true, scope := sc } true l 8 va = .ok ()

/-- The head of the optimiser queue of the die that the step names. -/
abbrev OptAtHead (s : State) (d : BitVec 3) (c : OptCmd) : Prop :=
  s.choice = .die d ∧ s.eng.opt.find? (fun x => x.die == d.toNat) = some c ∧ s.fenced c.id = false

/-- The state without a command in the optimiser queues, and without what came for it. -/
def optDone (s : State) (c : OptCmd) : State :=
  answersUsed { s with eng := { s.eng with opt := s.eng.opt.filter fun x => x.id != c.id } } c.handle c.wid c.region

/-- The state with one failure more of an optimiser command, which `opt.stat` shows as well (R191). -/
def optFailed (s : State) (f : CmdFail) : State :=
  { s with eng := { s.eng with fails := s.eng.fails ++ [f], optFails := s.eng.optFails ++ [f] } }

/-- The state whose optimiser command `id` keeps the step value `v` (R183). -/
def stepKept (s : State) (id : Nat) (v : Word) : State :=
  { s with eng := { s.eng with opt := s.eng.opt.map fun c => if c.id = id then { c with fixed := some v } else c } }

/-- `STEP` of a context on a die set (R190). -/
def stepSet (s : State) (die ctx : Nat) (v : Word) : State :=
  { s with eng := { s.eng with steps := ((die, ctx), v) :: s.eng.steps.filter fun x => x.1 != (die, ctx) } }

/-! ### Porter -/

/-- The move that the step names is in progress, of kind `k`. -/
abbrev Moving (s : State) (k : PKind) (m : Move) : Prop := ∃ i, s.choice = .index i ∧ s.porter.moves[i]? = some m ∧ m.kind = k

/-- Page `p` of entry `n` of the node's itinerary counts as moved (R323). -/
def PageCounts (s t : State) (h n p : Nat) : Prop :=
  ∀ i ∈ s.porter.itins, i.handle = h → ∀ e, i.entries[n]? = some e → ∃ i' ∈ t.porter.itins, i'.handle = h ∧
    ∃ e', i'.entries[n]? = some e' ∧ e' = { e with moved := e.moved ++ [p] }

/-! ### Fabric -/

/-- The request that a reply of sequence number `q` answers, which nothing holds back (R358, R359). -/
abbrev Answers (s : State) (n q : Nat) (r : Req) : Prop :=
  s.fab.reqs.find? (fun x => x.core == s.core.id && x.packet.target.toNat == n && x.packet.seq.toNat == q) = some r ∧ heldBehind s.fab.reqs r = false

end Sys2Proof.Claims

/-! ### Threads, time and errors -/

/-- R30 to R32, R34, R38, R50, R51, R287: values and fills return; a waiting or sleeping instruction issues again; a thread that has halted,
or that the innkeeper ends, retires once nothing of it is outstanding; and a node completes when its last thread has retired, none of its
claims is open and no proposal due at its standing objections is still to arrive. That a thread whose matrix commands stand in its image has
them loaded first is the model's reading (log entry 103); one whose image has failed the check ends where it is. A register whose fill
failed follows log entry 18, the place of a completion word log entry 102, the release of stacks log entry 104, and the failures of a matrix
queue that stands when its thread is ended log entry 112: these are the model's choices. -/
def Obligations.ThreadsWakeAndEnd : Prop :=
  ∀ (s : State),
    (∀ r : Reg, s.choice = .reg r → s.awaitsReply r = false →
      exec .scalarValueReturn s = .next { s with core := { s.core with xpend := s.core.xpend &&& ~~~(1#32 <<< r.toNat) } }) ∧
    (∀ r : VSpec, s.choice = .fill r → s.empty r = true → (s.vreg r).failed = none → s.awaitsFill r = false →
      ∃ t, exec .registerFillComplete s = .next t ∧ (∀ q, q ≠ r → t.vreg q = s.vreg q) ∧
        t.vreg r = (match s.core.fills.findSome? (fun f => if f.reg = r then f.error else none) with
          | none => { s.vreg r with tag := { (s.vreg r).tag with full := true } }
          | some e => { s.vreg r with failed := some e }) ∧
        t = { s with core := { s.core with
          fills := s.core.fills.filter fun f => f.reg != r
          vec := { s.core.vec with v := t.core.vec.v, o := t.core.vec.o, l0 := t.core.vec.l0, l1 := t.core.vec.l1 } } }) ∧
    (s.core.run = .waiting → exec .issueWaitRelease s = .next (runs s .running)) ∧
    ((s.core.run = .asleep ∨ s.haltFault = true) → (∀ i, s.choice ≠ .index i) → exec .threadWake s = .next (runs s .running)) ∧
    (∀ i x, s.choice = .index i → s.sched.swapped[i]? = some x → ∃ t, exec .threadWake s = .next t ∧
      t.sched.swapped = s.sched.swapped.set i { x with asleep := false } ∧ t = { s with sched := { s.sched with swapped := t.sched.swapped } }) ∧
    (s.core.run = .halting → EndsHere s → ∃ t, exec .threadRetire s = .next t ∧ Retired s t false) ∧
    (s.core.run = .running → s.ending = true → s.mismatched = none → EndsHere s → ∃ t, exec .threadRetire s = .next t ∧ Retired s t true) ∧
    (∀ u, (s.core.run = .halting ∨ (s.core.run = .running ∧ s.ending = true ∧ s.mismatched = none)) → s.savedWork = true → s.takeVec = .ok u →
      exec .threadRetire s = .next u) ∧
    (∀ e u, (s.core.run = .halting ∨ (s.core.run = .running ∧ s.ending = true ∧ s.mismatched = none)) → s.savedWork = true →
      s.takeVec = .error (.partly e u) → ∃ t, exec .threadRetire s = .next t ∧ t.core.run = s.core.run ∧ t.core.sc = s.core.sc ∧
        t.core.me = s.core.me ∧
        t.core.sup.scause = s.core.sup.scause ∧ SameMemory u t ∧ ∀ v ∈ t.sched.vimages, v.image ≠ s.core.me.image) ∧
    (∀ w, s.core.run = .running → s.ending = true → s.mismatched = some w → s.unsettledAway w.me = false → ∃ t, exec .threadRetire s = .next t ∧
      t.core.run = .running ∧ t.core.sc = s.core.sc ∧ t.core.me = s.core.me ∧ SameMemory s t ∧ t.sched.swapped = s.sched.swapped.erase w) ∧
    (∀ h n, s.choice = .handle h → s.node h = some n → n.record.threads ≤ n.retired → s.holdsMeet h = false → s.claimsOpen n = false →
      DoneNear s n → MemoryOk s →
      ∃ t, exec .nodeComplete s = .next t ∧ (∀ x ∈ t.sched.nodes, x.handle ≠ h ∧ h ∉ x.edges) ∧ (∀ a ∈ t.mem.allots, a.handle ≠ h) ∧
        (∀ i ∈ t.porter.itins, i.handle ≠ h) ∧ t.core = { s.core with tlb := t.core.tlb } ∧
        t.host.msix = (if n.host = true then s.host.msix ++ [1 + n.record.stream.toNat % 63] else s.host.msix) ∧
        (NoStackFrames s h → t.core = s.core ∧ t.parked = s.parked) ∧
        (NoStackFrames s h → n.record.done = 0 → t.mem.hbm = s.mem.hbm ∧ t.mem.cxl = s.mem.cxl) ∧
        (∀ l, NoStackFrames s h → n.record.done ≠ 0 → l.isSpad = false → l.isFabric = false →
          Machine.locate s.part s.mem (cmdSpace n.root h (n.record.threads - 1)) n.record.done 8 .store = .ok l →
          Stored t l 8 (completionWord n).toNat ∧ ∀ q, q.isSpad = false → ¬ Within q l 8 → byteAt t q = byteAt s q))

/-- R28, R29, R302 to R309, R312, R314, R315: a free core takes a thread of the first node that it can take, started with the state of R28
or resumed, unless its image fails the check; a core that is not free takes none; nodes age; quanta expire, requests are raised at any time,
in the innkeeper's mode too, and land at boundaries or overrun; a sleeping thread is switched out. Start values, images, dies, stacks and
requests follow log entries 27, 43, 56 to 59, 61 and 104, which are the model's. -/
def Obligations.ThreadsAreDispatched : Prop :=
  ∀ (s : State),
    (∀ (c stack image root : Nat) (n : Node) (u : State) (l : List Nat), s.choice = .dispatch c stack image root → c < s.part.cores →
      s.coreFree c = true →
      s.updateHolds.chosen c = some n → s.updateHolds.canResume n c = none →
      let r := s.updateHolds.rootFor n.record.stream root
      s.updateHolds.stackOk n r stack = true → s.updateHolds.imageFree image = true →
      (s.updateHolds.unreserve n).stackPages r (BitVec.ofNat 64 stack) ((n.record.vstack + 65535) / 65536) = some (u, l) →
      ∃ t, exec .dispatchThread s = .next t ∧
        let k := t.coreAt c; let z := n.record.vstack = 0; let hi := stack + (n.record.vstack + 63) / 64 * 64
        k.run = .running ∧ k.me.handle = n.handle ∧ k.me.wid = n.nextWid ∧ k.me.image = BitVec.ofNat 64 image ∧ k.sc.pc = n.record.prog ∧
        k.sc.loops = [] ∧ k.sup.mode = .user ∧ k.sup.ptbase = r ∧ k.sup.sctx = BitVec.ofNat 64 image ∧ k.sc.st.wid = BitVec.ofNat 64 n.nextWid ∧
          k.sc.p = 0 ∧
        k.sc.st.stklim = (if z then 0 else BitVec.ofNat 64 stack) ∧
        (∀ q : Reg, k.sc.x.get q.toFin = if q = 3 then (if z then 0 else BitVec.ofNat 64 hi)
          else if q = 5 then ((n.record.regions.head?.filter fun g => g.mode != .unused).map fun g => (BitVec.ofNat 64 g.base : Word)).getD 0 else 0) ∧
        (∃ a, t.mem.allots = u.mem.allots ++ [a] ∧ a.handle = n.handle ∧ a.wid = n.nextWid ∧ a.core = c ∧ a.spad = n.record.spad ∧
          a.root = r ∧ a.stack = (if z then 0 else stack) ∧ a.size = (n.record.vstack + 63) / 64 * 64 ∧ a.frames = l) ∧
        ∀ x ∈ t.sched.nodes, x.handle = n.handle → ∃ y ∈ s.sched.nodes, y.handle = n.handle ∧ x.nextWid = n.nextWid + 1) ∧
    (∀ (c stack image root : Nat) (n : Node) (w : Swapped), s.choice = .dispatch c stack image root → c < s.part.cores → s.coreFree c = true →
      s.updateHolds.chosen c = some n → s.updateHolds.canResume n c = some w →
      ∃ t, exec .dispatchThread s = .next t ∧ SameMemory s t ∧
        let k := t.coreAt c
        (s.imageFault w.me.image = none → k.run = .running ∧ k.sup.mode = .user ∧ k.sup.ptbase = w.me.root ∧ k.me.image = w.me.image ∧
          k.sup.sctx = w.me.image ∧ k.sc = parseScalar (s.mem.hbm.bytes w.me.image.toNat 0x1400)) ∧
        (∀ d, s.imageFault w.me.image = some d → (s.coreAt c).sup.mode = .user → k.run = .running ∧ k.sup.mode = .supervisor ∧
          bits k.sup.scause 0 16 = 0x16#8 ++ d ∧ k.sup.saddr = w.me.image ∧ k.sc.x = (s.coreAt c).sc.x ∧ k.sc.pc = k.sup.svec)) ∧
    (∀ c stack image root, s.choice = .dispatch c stack image root → s.coreFree c = false → exec .dispatchThread s = .next s) ∧
    (∀ h, s.choice = .handle h → exec .priorityAging s = .next { s with sched := { s.sched with nodes := s.sched.nodes.map fun n =>
      if n.handle = h then (if 2 ^ 20 ≤ n.waited then { n with prio := min 7 (n.prio + 1), waited := n.waited - 2 ^ 20 } else n) else n } }) ∧
    (UserThread s → s.core.request = none → s.core.sup.squant.toNat ≤ s.st.qcount.toNat → exec .quantumExpiry s = .next
      (if s.rival = true then requested s (some 0)
       else { s with core := { s.core with sc := { s.core.sc with st := { s.core.sc.st with qcount := 0 } } } })) ∧
    (Seated s → exec .preemptionRequest s = .next (requested s (some (s.core.request.getD 0)))) ∧
    (UserThread s → s.core.request ≠ none → (s.loops = [] ∨ s.core.looped = true ∨ s.core.atTrap = true ∨ Sleeps s) →
      exec .preemptionLanding s = .next (overrunAt s 1)) ∧
    (∀ n, UserThread s → s.core.request = some n → s.core.sup.pdl.toNat ≤ n → exec .iterationOverrun s = .next (overrunAt s 2)) ∧
    (s.core.sup.mode = .user → Sleeps s →
      s.loops.length ≤ 6 → MemoryOk s → ∃ t x, exec .sleepingThreadSwitchOut s = .next t ∧ t.core = { s.core with run := .idle } ∧
        t.sched = { s.sched with swapped := s.sched.swapped ++ [x] } ∧ x.me = s.core.me ∧ x.asleep = true ∧ x.xfail = s.core.xfail ∧ ImageHolds s t)

/-- R289, R290, R346, R362, R367, R386, R413: late timing errors, errors in memories and registers, clocks of dies, links and fabric time,
each with its one effect; what takes the package's time from it, or a link of its own, originates a breach notice. That the clock of a die
changes nothing but one status byte is the model's choice (log entry 85); breach notices, the time flag and the die of a corrected error
follow log entries 47, 55 and 60. -/
def Obligations.ErrorsLinksAndTime : Prop :=
  ∀ (s : State),
    (s.choice = .late true → (s.core.run = .running ∨ s.core.run = .waiting ∨ s.core.run = .asleep) →
      exec .timingError s = .next (s.except ⟨0x11, 0x10, 0, 0⟩)) ∧
    (s.choice = .late false → exec .timingError s = .next s) ∧
    (∀ a, s.choice = .error (.hbm a) false →
      exec .uncorrectableError s = .next { s with mem := { s.mem with badHbm := including (a / 32) s.mem.badHbm } }) ∧
    (∀ a, s.choice = .error (.cxl a) false →
      exec .uncorrectableError s = .next { s with mem := { s.mem with badCxl := including (a / 32) s.mem.badCxl } }) ∧
    (∀ a, s.choice = .error (.spad a) false →
      exec .uncorrectableError s = .next { s with mem := { s.mem with badSpad := including (a / 8) s.mem.badSpad } }) ∧
    ((s.choice = .error .eweham true ∨ ∃ a, s.choice = .error (.hbm a) true ∨ s.choice = .error (.cxl a) true) → ∃ t,
      exec .uncorrectableError s = .next t ∧
      t = { s with corrected := t.corrected } ∧
      ∀ d : BitVec 3, t.corrected.get d.toFin = s.corrected.get d.toFin + if d.toNat = s.core.id / s.part.coresPerDie % 8 then 1 else 0) ∧
    (∀ r b, s.choice = .error (.vreg r) b → ∃ t, exec .uncorrectableError s = .next t ∧ (∀ q, q ≠ r → t.vreg q = s.vreg q) ∧
      ((s.vreg r).tag.fmt = .void → t.vreg r = s.vreg r) ∧
      ((s.vreg r).tag.fmt ≠ .void → t.vreg r = { s.vreg r with failed := some ((s.vreg r).failed.getD ⟨0x11, 0x03, 0, 0⟩) })) ∧
    (∀ n b, s.choice = .error (.tile n) b → ∃ t, exec .uncorrectableError s = .next t ∧
      ∀ k, k < 8 → t.slot k = if k = n.toNat then { s.slot k with bad := true } else s.slot k) ∧
    (∀ b, s.choice = .error .weightBuffer b →
      exec .uncorrectableError s = .next (withVec s { s.core.vec with mx := { s.mx with buf := { s.mx.buf with bad := true } } })) ∧
    (∀ b, s.choice = .error .copyBuffer b → exec .uncorrectableError s = .next { s with core := { s.core with copyBad := true } }) ∧
    (∀ d, s.choice = .die d → exec .dieClockLower s = .next { s with slow := s.slow ||| (1#8 <<< d.toNat) } ∧
      exec .dieClockRaise s = .next { s with slow := s.slow &&& ~~~(1#8 <<< d.toNat) }) ∧
    (∀ t b, s.choice = .time t b → s.part.hasFab = true → 
      let off := decide (t + b < s.ftime) || decide (s.ftime + b < t); let u := withFab s { s.fab with lastTime := s.ftime, timeFlag := off }
      exec .ftimeReceived s = .next (if off && !s.fab.timeFlag then breachSent u else u)) ∧
    (s.part.hasFab = true → s.fab.lastTime + 1000000 ≤ s.ftime →
      exec .ftimeLoss s = .next (if s.fab.timeFlag = true then s else breachSent (withFab s { s.fab with timeFlag := true }))) ∧
    (∀ p, s.choice = .port p → exec .fabricLinkUp s = .next (withFab s { s.fab with down := s.fab.down.filter (· != p) }) ∧
      (p ∈ s.fab.down → exec .fabricLinkDown s = .next s) ∧
      (p ∉ s.fab.down → let u := withFab s { s.fab with down := p :: s.fab.down }
        exec .fabricLinkDown s = .next (if s.part.hasFab = true then breachSent u else u))) ∧
    (∀ n m, s.choice = .link n m → exec .fabricLinkUp s = .next (withFab s { s.fab with downFar := s.fab.downFar.filter (· != (n, m)) }) ∧
      ∃ t, exec .fabricLinkDown s = .next t ∧ (∀ x, x ∈ t.fab.downFar ↔ x = (n, m) ∨ x ∈ s.fab.downFar) ∧
        t = withFab s { s.fab with downFar := t.fab.downFar }) ∧
    exec .abortFlit s = .next s

/-! ### Engines perform -/

/-- R201 to R206, R210 to R213: the matrix engine performs the command at the head of its queue: shape, cleared tile, weight buffer, seeds,
one row of one rank-one update at each stop point, or one row of a free step; a fault stops it there; the command that closed a batch
completes it, and its tiles become full. How much the engine does in one step, and where a free step stops, are the model's (log entries 36,
81). -/
def Obligations.TheMatrixEnginePerforms : Prop :=
  ∀ (s : State),
    (∀ (c : MxCmd) (rest : List MxCmd), MxAtHead s c rest → let m := mxDone s rest
      (∀ r k img, c.body = .cfg r k img →
        exec .mxCfgPerform s = .next (withVec s (withMx s.core.vec { m with rows := r.toNat, cols := k.toNat, img := img }))) ∧
      (∀ base w, c.body = .zero base w → ∃ t, exec .mxZeroPerform s = .next t ∧
        t = withVec s { s.core.vec with mx := m, tiles := t.core.vec.tiles } ∧
        (∀ n, n < 8 → ¬ (base ≤ n ∧ n ≤ base + w) → t.slot n = s.slot n) ∧
        (∀ n, n < 8 → base ≤ n → n ≤ base + w →
          (TileAwaited s.mx rest base → t.slot n = { s.slot n with data := 0, bad := false }) ∧
          (¬ TileAwaited s.mx rest base → t.slot n = { s.slot n with data := 0, bad := false, tag := { (s.slot n).tag with full := true } }))) ∧
      (∀ k b x ty cols, c.body = .ldw k b x ty cols →
        (∀ data scales m', s.mxLoadB c k b x ty cols = .ok (data, scales, m') → ∃ t, exec .mxLdwPerform s = .next t ∧ SameMemory s t ∧
          t = answersUsed { withVec s (withMx s.core.vec { m with buf := ⟨ty, k, cols, data, scales, none, false⟩ }) with mem := m' } c.handle c.wid c.region) ∧
        (∀ e, s.mxLoadB c k b x ty cols = .error (.failed e) →
          exec .mxLdwPerform s = .next (answersUsed (mxStoppedAt s { e with via := c.via } 0) c.handle c.wid c.region)) ∧
        (∀ u, s.mxLoadB c k b x ty cols = .error (.await u) → exec .mxLdwPerform s = .next u)) ∧
      (∀ q, c.body = .seedw q → exec .mxSeedwPerform s = .next (withVec s (withMx s.core.vec { m with buf := { s.mx.buf with seed := q } }))) ∧
      (∀ st, c.body = .step st →
        (c.dropped = true → exec .mxStepPerform s = .next (withVec s (withMx s.core.vec m))) ∧
        (c.dropped = false → st.done < st.d → st.row < s.mx.rows → s.choice = .stop none →
          (∀ e, s.mxParity st = some e → exec .mxStepPerform s = .next (mxStoppedAt s { e with via := c.via } (progressOf st))) ∧
          (st.free = false → s.mxParity st = none → ∀ e, s.mxA c st s.mx.rows st.done 0 st.row s.mem = .error (.failed e) →
            exec .mxStepPerform s = .next (mxStoppedAt s { e with via := c.via } (progressOf st)))) ∧
        (c.dropped = false → st.free = true → st.done = 0 → 0 < st.d → st.row < s.mx.rows → s.mxParity st = none → (∀ c' ∈ rest, c'.id ≠ c.id) →
          ∀ l m', s.mxReadRow c st st.row st.d s.mem = .ok (l, m') →
          let last := s.mx.rows ≤ st.row + 1; let y : State := { withVec s { s.core.vec with mxprog := 0 } with mem := m' }
          (last ∧ s.choice = .stop none) ∨ (s.core.request ≠ none ∧ s.choice = .stop (some (st.row + 1))) →
          let z := y.mxFreeRow st st.row l; let next : MxStep := { st with row := st.row + 1 }
          exec .mxStepPerform s = .next (if last then withVec z (withMx z.core.vec (mxDone z rest)) else
            withVec z { z.core.vec with mx := { z.mx with queue := { c with body := .step next } :: rest }, mxprog := progressOf next ||| 1 })) ∧
        (c.dropped = false → st.free = false → st.done < st.d → st.row < s.mx.rows → s.mxParity st = none →
          (∀ c' ∈ rest, c'.id ≠ c.id) → ∀ a m1 da m2, s.mxA c st s.mx.rows st.done 0 st.row s.mem = .ok (a, m1) →
          s.mxDa c st s.mx.rows st.done st.row st.w m1 = .ok (da, m2) →
          let next : MxStep := if st.row + 1 < s.mx.rows then { st with row := st.row + 1 } else { st with row := 0, done := st.done + 1 }
          let last := ¬ next.done < st.d
          (last ∧ s.choice = .stop none) ∨ (s.core.request ≠ none ∧ s.choice = .stop (some (st.done * s.mx.rows + st.row + 1))) →
          ∃ t, exec .mxStepPerform s = .next t ∧ SameMemory s t ∧
            (∀ n j, n < 8 → elem 32 (t.slot n).data j =
              if st.tile ≤ n ∧ n ≤ st.tile + st.w ∧ 96 * st.row ≤ j ∧ j < 96 * st.row + s.mx.cols then
                productAdded ((s.slot st.tile).at st.row (j - 96 * st.row))
                  ((List.range st.w).map fun i => (s.slot (st.tile + 1 + i)).at st.row (j - 96 * st.row)) a da
                  (s.mx.buf.at (st.k0 + st.done) (j - 96 * st.row)) (fun i => s.mx.buf.tangent i (st.k0 + st.done) (j - 96 * st.row)) (n - st.tile) % 2 ^ 32
              else elem 32 (s.slot n).data j) ∧
            (∀ n, n < 8 → { t.slot n with data := 0 } = { s.slot n with data := 0 }) ∧
            t = { withVec s { s.core.vec with
                mx := { s.mx with queue := t.mx.queue }, tiles := t.core.vec.tiles, mxprog := t.core.vec.mxprog } with mem := m2 } ∧
            (last → t.mx.queue = rest ∧ t.core.vec.mxprog = 0) ∧
            (¬ last → t.mx.queue = { c with body := .step next } :: rest ∧ t.core.vec.mxprog = progressOf next ||| 1)))) ∧
    (∀ c rest b, MxAtHead s c rest → c.body = .commit b → ∃ t, exec .batchComplete s = .next t ∧
      let gone := s.mx.slots.filter fun x => x.batch == b; let kept := s.mx.slots.filter fun x => x.batch != b
      t = withVec s { s.core.vec with mx := { mxDone s rest with closed := s.mx.closed.erase b, slots := kept }, tiles := t.core.vec.tiles } ∧
        ∀ n, n < 8 →
          let fills := ∃ x ∈ gone, x.base ≤ n ∧ n ≤ x.base + x.w ∧ (∀ y ∈ kept, y.base ≠ x.base) ∧ ∀ c ∈ rest, ∀ w, c.body ≠ .zero x.base w
          (fills → t.slot n = { s.slot n with tag := { (s.slot n).tag with full := true } }) ∧ (¬ fills → t.slot n = s.slot n))

/-- R220 to R223, R225: the copy engine copies the elements of the command at the head in order; a failed element, or the end of the
command, takes it from the queue with its completion word, its failure or its count. The follow-on of a waybill that has not failed is
released before its completion word. How much the engine does in one step is the model's (log entry 81); waybills follow log entries 34, 42
and 121, counters log entry 33, fabric windows log entry 13. -/
def Obligations.TheCopyEnginePerforms : Prop :=
  ∀ (s : State) (c : CpCmd) (rest : List CpCmd), CpAtHead s c rest → MemoryOk s →
    (∀ a d, Copyable s c a d → s.choice = .index 1 →
      (c.lin = false → ∃ t, exec .waybillStart s = .next t ∧ Copied s t c rest a d) ∧
      (c.lin = true → c.count + 1 < c.wb.total → ∃ t, exec .cpLinPerform s = .next t ∧ Copied s t c rest a d)) ∧
    (c.lin = false → c.count < c.wb.total → c.failed = none → s.choice = .index 1 →
      ((c.wb.addrs c.count).1.toNat % c.wb.esize ≠ 0 ∨ (c.wb.addrs c.count).2.toNat % c.wb.esize ≠ 0) →
      ∃ t, exec .waybillStart s = .next t ∧ t.mem = s.mem ∧ t.core.copy = { c with started := true, failed := some (0x0A, 0) } :: rest) ∧
    (c.lin = false → c.wb.mx = none → NoFollow s c → ∀ f, c.failed = some f → c.wb.done = 0 → exec .waybillComplete s = .next
      (withFail (withCopies s rest) ⟨c.id, .copy, c.handle, c.wid, f.1, f.2, c.count, c.addr, c.pc⟩)) ∧
    (c.lin = false → c.wb.mx = none → NoFollow s c → ∀ f, c.failed = some f → c.wb.done ≠ 0 →
      let x : CmdFail := ⟨c.id, .copy, c.handle, c.wid, f.1, f.2, c.count, c.addr, c.pc⟩
      (∀ l, l.isFabric = false → CanStore s c.space (s.cpAgent c) c.wb.done c.wb.scope l → ∃ t, exec .waybillComplete s = .next t ∧
        t.core.copy = rest ∧
        Stored t l 8 (failedWord x).toNat ∧ SameMemoryBut s t l 8 ∧ t.core.sc = s.core.sc ∧ t.core.vec = s.core.vec ∧ t.eng = (withFail s x).eng) ∧
      (∀ e, s.completionStore c.space (s.cpAgent c) c.wb.done (failedWord x) c.wb.scope = .error (.failed e) →
        exec .waybillComplete s = .next (withFail (answersUsed (withCopies s rest) c.handle c.wid c.region) x)) ∧
      (∀ u, s.completionStore c.space (s.cpAgent c) c.wb.done (failedWord x) c.wb.scope = .error (.await u) → exec .waybillComplete s = .next u)) ∧
    (c.lin = false → c.failed = none → c.wb.total ≤ c.count → ∀ u,
      (s.releaseFollow c true).completionStore c.space (s.cpAgent c) c.wb.done c.wb.doneval c.wb.scope = .error (.await u) → c.wb.done ≠ 0 →
      exec .waybillComplete s = .next u ∧ u.core.copy = s.core.copy ∧
        u.mx.queue = s.mx.queue.map fun q => if q.held = some c.id then { q with held := none, dropped := false } else q) ∧
    (c.lin = false → c.wb.mx ≠ none → ∀ f, c.failed = some f → c.wb.done = 0 → ∃ t, exec .waybillComplete s = .next t ∧ t.core.copy = rest ∧
      t.mem = s.mem ∧ t.eng.fails = s.eng.fails ++ [⟨c.id, .matrix, c.handle, c.wid, 0x0C, 0, 0, c.addr, c.addr⟩,
        ⟨c.id, .copy, c.handle, c.wid, f.1, f.2, c.count, c.addr, c.pc⟩] ∧
      t.mx.queue = s.mx.queue.map fun q => if q.held = some c.id then { q with held := none, dropped := true } else q) ∧
    (c.lin = false → c.failed = none → c.wb.total ≤ c.count → NoFollow s c → c.wb.bar = none →
      (c.wb.done = 0 → exec .waybillComplete s = .next (withCopies s rest)) ∧
      (∀ l, c.wb.done ≠ 0 → l.isFabric = false → CanStore s c.space (s.cpAgent c) c.wb.done c.wb.scope l →
        ∃ t, exec .waybillComplete s = .next t ∧ t.core.copy = rest ∧ Stored t l 8 c.wb.doneval.toNat ∧ SameMemoryBut s t l 8 ∧
          t.core.sc = s.core.sc ∧ t.core.vec = s.core.vec ∧ t.eng = s.eng)) ∧
    (c.lin = false → c.failed = none → c.wb.total ≤ c.count → c.wb.done = 0 → c.wb.bar = none → ∃ t, exec .waybillComplete s = .next t ∧
      t.core.copy = rest ∧ t.mem = s.mem ∧
        t.mx.queue = s.mx.queue.map fun q => if q.held = some c.id then { q with held := none, dropped := false } else q) ∧
    (∀ k sc y, c.lin = false → c.failed = none → c.wb.total ≤ c.count → c.wb.done = 0 → NoFollow s c → ∀ va, c.wb.bar = some va →
      Machine.locate s.part s.mem c.space va 8 .store = .ok (.spad k) → (s.mem.marks.find? fun x => x.1 == k / 8) = some (y, sc) →
      let ag : Agent := { s.cpAgent c with strong := true, scope := sc }
      let clear := raceCheck s.part s.mem ag true (.spad k) 8 va = .ok () ∧ badAt s.mem (.spad k) = none
      (clear → bits (objectWord s k) 48 16 = c.gen → ∃ t, exec .waybillComplete s = .next t ∧ t.core.copy = rest ∧
        Stored t (.spad k) 8 (arrived (objectWord s k)).toNat ∧ SameMemoryBut s t (.spad k) 8 ∧ t.eng.fails = s.eng.fails) ∧
      (clear → bits (objectWord s k) 48 16 ≠ c.gen → exec .waybillComplete s = .next
        (withFail (withCopies s rest) ⟨c.id, .copy, c.handle, c.wid, 0x09, 0, c.count, c.addr, c.pc⟩)) ∧
      (raceCheck s.part s.mem ag true (.spad k) 8 va = .ok () → badAt s.mem (.spad k) ≠ none → exec .waybillComplete s = .next
        (withFail (withCopies s rest) ⟨c.id, .copy, c.handle, c.wid, 0x07, 0, c.count, c.addr, c.pc⟩))) ∧
    (c.lin = true → c.failed = none → c.wb.total ≤ c.count → s.choice = .index 0 →
      (c.wb.done = 0 → exec .cpLinPerform s = .next (withCopies s rest)) ∧
      (∀ l, c.wb.done ≠ 0 → l.isFabric = false → CanAdd s c l → ∃ t, exec .cpLinPerform s = .next t ∧
        t.core.copy = rest ∧ Stored t l 8 (readLoc s.mem l 8 + 1) ∧ SameMemoryBut s t l 8 ∧ t.core.sc = s.core.sc ∧ t.eng = s.eng))

/-- R183 to R191: the optimiser engine fixes a card or fails it, updates its elements by the routine from their estimates, and completes it;
installs valid routines; and raises a step counter that the node was granted. A command whose access to a fabric window has no answer yet
stays, and a card then keeps the step value that it has read. How much the engine does in one step is the model's (log entry 81), as are
fabric windows (log entry 94). -/
def Obligations.TheOptimiserPerforms : Prop :=
  ∀ (s : State) (d : BitVec 3) (c : OptCmd), OptAtHead s d c →
    let failed (u : State) (st : BitVec 7) (cl : BitVec 8) (n : Nat) : State := optFailed u ⟨c.id, .opt, c.handle, c.wid, st, cl, n, c.addr, c.pc⟩
    (∀ ctx, c.body = .step ctx →
      (s.granted c.handle ctx = true → exec .stepIncrement s = .next (stepSet (optDone s c) c.die ctx (s.stepOf c.die ctx + 1))) ∧
      (s.granted c.handle ctx = false → exec .stepIncrement s = .next (failed (optDone s c) 0x03 0 0))) ∧
    (∀ id, c.body = .rout id → ∀ l m, s.routWords c c.addr 16 s.mem = .ok (l, m) →
      (routineOf l = none → exec .routineInstall s = .next (failed { optDone s c with mem := m } 0x08 0 0)) ∧
      (∀ p, routineOf l = some p → ∃ t, exec .routineInstall s = .next t ∧ SameMemory s t ∧
        t.eng.routs = ((c.die, id), p) :: s.eng.routs.filter (fun x => x.1 != (c.die, id)) ∧
        t = { optDone s c with mem := m, eng := { (optDone s c).eng with routs := t.eng.routs } })) ∧
    (∀ id, c.body = .rout id →
      (∀ e, s.routWords c c.addr 16 s.mem = .error (.failed e) → ∃ st cl, exec .routineInstall s = .next (failed (optDone s c) st cl 0) ∧
        StatusIs e st cl) ∧
      ∀ u, s.routWords c c.addr 16 s.mem = .error (.await u) → exec .routineInstall s = .next u) ∧
    (∀ k f, c.body = .card k → c.failed = some f → k.done = 0 →
      (c.run = none → exec .cardStart s = .next (failed (optDone s c) f.1.1 f.1.2 f.2)) ∧
      (c.run ≠ none → exec .cardComplete s = .next (failed (optDone s c) f.1.1 f.1.2 f.2))) ∧
    (∀ k, c.body = .card k → c.run = none → c.failed = none →
      (∀ r m, s.cardFix c k = .ok (r, m) → ∃ t, exec .cardStart s = .next t ∧ SameMemory s t ∧
        t.eng.opt = s.eng.opt.map (fun x => if x.id = c.id then { x with run := some r } else x) ∧
        t = answersUsed { s with mem := m, eng := { s.eng with opt := t.eng.opt } } c.handle c.wid c.region) ∧
      (∀ u, s.cardFix c k = .error (.await u) → exec .cardStart s = .next (stepKept u c.id
        (c.fixed.getD (if k.ctx = true then s.stepOf c.die k.step.toNat else k.step)))) ∧
      (∀ f l, s.cardFix c k = .error (.fails f) → k.done ≠ 0 → l.isFabric = false → CanStore s c.space (s.optAgent c) k.done .sys l → MemoryOk s →
        let x : CmdFail := ⟨c.id, .opt, c.handle, c.wid, f.1, f.2, 0, c.addr, c.pc⟩
        ∃ t, exec .cardStart s = .next t ∧ Stored t l 8 (failedWord x).toNat ∧ SameMemoryBut s t l 8 ∧ t.core = s.core ∧
          t.eng = (optFailed (optDone s c) x).eng) ∧
      (∀ f, s.cardFix c k = .error (.fails f) → k.done = 0 → exec .cardStart s = .next (failed (optDone s c) f.1 f.2 0)) ∧
      (s.eng.routs.find? (fun x => x.1 == (c.die, k.rout)) = none → s.cardFix c k = .error (.fails (0x02, 0))) ∧
      (∀ r, s.eng.routs.find? (fun x => x.1 == (c.die, k.rout)) = some r → k.ctx = true → s.granted c.handle k.step.toNat = false →
        s.cardFix c k = .error (.fails (0x03, 0)))) ∧
    (∀ k r, c.body = .card k → c.run = some r → c.failed = none →
      let all := s.cardElements c k r r.count (k.n - r.count)
      (∀ n u, all = (n, none, u) → k.done = 0 → exec .cardComplete s = .next (optDone u c)) ∧
      (∀ n x u, all = (n, some (.failed x), u) → k.done = 0 → ∃ st cl, exec .cardComplete s = .next (failed (optDone u c) st cl n) ∧
        StatusIs x st cl) ∧
      (∀ n v u, all = (n, some (.await v), u) → ∃ t, exec .cardComplete s = .next t ∧ t = { v with eng := { v.eng with opt := t.eng.opt } } ∧
        t.eng.opt = v.eng.opt.map (fun x => if x.id = c.id then { x with run := some { r with count := n } } else x))) ∧
    (∀ k r, c.body = .card k → c.run = some r → c.failed = none → r.count = 0 → k.n = 1 → k.st1 = 0 → k.st2 = 0 → k.wbf = false → k.done = 0 →
      MemoryOk s → k.w.toNat % 4 = 0 →
      ∀ l, Machine.locate s.part s.mem c.space k.w 4 .load = .ok l → raceCheck s.part s.mem (s.optAgent c) false l 4 k.w = .ok () →
        badAt s.mem l = none →
      let m := noteAccess s.mem (s.optAgent c) false l 4
      Machine.locate s.part m c.space k.w 4 .store = .ok l → raceCheck s.part m (s.optAgent c) true l 4 k.w = .ok () → l.isFabric = false →
      let regs := [readLoc s.mem l 4, 0, 0, estimate k r 0] ++ k.consts.map (·.toNat) ++ [r.b1.toNat, r.b2.toNat] ++ List.replicate 18 0
      ∃ t, exec .cardComplete s = .next t ∧ Stored t l 4 ((runRoutine r.prog regs).getD 0 0) ∧ SameMemoryBut s t l 4 ∧
        t.eng = (optDone s c).eng ∧ t.core = s.core)

/-! ### The porter -/

/-- R323, R325 to R328, R332: the porter treats the next page of the first started entry that does not wait; a move that completes copies
the page of 64 KiB and maps it at its new tier, or pins it while its itinerary stands; an evict or a drop entry ends the node's own pin of
the page that it reaches; a link that goes down fails its moves. How much the porter does in one step is the model's (log entry 81). -/
def Obligations.ThePorterMovesPages : Prop :=
  ∀ (s : State),
    (∀ c t, s.porter.moves.length < 64 →
      s.firstTurn ((s.porter.itins.flatMap fun i => candidatesOf i 0 i.entries).foldr insertCandidate []) = some (c, t) → ∃ u,
      exec .porterMoveStart s = .next u ∧
        (∀ m, t = .moves m → u.porter.moves = s.porter.moves ++ [m] ∧ m.handle = c.itin.handle ∧ m.entry = c.index ∧ m.page = c.entry.taken) ∧
        ((∀ m, t ≠ .moves m) → u.porter.moves = s.porter.moves ∧ u.mem = s.mem) ∧
        ((c.entry.kind = .evict ∨ c.entry.kind = .drop) → ∀ pte leaf level,
          pageLeaf s.mem.hbm (((s.node c.itin.handle).map (·.root)).getD 0) (c.entry.va + BitVec.ofNat 64 (65536 * c.entry.taken)) =
            some (pte, leaf, level) → (pte, c.itin.handle) ∉ u.porter.pins) ∧
        u.core.sc = s.core.sc ∧ u.mem.spad = s.mem.spad ∧ u.mem.cxl = s.mem.cxl) ∧
    (∀ m, MemoryOk s → Moving s .fetch m → frameBad s.mem.badCxl m.origin = false →
      ∃ t, exec .fetchComplete s = .next t ∧
      (∀ i, i < 65536 → (m.pte + 8 ≤ 65536 * m.frame + i ∨ 65536 * m.frame + i < m.pte) →
        t.mem.hbm.get (65536 * m.frame + i) = s.mem.cxl.get (65536 * m.origin + i)) ∧
      t.mem.hbm.read m.pte 8 = (setLeaf m.leaf m.frame 0).toNat ∧ t.mem.cxl = s.mem.cxl ∧ t.mem.spad = s.mem.spad ∧
      t.porter.moves = s.porter.moves.erase m ∧ t.porter.origins = (m.pte, m.origin) :: s.porter.origins ∧ PageCounts s t m.handle m.entry m.page ∧
      (∀ e ∈ t.core.tlb, m.va.toNat / 2 ^ e.shift ≠ e.va / 2 ^ e.shift) ∧ t.core.sc = s.core.sc) ∧
    (∀ m, MemoryOk s → Moving s .evict m → s.frameInUse m.frame = false → frameBad s.mem.badHbm m.frame = false →
      ∃ t, exec .evictComplete s = .next t ∧
      (∀ i, i < 65536 → t.mem.cxl.get (65536 * m.origin + i) = s.mem.hbm.get (65536 * m.frame + i)) ∧
      t.mem.hbm.read m.pte 8 = (setLeaf m.leaf m.origin 1).toNat ∧ (∀ q, q < m.pte ∨ m.pte + 8 ≤ q → t.mem.hbm.get q = s.mem.hbm.get q) ∧
      t.mem.spad = s.mem.spad ∧ t.porter.moves = s.porter.moves.erase m ∧ PageCounts s t m.handle m.entry m.page ∧ t.core.sc = s.core.sc) ∧
    (∀ m, MemoryOk s → Moving s .drop m → s.frameInUse m.frame = false → ∃ t, exec .dropComplete s = .next t ∧ t.mem.cxl = s.mem.cxl ∧
      t.mem.hbm.read m.pte 8 = (setLeaf m.leaf m.origin 1).toNat ∧ (∀ q, q < m.pte ∨ m.pte + 8 ≤ q → t.mem.hbm.get q = s.mem.hbm.get q) ∧
      t.porter.moves = s.porter.moves.erase m ∧ PageCounts s t m.handle m.entry m.page ∧ t.core.sc = s.core.sc) ∧
    (∀ m, Moving s .pin m → s.itinOf m.handle = none → exec .pinComplete s =
      .next { s with porter := { s.porter with moves := s.porter.moves.erase m } }) ∧
    (∀ m, Moving s .pin m → s.itinOf m.handle ≠ none → ∃ t, exec .pinComplete s = .next t ∧ t.mem = s.mem ∧
      t.porter.pins = (m.pte, m.handle) :: s.porter.pins ∧
      t.porter.moves = s.porter.moves.erase m ∧ PageCounts s t m.handle m.entry m.page ∧ t.core = s.core) ∧
    (∀ p : BitVec 5, p.toNat < 8 → s.choice = .port p → ∃ t, exec .cxlLinkDown s = .next t ∧ p.setWidth 3 ∈ t.porter.linksDown ∧
      (∀ q, q ∈ t.porter.linksDown → q = p.setWidth 3 ∨ q ∈ s.porter.linksDown) ∧
      ((∀ m ∈ s.porter.moves, Config.cxlPort m.origin ≠ p.setWidth 3) → t.porter.moves = s.porter.moves ∧ t.mem = s.mem ∧ t.core = s.core) ∧
      (∀ m, MemoryOk s → s.porter.moves = [m] → (m.kind = .fetch ∨ m.kind = .evict) → Config.cxlPort m.origin = p.setWidth 3 →
        t.porter.moves = [] ∧ t.mem.hbm.read m.pte 8 = m.leaf.toNat))

namespace Sys2Proof.Claims

open Machine

/-! ### Packets and claims from outside -/

/-- The requests but for when they left and by which path: one that another held back leaves when it is held no more (R346, R361). -/
def untimed (l : List Req) : List Req := l.map fun q => { q with sent := 0, packet := { q.packet with alternate := false } }

/-- The requests but for the releases that their reads have found (R231). -/
def unread (l : List Req) : List Req := l.map fun q => { q with read := [] }

/-- The kind of the answer to a packet: a multicast write is acknowledged, others are replied to (R355). -/
def answerKind (p : Packet) : BitVec 8 := if p.kind = 3 then 6 else 5

/-- The target answers a packet (R341, R355, R357): a reply with data has the elements of its packet, one without data a count of 1 (log entry
97). -/
def replyTo (p : Packet) (st : MStatus) (data : List Byte) (now : Nat) : SeqRec :=
  { kind := answerKind p, count := if data = [] then 1 else p.count, esize := p.esize, requester := p.requester, core := p.core, seq := p.seq,
    status := st, data := data, at? := now }

/-- What arrives here of a packet: of a multicast packet, the copy for this package (R364). -/
def copyHere (p : Packet) : Packet := if p.kind = 3 then Packet.toMember p packageEp else p

/-- A packet for this package arrives; one that claims to come from this package has left it (R354, R363). -/
abbrev Arrives (s : State) (p : Packet) : Prop :=
  (∃ c, s.choice = .packet c ∧ p = copyHere c) ∧ p.target = packageEp ∧ p.kind.toNat ≤ 4 ∧ s.part.hasFab = true ∧ s.hasSent p = true

/-- What the target has kept of the packet that it performed under this number (R357). -/
def keptOf (s : State) (p : Packet) : Option SeqRec :=
  s.fab.records.find? fun r => r.requester == p.requester && r.core == p.core && r.seq == p.seq

/-- The state with a reply that leaves. -/
def replied (s : State) (r : SeqRec) : State := withFab s { s.fab with sentReplies := s.fab.sentReplies ++ [r] }

/-- A packet that reads has been performed: its reply leaves, and what it orders changes no byte (R229, R231). -/
def ReadServed (s t : State) (r : SeqRec) : Prop :=
  unread t.fab.reqs = unread s.fab.reqs ∧ t = { s with
    mem := { s.mem with openRegions := t.mem.openRegions }
    fab := { s.fab with reqs := t.fab.reqs, sentReplies := s.fab.sentReplies ++ [r] } }

/-- The head of the core's fabric queue, which no fence holds back. -/
abbrev FabAtHead (s : State) (j : McJob) : Prop :=
  s.fab.jobs.find? (fun x => x.core == s.core.id) = some j ∧ s.fenced j.id = false

/-- The thread of a request sits at the active core (R315). -/
abbrev SitsHere (s : State) (r : Req) : Prop := s.away r.handle r.wid = none ∧ s.seatOf r.core r.handle r.wid = s.core.id

/-- The path to a member now: its stage node, and whether that is the alternate one (R346, R364). -/
def pathNow (s : State) (m : Member) : BitVec 8 × Bool :=
  let alt := s.takesAlternate m.pkg.toNat 0
  (if alt = true then Config.alternateNode m.pkg.toNat else Config.primaryNode m.pkg.toNat, alt)

/-- What a failed request raises (R359, R369). -/
def failExc (r : Req) (st : MStatus) : Exc := ⟨0x15, (MStatus.code st).setWidth 8, r.addr, r.pc⟩

/-- A request of an access of a thread that no instruction awaits in issue. -/
def threadUse : Use → Bool
  | .store => true
  | .lanes _ _ _ _ => true
  | .scalar _ _ _ => true
  | _ => false

/-- The effect of a claim at a member does not lie in a fabric window (R391). -/
abbrev EffectNear (s : State) (m : ClaimMember) (x : Claim) : Prop :=
  ∀ w o, Machine.locate s.part s.mem (s.memberSpace m) (s.effectAddr m x) 8 .store ≠ .ok (.fabric w o)

/-- Members and claims of the store but for those that `f` changes. -/
def withClaims (s : State) (c : ClaimStore) : State := { s with claims := c }

/-- The claim `y` of a member makes `x` yield: the same key, an earlier pair, and overlapping in time (R390). -/
def Beats (y x : Claim) : Prop :=
  y.handle ≠ x.handle ∧ y.key = x.key ∧ (y.t0 < x.t0 ∨ (y.t0 = x.t0 ∧ y.who.toNat < x.who.toNat)) ∧ x.t0 ≤ y.t0 + x.w ∧ x.t0 ≤ y.t0 + y.w

/-- The claim whose close the step names may close now at member `m`, before which every claim of an earlier close time at its endpoint, of
whatever group, has closed (R379, R384, R390). -/
abbrev MayClose (s : State) (m : ClaimMember) (x : Claim) : Prop :=
  s.choice = .claim m.group.tag m.ep x.handle ∧ s.member m.group.tag m.ep = some m ∧ m.find x.handle = some x ∧ x.outcome = none ∧
    x.t0 + x.w ≤ s.ftime ∧ s.overdue m = false ∧ ∀ n ∈ s.claims.members, n.ep = m.ep → ∀ y ∈ n.claims, y.outcome = none →
      ¬ (y.t0 + y.w < x.t0 + x.w ∨ (y.t0 + y.w = x.t0 + x.w ∧ (y.t0 < x.t0 ∨ (y.t0 = x.t0 ∧ y.who.toNat < x.who.toNat))))

/-- A closed claim may still decide another: an open one of its key that comes after it, or one whose proposal is still to arrive (R390). -/
def StillMeets (s : State) (m : ClaimMember) (c : Claim) : Prop :=
  s.overdue m = true ∨ ∃ y ∈ m.claims, y.outcome = none ∧ y.key = c.key ∧ (c.t0 < y.t0 ∨ (c.t0 = y.t0 ∧ c.who.toNat < y.who.toNat))

/-- The claim of a handle has the outcome `o` at the member in `t`. -/
def ClosedAs (t : State) (m : ClaimMember) (h : Word) (o : BitVec 4) : Prop :=
  ∃ m' ∈ t.claims.members, m'.group = m.group ∧ m'.ep = m.ep ∧ m'.seq = m.seq + 1 ∧ ∃ c ∈ m'.claims, c.handle = h ∧ c.outcome = some o

/-! ### Host and services -/

/-- The state with another host side. -/
def withHost (s : State) (h : HostSide) : State := { s with host := h }

/-- The request has been answered with `result`: it has left the queue, and its ring entry is posted (R402, R406). -/
def Answered (s t : State) (q : HostReq) (result : Word) : Prop :=
  let a := s.host.srbase.toNat + 16 * (s.host.srhead.toNat % 256)
  t.host.queue = [] ∧ t.host.srhead = s.host.srhead + 1 ∧ t.host.msix = s.host.msix ++ [0] ∧ t.mem.hbm.read a 8 = result.toNat ∧
    t.mem.hbm.read (a + 8) 8 = (if q.svc = true then q.val ||| 0x8000000000000000 else q.val).toNat ∧
    t.core.sc = s.core.sc ∧ t.core.vec = s.core.vec ∧ t.core.run = s.core.run

/-- The result word of a refusal (R402). -/
def refusal (code : Nat) : Word := BitVec.ofNat 64 (2 ^ 63 + code * 2 ^ 56)

end Sys2Proof.Claims

/-! ### Fabric events -/

/-- R354, R357: a target answers a packet that fails a check with its status, performs one that passes, keeps a record of what it wrote, and
answers a retry of that from the record. R358 to R361: a reply ends its request and reaches its register, or its failure its instruction; a
request whose timer expires is sent again, and after its last attempt is ABSENT. R364, R365: multicast stores and their record. That other
packages act through events with any choices is the model's (log entry 82); failures follow log entries 10, 40 and 94, the count and the
element size of a reply log entry 97. -/
def Obligations.FabricEvents : Prop :=
  ∀ (s : State),
    (∀ p, Arrives s p → ((p.kind = 0 ∨ p.kind = 4) ∨ keptOf s p = none) →
      (∀ st, s.admitted p = .error st → exec .fabricPacketArrival s = .next (replied s (replyTo p st [] s.ftime))) ∧
      (∀ w, s.admitted p = .ok w → (p.kind = 0 ∨ p.kind = 4) →
        (∀ o ∈ Packet.offsets p, hbmRangeBad s.mem (w.base + o.toNat) (Packet.size p) = false) →
        ∃ t : State, exec .fabricPacketArrival s = .next t ∧ ReadServed s t (replyTo p .ok
          ((Packet.offsets p).flatMap fun o => s.mem.hbm.bytes (w.base + o.toNat) (Packet.size p)) s.ftime)) ∧
      (∀ w o, s.admitted p = .ok w → (p.kind = 1 ∨ p.kind = 3) → Packet.offsets p = [o] → p.data.length = Packet.size p → MemoryOk s →
        ∃ t : State, exec .fabricPacketArrival s = .next t ∧ (∀ i, i < Packet.size p → t.mem.hbm.get (w.base + o.toNat + i) = p.data.getD i 0) ∧
          (∀ a, a < w.base + o.toNat ∨ w.base + o.toNat + Packet.size p ≤ a → t.mem.hbm.get a = s.mem.hbm.get a) ∧
          t.fab.sentReplies = s.fab.sentReplies ++ [replyTo p .ok [] s.ftime] ∧ t.fab.records = s.fab.records ++ [replyTo p .ok [] s.ftime] ∧
          t.core = s.core) ∧
      (∀ w o, s.admitted p = .ok w → p.kind = 2 → Packet.offsets p = [o] → MemoryOk s →
        hbmRangeBad s.mem (w.base + o.toNat) (Packet.size p) = false →
        let n := Packet.size p; let old := s.mem.hbm.read (w.base + o.toNat) n
        let new := atomApply (AOp.ofCode p.op) (amoEty p.opTy) old (valueOfBytes (p.data.take n)) (valueOfBytes ((p.data.drop n).take n))
        ∃ t : State, exec .fabricPacketArrival s = .next t ∧ Stored t (.hbm (w.base + o.toNat)) n new ∧
          SameMemoryBut s t (.hbm (w.base + o.toNat)) n ∧
          t.fab.sentReplies = s.fab.sentReplies ++ [replyTo p .ok (bytesOf old n) s.ftime])) ∧
    (∀ p r, Arrives s p → (p.kind = 1 ∨ p.kind = 2 ∨ p.kind = 3) → keptOf s p = some r →
      exec .fabricPacketArrival s = .next (replied s { r with kind := answerKind p })) ∧
    (∀ r c q, s.choice = .record r c q → exec .sequenceExpiry s = .next (withFab s { s.fab with records := s.fab.records.filter fun x =>
      !(x.requester.toNat == r && x.core.toNat == c && x.seq.toNat == q && decide (x.at? + 12000 ≤ s.ftime)) })) ∧
    (∀ n q st data r, s.choice = .reply n q st data → Answers s n q r → (st = .ok → data.length = r.replyBytes) →
      s.answered r.packet.target r.packet.core r.packet.seq st data = true → MemoryOk s →
      ∃ u : State, exec .fabricReplyArrival s = .next (u.endLdrs.endJobs) ∧
        ((∀ j i, r.use ≠ .line j i) → untimed u.fab.reqs = untimed (s.fab.reqs.erase r)) ∧
        (SitsHere s r → u.mem = { s.mem with openRegions := u.mem.openRegions }) ∧
        (∀ d n sgn, r.use = .scalar d n sgn → let v := Machine.widen sgn n (valueOfBytes data)
          (SitsHere s r → st = .ok → ∀ x, u.x x = if x = d ∧ x ≠ 0 then v else s.x x) ∧
          (SitsHere s r → st ≠ .ok → u.core.xfail = s.core.xfail ++ (if d = 0 then [] else [(d, failExc r st)]) ∧ ∀ x, u.x x = s.x x) ∧
          (∀ w, s.away r.handle r.wid = some w → st = .ok → d ≠ 0 → u.mem.hbm.read (w.me.image.toNat + 0xE0 + 8 * d.toNat) 8 = v.toNat)) ∧
        (∀ d w p l, r.use = .lanes d w p l → st ≠ .ok → u.core.fills = s.core.fills ++ [⟨d, some (failExc r st)⟩]) ∧
        (∀ d w e, r.use = .lanes d w 0 [e] → st = .ok → data.length = w / 8 → w = 8 * (w / 8) → (s.vreg d).tag.fmt ≠ .mask →
          (∀ y, y ≠ d → u.vreg y = s.vreg y) ∧ ∀ k, partOf (u.vreg d) w 0 k = if k = e then valueOfBytes data else partOf (s.vreg d) w 0 k) ∧
        (threadUse r.use = true → u.fab.fails = s.fab.fails ++ (if st ≠ .ok ∧
          Packet.writes r.packet = true then [⟨r.handle, r.wid, failExc r st⟩] else [])) ∧
        (∀ c wr, r.use = .far c wr → u.fab.far = s.fab.far.map fun x =>
          if x.handle = r.handle ∧ x.wid = r.wid ∧ x.cmd = c ∧ x.write = wr ∧ x.va = r.addr ∧ x.ans = .awaited then
            { x with ans := if st = .ok then .data data else .failed 0x15 ((MStatus.code st).setWidth 8), read := r.read } else x)) ∧
    (∀ i r, s.choice = .index i → s.fab.reqs[i]? = some r → r.sent + 2000 ≤ s.ftime → heldBehind s.fab.reqs r = false →
      (r.packet.attempt ≠ 3 → ∃ t r', exec .fabricAttemptTimeout s = .next t ∧ r'.packet.attempt = r.packet.attempt + 1 ∧ r'.sent = s.ftime ∧
        r' = { r with sent := s.ftime, packet := { r.packet with attempt := r'.packet.attempt, alternate := r'.packet.alternate } } ∧
        t = withFab s { s.fab with reqs := s.fab.reqs.map fun q => if q = r then r' else q }) ∧
      (r.packet.attempt = 3 → ∃ u : State, exec .fabricAttemptTimeout s = .next (u.endLdrs.endJobs) ∧
        ((∀ j i, r.use ≠ .line j i) → untimed u.fab.reqs = untimed (s.fab.reqs.erase r)) ∧
        (threadUse r.use = true → u.fab.fails = s.fab.fails ++ (if Packet.writes r.packet = true then [⟨r.handle, r.wid, failExc r .absent⟩] else [])))) ∧
    (∀ j, FabAtHead s j → j.started = false → let l := (s.group j.gid).getD []; let paths := (l.map (pathNow s)).dedup
      let behind (n : BitVec 8 × Bool) := l.filter fun m => pathNow s m == n
      let seqOf (m : Member) : BitVec 32 := s.core.seq + BitVec.ofNat 32 (paths.findIdx fun n => n == pathNow s m)
      ∃ t : State, exec .mcStStart s = .next t ∧ t.core.seq = s.core.seq + BitVec.ofNat 32 paths.length ∧ t.mem = s.mem ∧ t.core.sc = s.core.sc ∧
        t.fab.banks = s.fab.banks ++ paths.map (fun n =>
          ⟨j.id, n.1, false, (l.zipIdx.filter fun x => pathNow s x.1 == n).map (·.2), s.linePacket j (behind n) (((behind n).head?.map seqOf).getD 0)⟩) ∧
        ∀ x ∈ t.fab.jobs, x.id = j.id → x.started = true ∧ x.members = l ∧ x.seqs = l.map seqOf ∧ x.codes = l.map (fun _ => none) ∧
          x.sent = s.ftime) ∧
    (∀ i, s.choice = .index i → exec .multicastBankAccept s = .next
      (withFab s { s.fab with banks := s.fab.banks.modify i fun b => { b with accepted := true } })) ∧
    (∀ i m b, s.choice = .branch i m → s.fab.banks[i]? = some b → b.accepted = true → let left := b.branches.filter (· != m)
      exec .multicastBranchForward s = .next
        (withFab s { s.fab with banks := if left = [] then s.fab.banks.eraseIdx i else s.fab.banks.set i { b with branches := left } })) ∧
    (∀ j n st m, s.choice = .statuses [(n, st)] → FabAtHead s j → j.started = true → j.members[n]? = some m →
      (∀ b ∈ s.fab.banks, ¬ (b.job = j.id ∧ n ∈ b.branches)) → s.answered m.pkg (BitVec.ofNat 16 j.core) (j.seqs.getD n 0) st [] = true →
      ∃ reqs, untimed reqs = untimed (s.fab.reqs.filter fun q => q.use != .line j.id n) ∧
        exec .acknowledgementArrival s = .next (withFab s { s.fab with
          jobs := s.fab.jobs.map fun x => if x.id = j.id then { x with codes := x.codes.modify n fun c => if c.isSome = true then c else some st } else x
          reqs := reqs }).endJobs) ∧
    (∀ j, s.fab.jobs = [j] → j.started = true → (∀ c ∈ j.codes, c ≠ none) → s.farWaits j.region = false →
      s.endJobs = s.writeAck j ∧ (s.endJobs.fab.jobs = [] ∨ ∃ a ∈ s.endJobs.fab.far, a.cmd = some j.region)) ∧
    ((∀ j ∈ s.fab.jobs, j.started = false ∨ ∃ c ∈ j.codes, c = none) → (∀ j ∈ s.fab.ldrs, j.waits = true ∨ ∃ r ∈ j.replies, r = none) →
      s.endLdrs.endJobs = s)

/-! ### Claim events -/

/-- R379, R384 to R394, R398: messages reach their members, claims close in order with the outcome that the breaches, objections and rivals
give them, which stands once an effect store to a fabric window has left for a TAKEN one, and are forgotten when they can decide no other;
and the thread at an unknown claim whose time has passed raises NOCLAIM. Handles, notices, members and the waiting of a close follow log
entries 46 to 51. -/
def Obligations.ClaimEvents : Prop :=
  ∀ (s : State),
    (∀ p dest x seen u, s.choice = .courier p dest → s.receive false p dest = some (x, seen, u) → x.find p.handle = none →
      u.claimsFull x.group.tag p.handle = false →
      ∃ t : State, exec .proposalReceived s = .next t ∧ (u.member x.group.tag x.ep = some x → ∃ m ∈ t.claims.members, m.group = x.group ∧
        m.ep = x.ep ∧
        ∃ c ∈ m.claims, c.handle = p.handle ∧ c.t0 = p.tsend ∧ c.w = p.w.toNat ∧ c.key = p.key ∧ c.payload = p.payload ∧ c.who = p.sender ∧
          c.outcome = none)) ∧
    (∀ p dest x seen u, s.choice = .courier p dest → s.receive true p dest = some (x, seen, u) → exec .objectionReceived s = .next
      (withClaims u { u.claims with members := u.claims.members.map fun y => if y.group.tag = x.group.tag ∧ y.ep = x.ep then
        (match y.find p.handle with
          | none => { y with held := y.held ++ [(p.handle, p.tsend)] }
          | some _ => { y with claims := y.claims.map fun c => if c.handle = p.handle then
              (if c.outcome = none ∧ min u.ftime (p.tsend + y.group.lmax + y.group.eps) < c.t0 + c.w ∧
                (p.tsend : Int) ≤ (c.t0 + c.w : Nat) - (y.group.lmax : Int) - y.group.eps then
                { c with objected := true } else c) else c })
        else y })) ∧
    (∀ m, s.choice = .breach m → let valid := m.tag = 0 ∧ m.handle = 0 ∧ m.w = 0 ∧ m.payload = 0 ∧ m.sender ≠ packageEp ∧
        m.tsend ≤ s.ftime + Part.epsDomain ∧ s.ftime ≤ m.tsend + 1200 + Part.epsDomain
      (valid → exec .breachNoticeReceived s = .next (withClaims s { s.claims with breaches := s.claims.breaches ++ [m.tsend] })) ∧
      (¬ valid → exec .breachNoticeReceived s = .next s)) ∧
    ((s.choice = .cause .pathFailed ∨ s.choice = .cause .spaceLost) → exec .breachNoticeOriginate s = .next (breachSent s)) ∧
    (s.choice = .cause .timeFlag → exec .breachNoticeOriginate s = .next
      (if s.fab.timeFlag = true ∨ s.part.hasFab = false then s else breachSent (withFab s { s.fab with timeFlag := true }))) ∧
    (∀ tag ep h, s.choice = .claim tag ep h →
      (s.handlePassed h 1048576 = true → (∀ m, s.member tag ep = some m → s.overdue m = false) →
        exec .heldObjectionDiscard s = .next (withClaims s { s.claims with members := s.claims.members.map fun m =>
        if m.group.tag = tag ∧ m.ep = ep then { m with held := m.held.filter fun x => x.1 != h } else m })) ∧
      ∃ t : State, exec .claimForget s = .next t ∧ t = withClaims s { s.claims with members := t.claims.members } ∧
        t.claims.members.length = s.claims.members.length ∧
        ∀ (n : Nat) (m : ClaimMember), s.claims.members[n]? = some m → ∃ m' : ClaimMember, t.claims.members[n]? = some m' ∧
          m' = { m with claims := m'.claims } ∧ m'.claims.Sublist m.claims ∧ ∀ c ∈ m.claims, c ∉ m'.claims ↔
            m.group.tag = tag ∧ m.ep = ep ∧ c.handle = h ∧ c.outcome ≠ none ∧ c.t0 + c.w + 1048576 < s.ftime ∧ ¬ StillMeets s m c) ∧
    (∀ (m : ClaimMember) (x : Claim), m ∈ s.claims.members → MayClose s m x →
      let late (t : Nat) : Prop := (t : Int) ≤ (x.t0 + x.w : Nat) - (m.group.lmax : Int) - m.group.eps
      let broken := ∃ t ∈ s.claims.breaches, x.t0 ≤ t + x.w ∧ late t; let beaten := ∃ y ∈ m.claims, Beats y x
      ∃ t : State, exec .claimClose s = .next t ∧ t.core.sc = s.core.sc ∧ t.core.vec = s.core.vec ∧
        (∀ a w o, s.effectAns m x = some a → a ≠ .awaited →
          Machine.locate s.part s.mem (s.memberSpace m) (s.effectAddr m x) 8 .store = .ok (.fabric w o) → ClosedAs t m x.handle 1) ∧
        (s.effectAns m x = none → (broken → ClosedAs t m x.handle 4) ∧ (¬ broken → x.objected = true → ClosedAs t m x.handle 2) ∧
        (¬ broken → x.objected = false → beaten → ClosedAs t m x.handle 3) ∧
        (¬ broken → x.objected = false → ¬ beaten → EffectNear s m x → ClosedAs t m x.handle 1 ∧
          ∀ l, Machine.locate s.part s.mem (s.memberSpace m) (s.effectAddr m x) 8 .store = .ok l → badAt s.mem l = none → MemoryOk s →
            l.isSpad = false → Stored t l 8 x.payload.toNat))) ∧
    (∀ d h g m, (s.core.run = .waiting ∨ s.core.run = .asleep) → s.atPc = .ok (.clWait d h g) → Acts s g m → s.x h ≠ BitVec.allOnes 64 →
      s.knownClaim m (s.x h) = none → Gone s m (s.x h) → exec .noclaim s = .next ((runs s .running).except ⟨0x0E, 0x14, 0, 0⟩)) ∧
    (∀ h g m, (s.core.run = .waiting ∨ s.core.run = .asleep) → s.atPc = .ok (.clObj h g) → Acts s g m → s.x h ≠ BitVec.allOnes 64 →
      s.knownClaim m (s.x h) = none → Gone s m (s.x h) → exec .noclaim s = .next ((runs s .running).except ⟨0x0E, 0x14, 0, 0⟩))

/-! ### Host -/

/-- R400 to R404, R409, R410: the registers of the host, submissions that are read, answered or read again, writes to device memory, the
boot, and function-level reset. The addresses of the host's records, the status before the boot, how the flags of the boot are set, and what
a function-level reset keeps are the model's (log entries 68, 70, 71). -/
def Obligations.HostAccessesAndBoot : Prop :=
  ∀ (s : State),
    (∀ a l b, s.choice = .hostWrite a l b → MemoryOk s → ∃ t : State, exec .hostWrite s = .next t ∧
      (∀ i, i < l.length → t.mem.hbm.get (a + i) = l.getD i 0) ∧ (∀ q, q < a ∨ a + l.length ≤ q → t.mem.hbm.get q = s.mem.hbm.get q) ∧
      t = { s with mem := t.mem } ∧ t.mem.spad = s.mem.spad ∧ t.mem.cxl = s.mem.cxl) ∧
    (∀ (off : BitVec 16) (size : Nat) (w : Word), s.choice = .hostReg off size w →
      let whole := size = 8 ∧ off.toNat % 8 = 0; let table := 0x1000 ≤ off.toNat ∧ off.toNat < 0x1400
      (whole → off = 0x008 → exec .hostRegisterWrite s = .next (withHost s { s.host with srbase := w &&& 0xFFFFFFFFFF000 })) ∧
      (whole → table → exec .hostRegisterWrite s = .next
        (withHost s { s.host with msixTable := (off.toNat, w) :: s.host.msixTable.filter fun x => x.1 != off.toNat })) ∧
      (whole → off ≠ 0 → off ≠ 0x008 → off ≠ 0x028 → ¬ table → exec .hostRegisterWrite s = .next s) ∧
      (¬ whole → exec .hostRegisterWrite s = .next s ∧
        exec .hostRegisterRead s = .next (withHost s { s.host with reads := s.host.reads ++ [BitVec.allOnes 64] })) ∧
      (whole → off ≠ 0 → off ≠ 0x028 → exec .hostRegisterRead s = .next (withHost s { s.host with reads := s.host.reads ++ [
        if off = 0x008 then s.host.srbase else if off = 0x010 then s.host.srhead else if off = 0x018 then s.part.cap
        else if off = 0x020 then s.host.bootst
        else if table then ((s.host.msixTable.find? fun x => x.1 == off.toNat).map (·.2)).getD 0 else 0] }))) ∧
    (∀ w, s.choice = .value w → s.host.queue = [] → MemoryOk s → s.host.srbase ≠ 0 →
      let q : HostReq := ⟨w, false, 0, s.ftime, none⟩; let u := withHost s { s.host with queue := [q] }
      let l := s.mem.hbm.bytes (w.toNat / 256 * 256) 256
      let sound := (recordCrc l 0x7C).toNat = field l 0x7C 4 ∧ hbmRangeBad s.mem (w.toNat / 256 * 256) 256 = false
      ((bits w 52 12 ≠ 0 ∨ s.host.bootst.getLsbD 0 = false) → ∃ t : State, exec .submit s = .next t ∧ Answered u t q (refusal 2)) ∧
      (bits w 52 12 = 0 → s.host.bootst.getLsbD 0 = true → sound →
        ∃ t : State, exec .submit s = .next t ∧ Answered u t q (u.submitRecord l none []).1 ∧ t.sched = (u.submitRecord l none []).2.sched) ∧
      (bits w 52 12 = 0 → s.host.bootst.getLsbD 0 = true → ¬ sound →
        exec .submit s = .next (withHost s { s.host with queue := [⟨w, false, 1, s.ftime + 1000, none⟩] }))) ∧
    (∀ q, s.host.queue = [q] → q.record = none → q.svc = false → q.due ≤ s.ftime → bits q.val 52 12 = 0 → s.host.bootst.getLsbD 0 = true →
      MemoryOk s → s.host.srbase ≠ 0 → let l := s.mem.hbm.bytes (q.val.toNat / 256 * 256) 256
      let sound := (recordCrc l 0x7C).toNat = field l 0x7C 4 ∧ hbmRangeBad s.mem (q.val.toNat / 256 * 256) 256 = false
      (sound → ∃ t : State, exec .submitReread s = .next t ∧ Answered s t q (s.submitRecord l none []).1) ∧
      (¬ sound → q.tries < 16 → exec .submitReread s = .next
        (withHost s { s.host with queue := [{ q with tries := q.tries + 1, due := s.ftime + 1000 }] })) ∧
      (¬ sound → 16 ≤ q.tries → ∃ t : State, exec .submitReread s = .next t ∧ Answered s t q (refusal 1))) ∧
    (∀ f, s.choice = .flash f → s.host.bootst = 0 → ∃ t : State, exec .boot s = .next t ∧ t = withHost s t.host ∧
      (f = .unreadable → t.host = { s.host with bootst := 0x30 }) ∧ (f = .malformed → t.host = { s.host with bootst := 0x20 }) ∧
      (∀ code sig, f = .image code sig →
        (Config.falconVerify (shake256 code 64) sig = false → t.host = { s.host with bootst := 0x10 }) ∧
        (Config.falconVerify (shake256 code 64) sig = true → t.host = { s.host with
          bootst := 3, measure := (shake256 code 64 :: Config.firmwareDigests).foldl (fun m d => shake256 (m ++ d) 64) s.host.measure }))) ∧
    (∀ f, s.choice = .flash f → s.host.bootst ≠ 0 → exec .boot s = .next s) ∧
    (∀ f, s.choice = .flash f → ∃ t : State, exec .functionLevelReset s = .next t ∧ t.mem.hbm = s.mem.hbm ∧ t.mem.cxl = s.mem.cxl ∧
      t.mem.spad = ⟨[]⟩ ∧
      t.sched = State.reset.sched ∧ t.core = State.reset.core ∧ t.parked = State.reset.parked ∧ t.fab = State.reset.fab ∧ t.ftime = s.ftime ∧
      t.part = s.part)

namespace Sys2Proof.Claims

open Machine

/-- A host's request for a service of code `code`, for a stream that the innkeeper keeps, at the head of the queue and alone in it, while no other
service goes on. -/
abbrev HostWants (s : State) (code : Nat) (q : HostReq) (r : SvcRec) (x : Stream) : Prop :=
  (∃ root, s.choice = .service .host root) ∧ s.host.queue = [q] ∧ s.host.begun = [] ∧ s.host.srbase ≠ 0 ∧ s.stream r.stream = some x ∧
    (q.record.map parseService) = some r ∧ r.code = code ∧ (q.record.map fun l => field l 0 2) = some code

/-- The flags that a service does not name, and the arguments that it does not use, are zero (R405). -/
abbrev OnlyUses (r : SvcRec) (flags : Nat) (args : List Word) : Prop := r.flags < flags ∧ ∀ a ∈ args, a = 0

/-- The service has been refused with a status: nothing but the answer (R406). -/
def RefusedWith (s : State) (o : Host.Outcome State Fault Refusal) (q : HostReq) (code : Nat) : Prop :=
  ∃ t, o = .next t ∧ Answered s t q (refusal code) ∧ t = { s with mem := t.mem, host := t.host } ∧
    ∀ a, a < s.host.srbase.toNat ∨ s.host.srbase.toNat + 4096 ≤ a → t.mem.hbm.get a = s.mem.hbm.get a

/-- The service has taken effect: the answer, and what `f` says of the state after it (R406). -/
def ServedWith (s : State) (o : Host.Outcome State Fault Refusal) (q : HostReq) (f : State → Prop) : Prop := ∃ t, o = .next t ∧ Answered s t q 0 ∧ f t

/-- The state in which the host's service, which has begun and cannot end yet, goes on with the record of its request (R372, R406). -/
def goesOn (s : State) (q : HostReq) : State := withHost s { s.host with begun := [⟨none, q.record.getD []⟩] }

/-- The streams with what the innkeeper keeps of one of them changed by `f`. -/
def streamsBut (s : State) (id : BitVec 32) (f : Stream → Stream) : List Stream := s.streams.map fun x => if x.id = id then f x else x

/-- Pages of these bytes are mapped one after another at tier 1 from `va` up, each with the first free origin (R320, R321, R407). -/
def placed (s : State) (root va : Word) (rights : Nat) : List (List Byte) → Option State
  | [] => some s
  | l :: rest => match takeFrame s.freeOrigins with
    | none => none
    | some (f, _) =>
      let held : State := { s with
        porter := { s.porter with cxlFree := cutFrames f 1 s.porter.cxlFree }
        mem := writeBytesLoc s.mem (.cxl (65536 * f)) l }
      match held.mapLeaf root va (BitVec.ofNat 64 (65536 * f + 32 * rights + 0x0B)) with
      | none => none
      | some t => placed t root (va + 65536) rights rest

/-- The bytes of the pages that PLACE maps: the fill word over and over, or those of the source range, page by page (R407). -/
def PlaceBytes (s : State) (x : Stream) (r : SvcRec) (pages : List (List Byte)) : Prop :=
  pages.length = r.arg1.toNat ∧ ∀ k < r.arg1.toNat,
    if r.flags = 1 then pages[k]? = some ((List.range 65536).map fun i => (bytesOf r.arg2.toNat 4).getD (i % 4) 0)
    else ∃ l, s.streamBytes x.root (r.arg2 + BitVec.ofNat 64 (65536 * k)) 65536 = .ok l ∧ pages[k]? = some l

/-- The bytes from `out` up are the writable bytes of HBM from `a` up, in one frame, away from the result ring (R405). -/
abbrev OutputAt (s : State) (x : Stream) (out : Word) (n a : Nat) : Prop :=
  out ≠ 0 ∧ s.streamLoc x.root out 6 = some (.hbm a) ∧ out.toNat % 65536 + n ≤ 65536 ∧
    (a + n ≤ s.host.srbase.toNat ∨ s.host.srbase.toNat + 4096 ≤ a)

/-- The bytes that a service writes to `out`, all of them or none (R405). -/
def Outputs (s : State) (o : Host.Outcome State Fault Refusal) (q : HostReq) (x : Stream) (out : Word) (l : List Byte) : Prop :=
  (out = 0 → ServedWith s o q fun t => t = { s with mem := t.mem, host := t.host }) ∧
    (∀ a, OutputAt s x out l.length a → ServedWith s o q fun t => t = { s with mem := t.mem, host := t.host } ∧ t.mem.hbm.bytes a l.length = l) ∧
    (out ≠ 0 → s.streamLoc x.root out 6 = none → l ≠ [] → RefusedWith s o q 6)

end Sys2Proof.Claims

/-! ### Services -/

/-- R405 to R408, R190, R321, R347, R351, R363, R372: what each service of the innkeeper does with a sound record of the host, when it
refuses one, and that a program whose record is misaligned goes on with BADREC. Address spaces, frames, refusals and streams follow log
entries 72 to 77 and 86, and that a CONTEXT which sets the step waits while a card of the context runs follows log entry 107: these are the
model's. -/
def Obligations.InnkeeperServices : Prop :=
  ∀ (s : State), MemoryOk s →
    (∀ q r x, HostWants s 0x01 q r x → let o := exec .place s
      let sound := OnlyUses r 2 [r.arg4] ∧ r.arg0.toNat % 65536 = 0 ∧ 1 ≤ r.arg1.toNat ∧ r.arg1.toNat ≤ 2 ^ 20 ∧ r.arg3.toNat ≤ 15 ∧
        (r.flags = 1 → r.arg2.toNat < 2 ^ 32) ∧ s.unmapped x.root r.arg0 r.arg1.toNat = true
      (¬ OnlyUses r 2 [r.arg4] ∨ r.arg0.toNat % 65536 ≠ 0 ∨ r.arg1 = 0 ∨ 2 ^ 20 < r.arg1.toNat ∨ 15 < r.arg3.toNat → RefusedWith s o q 6) ∧
      (∀ k, sound → r.flags = 0 → k < r.arg1.toNat → s.streamBytes x.root (r.arg2 + BitVec.ofNat 64 (65536 * k)) 65536 = .error (.refused .badArg) →
        (∀ j < k, ∃ l, s.streamBytes x.root (r.arg2 + BitVec.ofNat 64 (65536 * j)) 65536 = .ok l) → RefusedWith s o q 6) ∧
      (∀ pages, sound → PlaceBytes s x r pages → placed s x.root r.arg0 r.arg3.toNat pages = none → RefusedWith s o q 7) ∧
      (∀ pages u, sound → PlaceBytes s x r pages → placed s x.root r.arg0 r.arg3.toNat pages = some u → ServedWith s o q fun t =>
        t.mem.cxl = u.mem.cxl ∧ t.porter = u.porter ∧ t.mem.spad = s.mem.spad ∧
          (∀ a, a < s.host.srbase.toNat ∨ s.host.srbase.toNat + 4096 ≤ a → t.mem.hbm.get a = u.mem.hbm.get a) ∧
          ∀ f free l, r.arg1 = 1 → takeFrame s.freeOrigins = some (f, free) → pages = [l] → l.length = 65536 →
            ∀ i, i < 65536 → t.mem.cxl.get (65536 * f + i) = l.getD i 0)) ∧
    (∀ q r x, HostWants s 0x02 q r x → let o := exec .group s; let cut := x.slots.filter fun y => y.1 != r.arg1.toNat
      (15 < r.arg1.toNat → RefusedWith s o q 6) ∧
      (OnlyUses r 2 [r.arg0, r.arg2, r.arg3, r.arg4] → r.flags = 1 → r.arg1.toNat ≤ 15 → ServedWith s o q fun t =>
        t.streams = streamsBut s r.stream (fun y => { y with slots := y.slots.filter fun z => z.1 != r.arg1.toNat }) ∧ t.claims = s.claims) ∧
      (OnlyUses r 1 [r.arg2, r.arg3, r.arg4] → r.arg1.toNat ≤ 15 → r.arg0.toNat % 16 ≠ 0 → RefusedWith s o q 2) ∧
      (∀ g, OnlyUses r 1 [r.arg2, r.arg3, r.arg4] → r.arg1.toNat ≤ 15 → s.readGroup x.root r.arg0 = .ok g → ServedWith s o q fun t =>
        (∀ y, t.stream r.stream = some y → y.slots = (r.arg1.toNat, g) :: cut ∧ y.root = x.root) ∧
          ∀ m ∈ (if g.domain = true then g.members.filter (fun m => m.1 == packageEp) else g.members), (t.member g.tag m.1).isSome = true)) ∧
    (∀ q r x, HostWants s 0x03 q r x → let o := exec .context s; let ctx := r.arg0.toNat
      let sound := OnlyUses r 4 [r.arg2, r.arg3, r.arg4] ∧ ctx ≤ 31 ∧ r.flags ≠ 3 ∧ (r.flags % 2 = 0 → r.arg1 = 0)
      let free := (∀ g ∈ s.grants, g.1 = ctx → g.2 = r.stream) ∧ ∀ n ∈ s.sched.nodes, n.contexts.contains ctx = true → n.record.stream = r.stream
      (¬ sound → RefusedWith s o q 6) ∧ (sound → ¬ free → RefusedWith s o q 8) ∧
      (sound → free → r.flags = 2 → ServedWith s o q fun t => t.grants = s.grants.filter (fun g => g.1 != ctx) ∧ t.eng = s.eng) ∧
      (sound → free → r.flags = 1 → s.contextRuns ctx = true → o = .next (goesOn s q)) ∧
      (sound → free → r.flags ≠ 2 → (r.flags = 1 → s.contextRuns ctx = false) → ServedWith s o q fun t =>
        t.grants = (ctx, r.stream) :: s.grants.filter (fun g => g.1 != ctx) ∧
          ∀ d < s.part.dies, t.stepOf d ctx = if r.flags = 1 then r.arg1 else s.stepOf d ctx)) ∧
    (∀ q r x, HostWants s 0x04 q r x → let o := exec .pool s
      let sound := OnlyUses r 1 [r.arg1, r.arg2, r.arg3, r.arg4] ∧ 1 ≤ r.arg0.toNat ∧ r.arg0.toNat ≤ 2 ^ 24
      (¬ sound → RefusedWith s o q 6) ∧ (sound → ServedWith s o q fun t =>
        t = { s with mem := t.mem, host := t.host, streams := streamsBut s r.stream fun y => { y with pool := some r.arg0.toNat } })) ∧
    (∀ q r x, HostWants s 0x05 q r x → let o := exec .gtable s; let gid := r.arg0.toNat; let e := tableBase s.fab.sgtab + 16 * gid
      let sound := OnlyUses r 1 [r.arg3, r.arg4] ∧ 1 ≤ gid ∧ gid ≤ 1023 ∧ r.arg2.toNat ≤ 512
      let apart := e + 16 ≤ s.host.srbase.toNat ∨ s.host.srbase.toNat + 4096 ≤ e
      (¬ sound → RefusedWith s o q 6) ∧ (sound → tableBase s.fab.sgtab = 0 → RefusedWith s o q 7) ∧
      (sound → tableBase s.fab.sgtab ≠ 0 → r.arg2 = 0 → apart → ServedWith s o q fun t => t.mem.hbm.read e 16 = 0 ∧ t.porter = s.porter) ∧
      (∀ l f free, sound → tableBase s.fab.sgtab ≠ 0 → r.arg2 ≠ 0 → apart → s.streamBytes x.root r.arg1 (16 * r.arg2.toNat) = .ok l →
        (gtableBad r.arg2.toNat l = true → RefusedWith s o q 6) ∧
        (gtableBad r.arg2.toNat l = false → takeFrame s.freeFrames = none → RefusedWith s o q 7) ∧
        (gtableBad r.arg2.toNat l = false → takeFrame s.freeFrames = some (f, free) → f < 2 ^ 32 → ServedWith s o q fun t =>
          t.mem.hbm.read e 8 = 65536 * f ∧ t.mem.hbm.read (e + 8) 2 = r.arg2.toNat ∧
            t.porter = { s.porter with hbmFree := cutFrames f 1 s.porter.hbmFree }))) ∧
    (∀ q r x, HostWants s 0x06 q r x → let o := exec .window s; let w := r.arg0.toNat; let e := tableBase s.fab.swtab + 16 * w
      let pin := 2 ^ 64 + w; let apart := e + 16 ≤ s.host.srbase.toNat ∨ s.host.srbase.toNat + 4096 ≤ e
      let others := s.porter.pins.filter fun y => y.2 != pin
      (0xFFFF < w → RefusedWith s o q 6) ∧
      (OnlyUses r 1 [r.arg4] → w ≤ 0xFFFF → s.window w = none → RefusedWith s o q 7) ∧
      (∀ old, OnlyUses r 2 [r.arg1, r.arg2, r.arg3, r.arg4] → r.flags = 1 → w ≤ 0xFFFF → s.window w = some old → apart → ServedWith s o q fun t =>
        t.window w = some { old with state := 2 } ∧ t.porter.pins = others) ∧
      (∀ old l a, OnlyUses r 1 [r.arg4] → w ≤ 0xFFFF → s.window w = some old → apart → r.arg1.toNat % 64 = 0 → 1 ≤ r.arg2.toNat →
        r.arg2.toNat < 2 ^ 48 → r.arg3.toNat ≤ 15 → s.hbmFrames x.root (r.arg2.toNat / 65536 + 2) r.arg1 r.arg2.toNat = some l →
        s.streamLoc x.root r.arg1 0 = some (.hbm a) →
        (consecutive l = false → RefusedWith s o q 6) ∧
        (consecutive l = true → ServedWith s o q fun t => t.window w = some ⟨1, r.arg3.setWidth 4, r.arg2.toNat, a⟩ ∧
          t.porter.pins = others ++ l.map (fun y => (y.2, pin))))) ∧
    (∀ q r x, HostWants s 0x07 q r x → let o := exec .grant s
      let sound := OnlyUses r 1 [r.arg4] ∧ r.arg0.toNat ≤ 0xFFFF ∧ r.arg1.toNat ≤ 511 ∧ r.arg2.toNat ≤ 15 ∧ r.arg3.toNat ≤ 4095
      (¬ sound → RefusedWith s o q 6) ∧
      (∀ k, sound → k < 256 → k ∉ s.fab.retired → (∀ i < k, i ∈ s.fab.retired) →
        Outputs s o q x r.out (bytesOf (grantToken r.arg0.toNat r.arg3.toNat r.arg2.toNat k r.arg1.toNat).toNat 8))) ∧
    (∀ q r x, HostWants s 0x08 q r x → let o := exec .retire s; let sound := OnlyUses r 1 [r.arg1, r.arg2, r.arg3, r.arg4] ∧ r.arg0.toNat ≤ 255
      (¬ sound → RefusedWith s o q 6) ∧ (sound → ServedWith s o q fun t => (∀ k, k ∈ t.fab.retired ↔ k = r.arg0.toNat ∨ k ∈ s.fab.retired) ∧
        t = { s with mem := t.mem, host := t.host, fab := { s.fab with retired := t.fab.retired } })) ∧
    (∀ q r x, HostWants s 0x09 q r x → let o := exec .tokmap s; let i := r.arg0.toNat; let tokens := s.fab.tokens.filter fun y => y.1 != i
      (4095 < i ∨ r.arg3.toNat % 65536 ≠ 0 → RefusedWith s o q 6) ∧
      (∀ u, OnlyUses r 1 [] → i ≤ 4095 → r.arg3.toNat % 65536 = 0 → r.arg3.toNat < remoteBase → r.arg4.toNat ≤ remoteBase / 65536 →
        r.arg2.toNat ≤ 767 → s.unmapped x.root r.arg3 r.arg4.toNat = true → s.mapWindow x.root r.arg3 i r.arg4.toNat = some u →
        ServedWith s o q fun t => t.fab.tokens = (i, ⟨r.arg2.setWidth 10, (r.arg3 >>> 16).setWidth 36, r.arg1⟩) :: tokens ∧ t.porter = u.porter) ∧
      (∀ u, OnlyUses r 2 [r.arg1, r.arg2] → r.flags = 1 → i ≤ 4095 → r.arg3.toNat % 65536 = 0 → r.arg3.toNat < remoteBase →
        r.arg4.toNat ≤ remoteBase / 65536 → s.unmapWindow x.root r.arg3 i r.arg4.toNat = some u →
        ((∀ y ∈ s.fab.reqs, y.win ≠ some i) → ServedWith s o q fun t => t.fab = { s.fab with tokens := tokens }) ∧
        ((∃ y ∈ s.fab.reqs, y.win = some i) → o = .next (goesOn (withFab u { u.fab with tokens := u.fab.tokens.filter fun y => y.1 != i }) q)))) ∧
    (∀ q r x, HostWants s 0x0A q r x → let o := exec .attest s
      (¬ OnlyUses r 2 [r.arg1, r.arg2, r.arg3, r.arg4] → RefusedWith s o q 6) ∧
      (OnlyUses r 2 [r.arg1, r.arg2, r.arg3, r.arg4] → s.streamBytes x.root r.arg0 32 = .error (.refused .badArg) →
        RefusedWith s o q 6) ∧
      (∀ nonce, OnlyUses r 2 [r.arg1, r.arg2, r.arg3, r.arg4] → s.streamBytes x.root r.arg0 32 = .ok nonce →
        let head := nonce ++ s.host.measure ++ bytesOf s.part.cap.toNat 8 ++ bytesOf Config.packageNumber.toNat 2 ++ List.replicate 6 0
        Outputs s o q x r.out (head ++ padTo 1280 ((Config.falconSign head).take 1280) ++
          if r.flags = 1 then padTo 1793 (Config.identityKey.take 1793) else []))) ∧
    (∀ q r x, HostWants s 0x0B q r x → let o := exec .measure s
      (¬ OnlyUses r 1 [r.arg0, r.arg1, r.arg2, r.arg3, r.arg4] → RefusedWith s o q 6) ∧
      (OnlyUses r 1 [r.arg0, r.arg1, r.arg2, r.arg3, r.arg4] → Outputs s o q x r.out s.host.measure)) ∧
    (∀ root, s.choice = .service .program root → s.programAsks = true → (s.x 5).toNat % 64 ≠ 0 →
      ∀ i ∈ ([.place, .group, .context, .pool, .gtable, .window, .grant, .retire, .tokmap, .attest, .measure] : List Instr),
        exec i s = .next ((s.setX 5 (refusal 2)).eretSup))
end

