-- ==== Sys2Proof/Laws/State.lean ====
section
/-! SUPPORT. What each update of the state leaves in each field: one lemma per field and update, true by unfolding. -/

namespace Sys2Proof.Machine.State

/-! ### `mapCore` -/

@[simp] theorem mapCore_part (s : State) (f : Core → Core) : (s.mapCore f).part = s.part := rfl
@[simp] theorem mapCore_core (s : State) (f : Core → Core) : (s.mapCore f).core = f s.core := rfl
@[simp] theorem mapCore_parked (s : State) (f : Core → Core) : (s.mapCore f).parked = s.parked := rfl
@[simp] theorem mapCore_mem (s : State) (f : Core → Core) : (s.mapCore f).mem = s.mem := rfl
@[simp] theorem mapCore_fab (s : State) (f : Core → Core) : (s.mapCore f).fab = s.fab := rfl
@[simp] theorem mapCore_eng (s : State) (f : Core → Core) : (s.mapCore f).eng = s.eng := rfl
@[simp] theorem mapCore_sched (s : State) (f : Core → Core) : (s.mapCore f).sched = s.sched := rfl
@[simp] theorem mapCore_streams (s : State) (f : Core → Core) : (s.mapCore f).streams = s.streams := rfl
@[simp] theorem mapCore_grants (s : State) (f : Core → Core) : (s.mapCore f).grants = s.grants := rfl
@[simp] theorem mapCore_porter (s : State) (f : Core → Core) : (s.mapCore f).porter = s.porter := rfl
@[simp] theorem mapCore_claims (s : State) (f : Core → Core) : (s.mapCore f).claims = s.claims := rfl
@[simp] theorem mapCore_host (s : State) (f : Core → Core) : (s.mapCore f).host = s.host := rfl
@[simp] theorem mapCore_slow (s : State) (f : Core → Core) : (s.mapCore f).slow = s.slow := rfl
@[simp] theorem mapCore_corrected (s : State) (f : Core → Core) : (s.mapCore f).corrected = s.corrected := rfl
@[simp] theorem mapCore_agenda (s : State) (f : Core → Core) : (s.mapCore f).agenda = s.agenda := rfl
@[simp] theorem mapCore_choice (s : State) (f : Core → Core) : (s.mapCore f).choice = s.choice := rfl
@[simp] theorem mapCore_tick (s : State) (f : Core → Core) : (s.mapCore f).tick = s.tick := rfl
@[simp] theorem mapCore_free (s : State) (f : Core → Core) : (s.mapCore f).free = s.free := rfl
@[simp] theorem mapCore_ftime (s : State) (f : Core → Core) : (s.mapCore f).ftime = s.ftime := rfl

/-! ### `mapMem` -/

@[simp] theorem mapMem_part (s : State) (f : Mem → Mem) : (s.mapMem f).part = s.part := rfl
@[simp] theorem mapMem_core (s : State) (f : Mem → Mem) : (s.mapMem f).core = s.core := rfl
@[simp] theorem mapMem_parked (s : State) (f : Mem → Mem) : (s.mapMem f).parked = s.parked := rfl
@[simp] theorem mapMem_mem (s : State) (f : Mem → Mem) : (s.mapMem f).mem = f s.mem := rfl
@[simp] theorem mapMem_fab (s : State) (f : Mem → Mem) : (s.mapMem f).fab = s.fab := rfl
@[simp] theorem mapMem_eng (s : State) (f : Mem → Mem) : (s.mapMem f).eng = s.eng := rfl
@[simp] theorem mapMem_sched (s : State) (f : Mem → Mem) : (s.mapMem f).sched = s.sched := rfl
@[simp] theorem mapMem_streams (s : State) (f : Mem → Mem) : (s.mapMem f).streams = s.streams := rfl
@[simp] theorem mapMem_grants (s : State) (f : Mem → Mem) : (s.mapMem f).grants = s.grants := rfl
@[simp] theorem mapMem_porter (s : State) (f : Mem → Mem) : (s.mapMem f).porter = s.porter := rfl
@[simp] theorem mapMem_claims (s : State) (f : Mem → Mem) : (s.mapMem f).claims = s.claims := rfl
@[simp] theorem mapMem_host (s : State) (f : Mem → Mem) : (s.mapMem f).host = s.host := rfl
@[simp] theorem mapMem_slow (s : State) (f : Mem → Mem) : (s.mapMem f).slow = s.slow := rfl
@[simp] theorem mapMem_corrected (s : State) (f : Mem → Mem) : (s.mapMem f).corrected = s.corrected := rfl
@[simp] theorem mapMem_agenda (s : State) (f : Mem → Mem) : (s.mapMem f).agenda = s.agenda := rfl
@[simp] theorem mapMem_choice (s : State) (f : Mem → Mem) : (s.mapMem f).choice = s.choice := rfl
@[simp] theorem mapMem_tick (s : State) (f : Mem → Mem) : (s.mapMem f).tick = s.tick := rfl
@[simp] theorem mapMem_free (s : State) (f : Mem → Mem) : (s.mapMem f).free = s.free := rfl
@[simp] theorem mapMem_ftime (s : State) (f : Mem → Mem) : (s.mapMem f).ftime = s.ftime := rfl

/-! ### `mapFab` -/

@[simp] theorem mapFab_part (s : State) (f : Fab → Fab) : (s.mapFab f).part = s.part := rfl
@[simp] theorem mapFab_core (s : State) (f : Fab → Fab) : (s.mapFab f).core = s.core := rfl
@[simp] theorem mapFab_parked (s : State) (f : Fab → Fab) : (s.mapFab f).parked = s.parked := rfl
@[simp] theorem mapFab_mem (s : State) (f : Fab → Fab) : (s.mapFab f).mem = s.mem := rfl
@[simp] theorem mapFab_fab (s : State) (f : Fab → Fab) : (s.mapFab f).fab = f s.fab := rfl
@[simp] theorem mapFab_eng (s : State) (f : Fab → Fab) : (s.mapFab f).eng = s.eng := rfl
@[simp] theorem mapFab_sched (s : State) (f : Fab → Fab) : (s.mapFab f).sched = s.sched := rfl
@[simp] theorem mapFab_streams (s : State) (f : Fab → Fab) : (s.mapFab f).streams = s.streams := rfl
@[simp] theorem mapFab_grants (s : State) (f : Fab → Fab) : (s.mapFab f).grants = s.grants := rfl
@[simp] theorem mapFab_porter (s : State) (f : Fab → Fab) : (s.mapFab f).porter = s.porter := rfl
@[simp] theorem mapFab_claims (s : State) (f : Fab → Fab) : (s.mapFab f).claims = s.claims := rfl
@[simp] theorem mapFab_host (s : State) (f : Fab → Fab) : (s.mapFab f).host = s.host := rfl
@[simp] theorem mapFab_slow (s : State) (f : Fab → Fab) : (s.mapFab f).slow = s.slow := rfl
@[simp] theorem mapFab_corrected (s : State) (f : Fab → Fab) : (s.mapFab f).corrected = s.corrected := rfl
@[simp] theorem mapFab_agenda (s : State) (f : Fab → Fab) : (s.mapFab f).agenda = s.agenda := rfl
@[simp] theorem mapFab_choice (s : State) (f : Fab → Fab) : (s.mapFab f).choice = s.choice := rfl
@[simp] theorem mapFab_tick (s : State) (f : Fab → Fab) : (s.mapFab f).tick = s.tick := rfl
@[simp] theorem mapFab_free (s : State) (f : Fab → Fab) : (s.mapFab f).free = s.free := rfl
@[simp] theorem mapFab_ftime (s : State) (f : Fab → Fab) : (s.mapFab f).ftime = s.ftime := rfl

/-! ### `mapEng` -/

@[simp] theorem mapEng_part (s : State) (f : Eng → Eng) : (s.mapEng f).part = s.part := rfl
@[simp] theorem mapEng_core (s : State) (f : Eng → Eng) : (s.mapEng f).core = s.core := rfl
@[simp] theorem mapEng_parked (s : State) (f : Eng → Eng) : (s.mapEng f).parked = s.parked := rfl
@[simp] theorem mapEng_mem (s : State) (f : Eng → Eng) : (s.mapEng f).mem = s.mem := rfl
@[simp] theorem mapEng_fab (s : State) (f : Eng → Eng) : (s.mapEng f).fab = s.fab := rfl
@[simp] theorem mapEng_eng (s : State) (f : Eng → Eng) : (s.mapEng f).eng = f s.eng := rfl
@[simp] theorem mapEng_sched (s : State) (f : Eng → Eng) : (s.mapEng f).sched = s.sched := rfl
@[simp] theorem mapEng_streams (s : State) (f : Eng → Eng) : (s.mapEng f).streams = s.streams := rfl
@[simp] theorem mapEng_grants (s : State) (f : Eng → Eng) : (s.mapEng f).grants = s.grants := rfl
@[simp] theorem mapEng_porter (s : State) (f : Eng → Eng) : (s.mapEng f).porter = s.porter := rfl
@[simp] theorem mapEng_claims (s : State) (f : Eng → Eng) : (s.mapEng f).claims = s.claims := rfl
@[simp] theorem mapEng_host (s : State) (f : Eng → Eng) : (s.mapEng f).host = s.host := rfl
@[simp] theorem mapEng_slow (s : State) (f : Eng → Eng) : (s.mapEng f).slow = s.slow := rfl
@[simp] theorem mapEng_corrected (s : State) (f : Eng → Eng) : (s.mapEng f).corrected = s.corrected := rfl
@[simp] theorem mapEng_agenda (s : State) (f : Eng → Eng) : (s.mapEng f).agenda = s.agenda := rfl
@[simp] theorem mapEng_choice (s : State) (f : Eng → Eng) : (s.mapEng f).choice = s.choice := rfl
@[simp] theorem mapEng_tick (s : State) (f : Eng → Eng) : (s.mapEng f).tick = s.tick := rfl
@[simp] theorem mapEng_free (s : State) (f : Eng → Eng) : (s.mapEng f).free = s.free := rfl
@[simp] theorem mapEng_ftime (s : State) (f : Eng → Eng) : (s.mapEng f).ftime = s.ftime := rfl

/-! ### `mapSched` -/

@[simp] theorem mapSched_part (s : State) (f : Sched → Sched) : (s.mapSched f).part = s.part := rfl
@[simp] theorem mapSched_core (s : State) (f : Sched → Sched) : (s.mapSched f).core = s.core := rfl
@[simp] theorem mapSched_parked (s : State) (f : Sched → Sched) : (s.mapSched f).parked = s.parked := rfl
@[simp] theorem mapSched_mem (s : State) (f : Sched → Sched) : (s.mapSched f).mem = s.mem := rfl
@[simp] theorem mapSched_fab (s : State) (f : Sched → Sched) : (s.mapSched f).fab = s.fab := rfl
@[simp] theorem mapSched_eng (s : State) (f : Sched → Sched) : (s.mapSched f).eng = s.eng := rfl
@[simp] theorem mapSched_sched (s : State) (f : Sched → Sched) : (s.mapSched f).sched = f s.sched := rfl
@[simp] theorem mapSched_streams (s : State) (f : Sched → Sched) : (s.mapSched f).streams = s.streams := rfl
@[simp] theorem mapSched_grants (s : State) (f : Sched → Sched) : (s.mapSched f).grants = s.grants := rfl
@[simp] theorem mapSched_porter (s : State) (f : Sched → Sched) : (s.mapSched f).porter = s.porter := rfl
@[simp] theorem mapSched_claims (s : State) (f : Sched → Sched) : (s.mapSched f).claims = s.claims := rfl
@[simp] theorem mapSched_host (s : State) (f : Sched → Sched) : (s.mapSched f).host = s.host := rfl
@[simp] theorem mapSched_slow (s : State) (f : Sched → Sched) : (s.mapSched f).slow = s.slow := rfl
@[simp] theorem mapSched_corrected (s : State) (f : Sched → Sched) : (s.mapSched f).corrected = s.corrected := rfl
@[simp] theorem mapSched_agenda (s : State) (f : Sched → Sched) : (s.mapSched f).agenda = s.agenda := rfl
@[simp] theorem mapSched_choice (s : State) (f : Sched → Sched) : (s.mapSched f).choice = s.choice := rfl
@[simp] theorem mapSched_tick (s : State) (f : Sched → Sched) : (s.mapSched f).tick = s.tick := rfl
@[simp] theorem mapSched_free (s : State) (f : Sched → Sched) : (s.mapSched f).free = s.free := rfl
@[simp] theorem mapSched_ftime (s : State) (f : Sched → Sched) : (s.mapSched f).ftime = s.ftime := rfl

/-! ### `mapPorter` -/

@[simp] theorem mapPorter_part (s : State) (f : Porter → Porter) : (s.mapPorter f).part = s.part := rfl
@[simp] theorem mapPorter_core (s : State) (f : Porter → Porter) : (s.mapPorter f).core = s.core := rfl
@[simp] theorem mapPorter_parked (s : State) (f : Porter → Porter) : (s.mapPorter f).parked = s.parked := rfl
@[simp] theorem mapPorter_mem (s : State) (f : Porter → Porter) : (s.mapPorter f).mem = s.mem := rfl
@[simp] theorem mapPorter_fab (s : State) (f : Porter → Porter) : (s.mapPorter f).fab = s.fab := rfl
@[simp] theorem mapPorter_eng (s : State) (f : Porter → Porter) : (s.mapPorter f).eng = s.eng := rfl
@[simp] theorem mapPorter_sched (s : State) (f : Porter → Porter) : (s.mapPorter f).sched = s.sched := rfl
@[simp] theorem mapPorter_streams (s : State) (f : Porter → Porter) : (s.mapPorter f).streams = s.streams := rfl
@[simp] theorem mapPorter_grants (s : State) (f : Porter → Porter) : (s.mapPorter f).grants = s.grants := rfl
@[simp] theorem mapPorter_porter (s : State) (f : Porter → Porter) : (s.mapPorter f).porter = f s.porter := rfl
@[simp] theorem mapPorter_claims (s : State) (f : Porter → Porter) : (s.mapPorter f).claims = s.claims := rfl
@[simp] theorem mapPorter_host (s : State) (f : Porter → Porter) : (s.mapPorter f).host = s.host := rfl
@[simp] theorem mapPorter_slow (s : State) (f : Porter → Porter) : (s.mapPorter f).slow = s.slow := rfl
@[simp] theorem mapPorter_corrected (s : State) (f : Porter → Porter) : (s.mapPorter f).corrected = s.corrected := rfl
@[simp] theorem mapPorter_agenda (s : State) (f : Porter → Porter) : (s.mapPorter f).agenda = s.agenda := rfl
@[simp] theorem mapPorter_choice (s : State) (f : Porter → Porter) : (s.mapPorter f).choice = s.choice := rfl
@[simp] theorem mapPorter_tick (s : State) (f : Porter → Porter) : (s.mapPorter f).tick = s.tick := rfl
@[simp] theorem mapPorter_free (s : State) (f : Porter → Porter) : (s.mapPorter f).free = s.free := rfl
@[simp] theorem mapPorter_ftime (s : State) (f : Porter → Porter) : (s.mapPorter f).ftime = s.ftime := rfl

/-! ### `mapClaims` -/

@[simp] theorem mapClaims_part (s : State) (f : ClaimStore → ClaimStore) : (s.mapClaims f).part = s.part := rfl
@[simp] theorem mapClaims_core (s : State) (f : ClaimStore → ClaimStore) : (s.mapClaims f).core = s.core := rfl
@[simp] theorem mapClaims_parked (s : State) (f : ClaimStore → ClaimStore) : (s.mapClaims f).parked = s.parked := rfl
@[simp] theorem mapClaims_mem (s : State) (f : ClaimStore → ClaimStore) : (s.mapClaims f).mem = s.mem := rfl
@[simp] theorem mapClaims_fab (s : State) (f : ClaimStore → ClaimStore) : (s.mapClaims f).fab = s.fab := rfl
@[simp] theorem mapClaims_eng (s : State) (f : ClaimStore → ClaimStore) : (s.mapClaims f).eng = s.eng := rfl
@[simp] theorem mapClaims_sched (s : State) (f : ClaimStore → ClaimStore) : (s.mapClaims f).sched = s.sched := rfl
@[simp] theorem mapClaims_streams (s : State) (f : ClaimStore → ClaimStore) : (s.mapClaims f).streams = s.streams := rfl
@[simp] theorem mapClaims_grants (s : State) (f : ClaimStore → ClaimStore) : (s.mapClaims f).grants = s.grants := rfl
@[simp] theorem mapClaims_porter (s : State) (f : ClaimStore → ClaimStore) : (s.mapClaims f).porter = s.porter := rfl
@[simp] theorem mapClaims_claims (s : State) (f : ClaimStore → ClaimStore) : (s.mapClaims f).claims = f s.claims := rfl
@[simp] theorem mapClaims_host (s : State) (f : ClaimStore → ClaimStore) : (s.mapClaims f).host = s.host := rfl
@[simp] theorem mapClaims_slow (s : State) (f : ClaimStore → ClaimStore) : (s.mapClaims f).slow = s.slow := rfl
@[simp] theorem mapClaims_corrected (s : State) (f : ClaimStore → ClaimStore) : (s.mapClaims f).corrected = s.corrected := rfl
@[simp] theorem mapClaims_agenda (s : State) (f : ClaimStore → ClaimStore) : (s.mapClaims f).agenda = s.agenda := rfl
@[simp] theorem mapClaims_choice (s : State) (f : ClaimStore → ClaimStore) : (s.mapClaims f).choice = s.choice := rfl
@[simp] theorem mapClaims_tick (s : State) (f : ClaimStore → ClaimStore) : (s.mapClaims f).tick = s.tick := rfl
@[simp] theorem mapClaims_free (s : State) (f : ClaimStore → ClaimStore) : (s.mapClaims f).free = s.free := rfl
@[simp] theorem mapClaims_ftime (s : State) (f : ClaimStore → ClaimStore) : (s.mapClaims f).ftime = s.ftime := rfl

/-! ### `mapHost` -/

@[simp] theorem mapHost_part (s : State) (f : HostSide → HostSide) : (s.mapHost f).part = s.part := rfl
@[simp] theorem mapHost_core (s : State) (f : HostSide → HostSide) : (s.mapHost f).core = s.core := rfl
@[simp] theorem mapHost_parked (s : State) (f : HostSide → HostSide) : (s.mapHost f).parked = s.parked := rfl
@[simp] theorem mapHost_mem (s : State) (f : HostSide → HostSide) : (s.mapHost f).mem = s.mem := rfl
@[simp] theorem mapHost_fab (s : State) (f : HostSide → HostSide) : (s.mapHost f).fab = s.fab := rfl
@[simp] theorem mapHost_eng (s : State) (f : HostSide → HostSide) : (s.mapHost f).eng = s.eng := rfl
@[simp] theorem mapHost_sched (s : State) (f : HostSide → HostSide) : (s.mapHost f).sched = s.sched := rfl
@[simp] theorem mapHost_streams (s : State) (f : HostSide → HostSide) : (s.mapHost f).streams = s.streams := rfl
@[simp] theorem mapHost_grants (s : State) (f : HostSide → HostSide) : (s.mapHost f).grants = s.grants := rfl
@[simp] theorem mapHost_porter (s : State) (f : HostSide → HostSide) : (s.mapHost f).porter = s.porter := rfl
@[simp] theorem mapHost_claims (s : State) (f : HostSide → HostSide) : (s.mapHost f).claims = s.claims := rfl
@[simp] theorem mapHost_host (s : State) (f : HostSide → HostSide) : (s.mapHost f).host = f s.host := rfl
@[simp] theorem mapHost_slow (s : State) (f : HostSide → HostSide) : (s.mapHost f).slow = s.slow := rfl
@[simp] theorem mapHost_corrected (s : State) (f : HostSide → HostSide) : (s.mapHost f).corrected = s.corrected := rfl
@[simp] theorem mapHost_agenda (s : State) (f : HostSide → HostSide) : (s.mapHost f).agenda = s.agenda := rfl
@[simp] theorem mapHost_choice (s : State) (f : HostSide → HostSide) : (s.mapHost f).choice = s.choice := rfl
@[simp] theorem mapHost_tick (s : State) (f : HostSide → HostSide) : (s.mapHost f).tick = s.tick := rfl
@[simp] theorem mapHost_free (s : State) (f : HostSide → HostSide) : (s.mapHost f).free = s.free := rfl
@[simp] theorem mapHost_ftime (s : State) (f : HostSide → HostSide) : (s.mapHost f).ftime = s.ftime := rfl

/-! ### `mapSc` -/

@[simp] theorem mapSc_part (s : State) (f : Scalar → Scalar) : (s.mapSc f).part = s.part := rfl
@[simp] theorem mapSc_parked (s : State) (f : Scalar → Scalar) : (s.mapSc f).parked = s.parked := rfl
@[simp] theorem mapSc_mem (s : State) (f : Scalar → Scalar) : (s.mapSc f).mem = s.mem := rfl
@[simp] theorem mapSc_fab (s : State) (f : Scalar → Scalar) : (s.mapSc f).fab = s.fab := rfl
@[simp] theorem mapSc_eng (s : State) (f : Scalar → Scalar) : (s.mapSc f).eng = s.eng := rfl
@[simp] theorem mapSc_sched (s : State) (f : Scalar → Scalar) : (s.mapSc f).sched = s.sched := rfl
@[simp] theorem mapSc_streams (s : State) (f : Scalar → Scalar) : (s.mapSc f).streams = s.streams := rfl
@[simp] theorem mapSc_grants (s : State) (f : Scalar → Scalar) : (s.mapSc f).grants = s.grants := rfl
@[simp] theorem mapSc_porter (s : State) (f : Scalar → Scalar) : (s.mapSc f).porter = s.porter := rfl
@[simp] theorem mapSc_claims (s : State) (f : Scalar → Scalar) : (s.mapSc f).claims = s.claims := rfl
@[simp] theorem mapSc_host (s : State) (f : Scalar → Scalar) : (s.mapSc f).host = s.host := rfl
@[simp] theorem mapSc_slow (s : State) (f : Scalar → Scalar) : (s.mapSc f).slow = s.slow := rfl
@[simp] theorem mapSc_corrected (s : State) (f : Scalar → Scalar) : (s.mapSc f).corrected = s.corrected := rfl
@[simp] theorem mapSc_agenda (s : State) (f : Scalar → Scalar) : (s.mapSc f).agenda = s.agenda := rfl
@[simp] theorem mapSc_choice (s : State) (f : Scalar → Scalar) : (s.mapSc f).choice = s.choice := rfl
@[simp] theorem mapSc_tick (s : State) (f : Scalar → Scalar) : (s.mapSc f).tick = s.tick := rfl
@[simp] theorem mapSc_free (s : State) (f : Scalar → Scalar) : (s.mapSc f).free = s.free := rfl
@[simp] theorem mapSc_ftime (s : State) (f : Scalar → Scalar) : (s.mapSc f).ftime = s.ftime := rfl
@[simp] theorem mapSc_core_id (s : State) (f : Scalar → Scalar) : (s.mapSc f).core.id = s.core.id := rfl
@[simp] theorem mapSc_core_run (s : State) (f : Scalar → Scalar) : (s.mapSc f).core.run = s.core.run := rfl
@[simp] theorem mapSc_core_me (s : State) (f : Scalar → Scalar) : (s.mapSc f).core.me = s.core.me := rfl
@[simp] theorem mapSc_core_sc (s : State) (f : Scalar → Scalar) : (s.mapSc f).core.sc = f s.core.sc := rfl
@[simp] theorem mapSc_core_vec (s : State) (f : Scalar → Scalar) : (s.mapSc f).core.vec = s.core.vec := rfl
@[simp] theorem mapSc_core_sup (s : State) (f : Scalar → Scalar) : (s.mapSc f).core.sup = s.core.sup := rfl
@[simp] theorem mapSc_core_tlb (s : State) (f : Scalar → Scalar) : (s.mapSc f).core.tlb = s.core.tlb := rfl
@[simp] theorem mapSc_core_xpend (s : State) (f : Scalar → Scalar) : (s.mapSc f).core.xpend = s.core.xpend := rfl
@[simp] theorem mapSc_core_xfail (s : State) (f : Scalar → Scalar) : (s.mapSc f).core.xfail = s.core.xfail := rfl
@[simp] theorem mapSc_core_seq (s : State) (f : Scalar → Scalar) : (s.mapSc f).core.seq = s.core.seq := rfl
@[simp] theorem mapSc_core_fills (s : State) (f : Scalar → Scalar) : (s.mapSc f).core.fills = s.core.fills := rfl
@[simp] theorem mapSc_core_via (s : State) (f : Scalar → Scalar) : (s.mapSc f).core.via = s.core.via := rfl
@[simp] theorem mapSc_core_request (s : State) (f : Scalar → Scalar) : (s.mapSc f).core.request = s.core.request := rfl
@[simp] theorem mapSc_core_atTrap (s : State) (f : Scalar → Scalar) : (s.mapSc f).core.atTrap = s.core.atTrap := rfl
@[simp] theorem mapSc_core_looped (s : State) (f : Scalar → Scalar) : (s.mapSc f).core.looped = s.core.looped := rfl
@[simp] theorem mapSc_core_region (s : State) (f : Scalar → Scalar) : (s.mapSc f).core.region = s.core.region := rfl
@[simp] theorem mapSc_core_seen (s : State) (f : Scalar → Scalar) : (s.mapSc f).core.seen = s.core.seen := rfl
@[simp] theorem mapSc_core_loaded (s : State) (f : Scalar → Scalar) : (s.mapSc f).core.loaded = s.core.loaded := rfl
@[simp] theorem mapSc_core_fenced (s : State) (f : Scalar → Scalar) : (s.mapSc f).core.fenced = s.core.fenced := rfl
@[simp] theorem mapSc_core_atFence (s : State) (f : Scalar → Scalar) : (s.mapSc f).core.atFence = s.core.atFence := rfl
@[simp] theorem mapSc_core_copy (s : State) (f : Scalar → Scalar) : (s.mapSc f).core.copy = s.core.copy := rfl
@[simp] theorem mapSc_core_copyBad (s : State) (f : Scalar → Scalar) : (s.mapSc f).core.copyBad = s.core.copyBad := rfl

/-! ### `mapVec` -/

@[simp] theorem mapVec_part (s : State) (f : Vec → Vec) : (s.mapVec f).part = s.part := rfl
@[simp] theorem mapVec_parked (s : State) (f : Vec → Vec) : (s.mapVec f).parked = s.parked := rfl
@[simp] theorem mapVec_mem (s : State) (f : Vec → Vec) : (s.mapVec f).mem = s.mem := rfl
@[simp] theorem mapVec_fab (s : State) (f : Vec → Vec) : (s.mapVec f).fab = s.fab := rfl
@[simp] theorem mapVec_eng (s : State) (f : Vec → Vec) : (s.mapVec f).eng = s.eng := rfl
@[simp] theorem mapVec_sched (s : State) (f : Vec → Vec) : (s.mapVec f).sched = s.sched := rfl
@[simp] theorem mapVec_streams (s : State) (f : Vec → Vec) : (s.mapVec f).streams = s.streams := rfl
@[simp] theorem mapVec_grants (s : State) (f : Vec → Vec) : (s.mapVec f).grants = s.grants := rfl
@[simp] theorem mapVec_porter (s : State) (f : Vec → Vec) : (s.mapVec f).porter = s.porter := rfl
@[simp] theorem mapVec_claims (s : State) (f : Vec → Vec) : (s.mapVec f).claims = s.claims := rfl
@[simp] theorem mapVec_host (s : State) (f : Vec → Vec) : (s.mapVec f).host = s.host := rfl
@[simp] theorem mapVec_slow (s : State) (f : Vec → Vec) : (s.mapVec f).slow = s.slow := rfl
@[simp] theorem mapVec_corrected (s : State) (f : Vec → Vec) : (s.mapVec f).corrected = s.corrected := rfl
@[simp] theorem mapVec_agenda (s : State) (f : Vec → Vec) : (s.mapVec f).agenda = s.agenda := rfl
@[simp] theorem mapVec_choice (s : State) (f : Vec → Vec) : (s.mapVec f).choice = s.choice := rfl
@[simp] theorem mapVec_tick (s : State) (f : Vec → Vec) : (s.mapVec f).tick = s.tick := rfl
@[simp] theorem mapVec_free (s : State) (f : Vec → Vec) : (s.mapVec f).free = s.free := rfl
@[simp] theorem mapVec_ftime (s : State) (f : Vec → Vec) : (s.mapVec f).ftime = s.ftime := rfl
@[simp] theorem mapVec_core_id (s : State) (f : Vec → Vec) : (s.mapVec f).core.id = s.core.id := rfl
@[simp] theorem mapVec_core_run (s : State) (f : Vec → Vec) : (s.mapVec f).core.run = s.core.run := rfl
@[simp] theorem mapVec_core_me (s : State) (f : Vec → Vec) : (s.mapVec f).core.me = s.core.me := rfl
@[simp] theorem mapVec_core_sc (s : State) (f : Vec → Vec) : (s.mapVec f).core.sc = s.core.sc := rfl
@[simp] theorem mapVec_core_vec (s : State) (f : Vec → Vec) : (s.mapVec f).core.vec = f s.core.vec := rfl
@[simp] theorem mapVec_core_sup (s : State) (f : Vec → Vec) : (s.mapVec f).core.sup = s.core.sup := rfl
@[simp] theorem mapVec_core_tlb (s : State) (f : Vec → Vec) : (s.mapVec f).core.tlb = s.core.tlb := rfl
@[simp] theorem mapVec_core_xpend (s : State) (f : Vec → Vec) : (s.mapVec f).core.xpend = s.core.xpend := rfl
@[simp] theorem mapVec_core_xfail (s : State) (f : Vec → Vec) : (s.mapVec f).core.xfail = s.core.xfail := rfl
@[simp] theorem mapVec_core_seq (s : State) (f : Vec → Vec) : (s.mapVec f).core.seq = s.core.seq := rfl
@[simp] theorem mapVec_core_fills (s : State) (f : Vec → Vec) : (s.mapVec f).core.fills = s.core.fills := rfl
@[simp] theorem mapVec_core_via (s : State) (f : Vec → Vec) : (s.mapVec f).core.via = s.core.via := rfl
@[simp] theorem mapVec_core_request (s : State) (f : Vec → Vec) : (s.mapVec f).core.request = s.core.request := rfl
@[simp] theorem mapVec_core_atTrap (s : State) (f : Vec → Vec) : (s.mapVec f).core.atTrap = s.core.atTrap := rfl
@[simp] theorem mapVec_core_looped (s : State) (f : Vec → Vec) : (s.mapVec f).core.looped = s.core.looped := rfl
@[simp] theorem mapVec_core_region (s : State) (f : Vec → Vec) : (s.mapVec f).core.region = s.core.region := rfl
@[simp] theorem mapVec_core_seen (s : State) (f : Vec → Vec) : (s.mapVec f).core.seen = s.core.seen := rfl
@[simp] theorem mapVec_core_loaded (s : State) (f : Vec → Vec) : (s.mapVec f).core.loaded = s.core.loaded := rfl
@[simp] theorem mapVec_core_fenced (s : State) (f : Vec → Vec) : (s.mapVec f).core.fenced = s.core.fenced := rfl
@[simp] theorem mapVec_core_atFence (s : State) (f : Vec → Vec) : (s.mapVec f).core.atFence = s.core.atFence := rfl
@[simp] theorem mapVec_core_copy (s : State) (f : Vec → Vec) : (s.mapVec f).core.copy = s.core.copy := rfl
@[simp] theorem mapVec_core_copyBad (s : State) (f : Vec → Vec) : (s.mapVec f).core.copyBad = s.core.copyBad := rfl

/-! ### `mapSup` -/

@[simp] theorem mapSup_part (s : State) (f : Sup → Sup) : (s.mapSup f).part = s.part := rfl
@[simp] theorem mapSup_parked (s : State) (f : Sup → Sup) : (s.mapSup f).parked = s.parked := rfl
@[simp] theorem mapSup_mem (s : State) (f : Sup → Sup) : (s.mapSup f).mem = s.mem := rfl
@[simp] theorem mapSup_fab (s : State) (f : Sup → Sup) : (s.mapSup f).fab = s.fab := rfl
@[simp] theorem mapSup_eng (s : State) (f : Sup → Sup) : (s.mapSup f).eng = s.eng := rfl
@[simp] theorem mapSup_sched (s : State) (f : Sup → Sup) : (s.mapSup f).sched = s.sched := rfl
@[simp] theorem mapSup_streams (s : State) (f : Sup → Sup) : (s.mapSup f).streams = s.streams := rfl
@[simp] theorem mapSup_grants (s : State) (f : Sup → Sup) : (s.mapSup f).grants = s.grants := rfl
@[simp] theorem mapSup_porter (s : State) (f : Sup → Sup) : (s.mapSup f).porter = s.porter := rfl
@[simp] theorem mapSup_claims (s : State) (f : Sup → Sup) : (s.mapSup f).claims = s.claims := rfl
@[simp] theorem mapSup_host (s : State) (f : Sup → Sup) : (s.mapSup f).host = s.host := rfl
@[simp] theorem mapSup_slow (s : State) (f : Sup → Sup) : (s.mapSup f).slow = s.slow := rfl
@[simp] theorem mapSup_corrected (s : State) (f : Sup → Sup) : (s.mapSup f).corrected = s.corrected := rfl
@[simp] theorem mapSup_agenda (s : State) (f : Sup → Sup) : (s.mapSup f).agenda = s.agenda := rfl
@[simp] theorem mapSup_choice (s : State) (f : Sup → Sup) : (s.mapSup f).choice = s.choice := rfl
@[simp] theorem mapSup_tick (s : State) (f : Sup → Sup) : (s.mapSup f).tick = s.tick := rfl
@[simp] theorem mapSup_free (s : State) (f : Sup → Sup) : (s.mapSup f).free = s.free := rfl
@[simp] theorem mapSup_ftime (s : State) (f : Sup → Sup) : (s.mapSup f).ftime = s.ftime := rfl
@[simp] theorem mapSup_core_id (s : State) (f : Sup → Sup) : (s.mapSup f).core.id = s.core.id := rfl
@[simp] theorem mapSup_core_run (s : State) (f : Sup → Sup) : (s.mapSup f).core.run = s.core.run := rfl
@[simp] theorem mapSup_core_me (s : State) (f : Sup → Sup) : (s.mapSup f).core.me = s.core.me := rfl
@[simp] theorem mapSup_core_sc (s : State) (f : Sup → Sup) : (s.mapSup f).core.sc = s.core.sc := rfl
@[simp] theorem mapSup_core_vec (s : State) (f : Sup → Sup) : (s.mapSup f).core.vec = s.core.vec := rfl
@[simp] theorem mapSup_core_sup (s : State) (f : Sup → Sup) : (s.mapSup f).core.sup = f s.core.sup := rfl
@[simp] theorem mapSup_core_tlb (s : State) (f : Sup → Sup) : (s.mapSup f).core.tlb = s.core.tlb := rfl
@[simp] theorem mapSup_core_xpend (s : State) (f : Sup → Sup) : (s.mapSup f).core.xpend = s.core.xpend := rfl
@[simp] theorem mapSup_core_xfail (s : State) (f : Sup → Sup) : (s.mapSup f).core.xfail = s.core.xfail := rfl
@[simp] theorem mapSup_core_seq (s : State) (f : Sup → Sup) : (s.mapSup f).core.seq = s.core.seq := rfl
@[simp] theorem mapSup_core_fills (s : State) (f : Sup → Sup) : (s.mapSup f).core.fills = s.core.fills := rfl
@[simp] theorem mapSup_core_via (s : State) (f : Sup → Sup) : (s.mapSup f).core.via = s.core.via := rfl
@[simp] theorem mapSup_core_request (s : State) (f : Sup → Sup) : (s.mapSup f).core.request = s.core.request := rfl
@[simp] theorem mapSup_core_atTrap (s : State) (f : Sup → Sup) : (s.mapSup f).core.atTrap = s.core.atTrap := rfl
@[simp] theorem mapSup_core_looped (s : State) (f : Sup → Sup) : (s.mapSup f).core.looped = s.core.looped := rfl
@[simp] theorem mapSup_core_region (s : State) (f : Sup → Sup) : (s.mapSup f).core.region = s.core.region := rfl
@[simp] theorem mapSup_core_seen (s : State) (f : Sup → Sup) : (s.mapSup f).core.seen = s.core.seen := rfl
@[simp] theorem mapSup_core_loaded (s : State) (f : Sup → Sup) : (s.mapSup f).core.loaded = s.core.loaded := rfl
@[simp] theorem mapSup_core_fenced (s : State) (f : Sup → Sup) : (s.mapSup f).core.fenced = s.core.fenced := rfl
@[simp] theorem mapSup_core_atFence (s : State) (f : Sup → Sup) : (s.mapSup f).core.atFence = s.core.atFence := rfl
@[simp] theorem mapSup_core_copy (s : State) (f : Sup → Sup) : (s.mapSup f).core.copy = s.core.copy := rfl
@[simp] theorem mapSup_core_copyBad (s : State) (f : Sup → Sup) : (s.mapSup f).core.copyBad = s.core.copyBad := rfl

/-! ### `mapSt` -/

@[simp] theorem mapSt_part (s : State) (f : StateRegs → StateRegs) : (s.mapSt f).part = s.part := rfl
@[simp] theorem mapSt_parked (s : State) (f : StateRegs → StateRegs) : (s.mapSt f).parked = s.parked := rfl
@[simp] theorem mapSt_mem (s : State) (f : StateRegs → StateRegs) : (s.mapSt f).mem = s.mem := rfl
@[simp] theorem mapSt_fab (s : State) (f : StateRegs → StateRegs) : (s.mapSt f).fab = s.fab := rfl
@[simp] theorem mapSt_eng (s : State) (f : StateRegs → StateRegs) : (s.mapSt f).eng = s.eng := rfl
@[simp] theorem mapSt_sched (s : State) (f : StateRegs → StateRegs) : (s.mapSt f).sched = s.sched := rfl
@[simp] theorem mapSt_streams (s : State) (f : StateRegs → StateRegs) : (s.mapSt f).streams = s.streams := rfl
@[simp] theorem mapSt_grants (s : State) (f : StateRegs → StateRegs) : (s.mapSt f).grants = s.grants := rfl
@[simp] theorem mapSt_porter (s : State) (f : StateRegs → StateRegs) : (s.mapSt f).porter = s.porter := rfl
@[simp] theorem mapSt_claims (s : State) (f : StateRegs → StateRegs) : (s.mapSt f).claims = s.claims := rfl
@[simp] theorem mapSt_host (s : State) (f : StateRegs → StateRegs) : (s.mapSt f).host = s.host := rfl
@[simp] theorem mapSt_slow (s : State) (f : StateRegs → StateRegs) : (s.mapSt f).slow = s.slow := rfl
@[simp] theorem mapSt_corrected (s : State) (f : StateRegs → StateRegs) : (s.mapSt f).corrected = s.corrected := rfl
@[simp] theorem mapSt_agenda (s : State) (f : StateRegs → StateRegs) : (s.mapSt f).agenda = s.agenda := rfl
@[simp] theorem mapSt_choice (s : State) (f : StateRegs → StateRegs) : (s.mapSt f).choice = s.choice := rfl
@[simp] theorem mapSt_tick (s : State) (f : StateRegs → StateRegs) : (s.mapSt f).tick = s.tick := rfl
@[simp] theorem mapSt_free (s : State) (f : StateRegs → StateRegs) : (s.mapSt f).free = s.free := rfl
@[simp] theorem mapSt_ftime (s : State) (f : StateRegs → StateRegs) : (s.mapSt f).ftime = s.ftime := rfl
@[simp] theorem mapSt_core_id (s : State) (f : StateRegs → StateRegs) : (s.mapSt f).core.id = s.core.id := rfl
@[simp] theorem mapSt_core_run (s : State) (f : StateRegs → StateRegs) : (s.mapSt f).core.run = s.core.run := rfl
@[simp] theorem mapSt_core_me (s : State) (f : StateRegs → StateRegs) : (s.mapSt f).core.me = s.core.me := rfl
@[simp] theorem mapSt_core_vec (s : State) (f : StateRegs → StateRegs) : (s.mapSt f).core.vec = s.core.vec := rfl
@[simp] theorem mapSt_core_sup (s : State) (f : StateRegs → StateRegs) : (s.mapSt f).core.sup = s.core.sup := rfl
@[simp] theorem mapSt_core_tlb (s : State) (f : StateRegs → StateRegs) : (s.mapSt f).core.tlb = s.core.tlb := rfl
@[simp] theorem mapSt_core_xpend (s : State) (f : StateRegs → StateRegs) : (s.mapSt f).core.xpend = s.core.xpend := rfl
@[simp] theorem mapSt_core_xfail (s : State) (f : StateRegs → StateRegs) : (s.mapSt f).core.xfail = s.core.xfail := rfl
@[simp] theorem mapSt_core_seq (s : State) (f : StateRegs → StateRegs) : (s.mapSt f).core.seq = s.core.seq := rfl
@[simp] theorem mapSt_core_fills (s : State) (f : StateRegs → StateRegs) : (s.mapSt f).core.fills = s.core.fills := rfl
@[simp] theorem mapSt_core_via (s : State) (f : StateRegs → StateRegs) : (s.mapSt f).core.via = s.core.via := rfl
@[simp] theorem mapSt_core_request (s : State) (f : StateRegs → StateRegs) : (s.mapSt f).core.request = s.core.request := rfl
@[simp] theorem mapSt_core_atTrap (s : State) (f : StateRegs → StateRegs) : (s.mapSt f).core.atTrap = s.core.atTrap := rfl
@[simp] theorem mapSt_core_looped (s : State) (f : StateRegs → StateRegs) : (s.mapSt f).core.looped = s.core.looped := rfl
@[simp] theorem mapSt_core_region (s : State) (f : StateRegs → StateRegs) : (s.mapSt f).core.region = s.core.region := rfl
@[simp] theorem mapSt_core_seen (s : State) (f : StateRegs → StateRegs) : (s.mapSt f).core.seen = s.core.seen := rfl
@[simp] theorem mapSt_core_loaded (s : State) (f : StateRegs → StateRegs) : (s.mapSt f).core.loaded = s.core.loaded := rfl
@[simp] theorem mapSt_core_fenced (s : State) (f : StateRegs → StateRegs) : (s.mapSt f).core.fenced = s.core.fenced := rfl
@[simp] theorem mapSt_core_atFence (s : State) (f : StateRegs → StateRegs) : (s.mapSt f).core.atFence = s.core.atFence := rfl
@[simp] theorem mapSt_core_copy (s : State) (f : StateRegs → StateRegs) : (s.mapSt f).core.copy = s.core.copy := rfl
@[simp] theorem mapSt_core_copyBad (s : State) (f : StateRegs → StateRegs) : (s.mapSt f).core.copyBad = s.core.copyBad := rfl
@[simp] theorem mapSt_core_sc_pc (s : State) (f : StateRegs → StateRegs) : (s.mapSt f).core.sc.pc = s.core.sc.pc := rfl
@[simp] theorem mapSt_core_sc_loops (s : State) (f : StateRegs → StateRegs) : (s.mapSt f).core.sc.loops = s.core.sc.loops := rfl
@[simp] theorem mapSt_core_sc_x (s : State) (f : StateRegs → StateRegs) : (s.mapSt f).core.sc.x = s.core.sc.x := rfl
@[simp] theorem mapSt_core_sc_f (s : State) (f : StateRegs → StateRegs) : (s.mapSt f).core.sc.f = s.core.sc.f := rfl
@[simp] theorem mapSt_core_sc_p (s : State) (f : StateRegs → StateRegs) : (s.mapSt f).core.sc.p = s.core.sc.p := rfl
@[simp] theorem mapSt_core_sc_st (s : State) (f : StateRegs → StateRegs) : (s.mapSt f).core.sc.st = f s.core.sc.st := rfl

end Sys2Proof.Machine.State
end

