-- ==== Sys2Proof/Laws/Memory.lean ====
section
/-! SUPPORT. Memory in its canonical form: reading after writing, and that every operation keeps the form. -/

namespace Sys2Proof.Machine

namespace Memory

/-! ### One byte -/

theorem find_cons (a b : Nat) (v : Byte) (l : List Host.Cell) : find a ((b, v) :: l) = if a = b then v else find a l := rfl

theorem cellsOf_cons (a : Nat) (b : Byte) (l : List Byte) :
    cellsOf a (b :: l) = if b = unlisted then cellsOf (a + 1) l else (a, b) :: cellsOf (a + 1) l := rfl

/-- A byte below the first listed address reads as unlisted. -/
theorem find_below {lo a : Nat} {l : List Host.Cell} (h : wfFrom lo l = true) (ha : a < lo) : find a l = unlisted := by
  induction l generalizing lo with
  | nil => rfl
  | cons c rest ih =>
    obtain ⟨b, v⟩ := c
    simp only [wfFrom, Bool.and_eq_true, decide_eq_true_eq] at h
    unfold find
    rw [if_neg (by omega)]
    exact ih h.2 (by omega)

theorem wfFrom_mono {lo lo' : Nat} {l : List Host.Cell} (h : wfFrom lo l = true) (hl : lo' ≤ lo) : wfFrom lo' l = true := by
  cases l with
  | nil => rfl
  | cons c rest =>
    obtain ⟨b, v⟩ := c
    simp only [wfFrom, Bool.and_eq_true, decide_eq_true_eq] at h ⊢
    exact ⟨⟨by omega, h.1.2⟩, h.2⟩

/-- Storing a byte keeps the canonical form. -/
theorem wfFrom_insert {lo a : Nat} {v : Byte} {l : List Host.Cell} (h : wfFrom lo l = true) (ha : lo ≤ a) :
    wfFrom lo (insert a v l) = true := by
  induction l generalizing lo with
  | nil => unfold insert; split <;> simp_all [wfFrom]
  | cons c rest ih =>
    obtain ⟨b, w⟩ := c
    have h' := h
    simp only [wfFrom, Bool.and_eq_true, decide_eq_true_eq] at h
    unfold insert
    by_cases h1 : a < b
    · by_cases hv : v = unlisted
      · simpa [h1, hv] using h'
      · simp only [h1, if_true, hv, if_false, wfFrom, Bool.and_eq_true, decide_eq_true_eq]
        exact ⟨⟨ha, by simpa using hv⟩, ⟨by omega, h.1.2⟩, h.2⟩
    · by_cases h2 : a = b
      · subst h2
        by_cases hv : v = unlisted
        · simp only [Nat.lt_irrefl, if_false, if_true, hv]
          exact wfFrom_mono h.2 (by omega)
        · simp only [Nat.lt_irrefl, if_false, if_true, hv, wfFrom, Bool.and_eq_true, decide_eq_true_eq]
          exact ⟨⟨ha, by simpa using hv⟩, h.2⟩
      · simp only [h1, if_false, h2, wfFrom, Bool.and_eq_true, decide_eq_true_eq]
        exact ⟨h.1, ih h.2 (by omega)⟩

/-- A byte read after a store. -/
theorem find_insert {lo a b : Nat} {v : Byte} {l : List Host.Cell} (h : wfFrom lo l = true) :
    find b (insert a v l) = if b = a then v else find b l := by
  induction l generalizing lo with
  | nil =>
    unfold insert
    by_cases hv : v = unlisted
    · simp [hv, find]
    · simp [hv, find]
  | cons c rest ih =>
    obtain ⟨d, w⟩ := c
    simp only [wfFrom, Bool.and_eq_true, decide_eq_true_eq] at h
    unfold insert
    by_cases h1 : a < d
    · have hb : find a ((d, w) :: rest) = unlisted := by
        unfold find; rw [if_neg (by omega)]; exact find_below h.2 (by omega)
      by_cases hv : v = unlisted
      · by_cases hba : b = a
        · subst hba; simp [h1, hv, hb]
        · simp [h1, hv, hba]
      · by_cases hba : b = a
        · subst hba; simp [h1, hv, find]
        · rw [if_pos h1, if_neg hv, find_cons, if_neg hba]
    · by_cases h2 : a = d
      · subst h2
        have hr : find a rest = unlisted := find_below h.2 (by omega)
        by_cases hv : v = unlisted
        · by_cases hba : b = a
          · subst hba; simp [hv, hr]
          · simp [hv, hba, find]
        · by_cases hba : b = a
          · subst hba; simp [hv, find]
          · simp [hv, hba, find]
      · rw [if_neg h1, if_neg h2]
        unfold find
        by_cases hbd : b = d
        · subst hbd; simp [Ne.symm h2]
        · simp only [hbd, if_false]; exact ih h.2

theorem set_wf {m : Memory} (h : m.wf = true) (a : Nat) (v : Byte) : (m.set a v).wf = true :=
  wfFrom_insert (lo := 0) h (Nat.zero_le _)

theorem get_set {m : Memory} (h : m.wf = true) (a b : Nat) (v : Byte) : (m.set a v).get b = if b = a then v else m.get b :=
  find_insert (lo := 0) h

/-! ### Numbers of several bytes -/

theorem write_wf {m : Memory} (h : m.wf = true) (a v n : Nat) : (m.write a v n).wf = true := by
  induction n generalizing m a v with
  | zero => exact h
  | succ n ih => exact ih (set_wf h a _) ..

/-- A byte read after a number has been stored, least byte first (R2). -/
theorem get_write {m : Memory} (h : m.wf = true) (a v n b : Nat) :
    (m.write a v n).get b = if a ≤ b ∧ b < a + n then BitVec.ofNat 8 (v / 2 ^ (8 * (b - a))) else m.get b := by
  induction n generalizing m a v with
  | zero => rw [if_neg (by omega)]; rfl
  | succ n ih =>
    show ((m.set a (BitVec.ofNat 8 v)).write (a + 1) (v / 256) n).get b = _
    rw [ih (set_wf h a _), get_set h]
    by_cases hb : b = a
    · subst hb; simp
    · by_cases hin : a + 1 ≤ b ∧ b < a + 1 + n
      · rw [if_pos hin, if_pos (by omega)]
        congr 1
        rw [show 8 * (b - a) = 8 + 8 * (b - (a + 1)) by omega, Nat.pow_add, ← Nat.div_div_eq_div_mul]
      · rw [if_neg hin, if_neg hb, if_neg (by omega)]

/-- The number that the bytes of a range make. -/
theorem read_eq {m : Memory} (a v n : Nat) (hv : v < 2 ^ (8 * n)) (h : ∀ i, i < n → m.get (a + i) = BitVec.ofNat 8 (v / 2 ^ (8 * i))) :
    m.read a n = v := by
  induction n generalizing a v with
  | zero => simp at hv; simp [read, hv]
  | succ n ih =>
    have h0 : m.get a = BitVec.ofNat 8 v := by simpa using h 0 (by omega)
    have hr : m.read (a + 1) n = v / 256 := by
      refine ih (a + 1) (v / 256) ?_ ?_
      · rw [show 8 * (n + 1) = 8 * n + 8 by omega, Nat.pow_add] at hv
        exact Nat.div_lt_of_lt_mul (by rw [Nat.mul_comm]; exact hv)
      · intro i hi
        have := h (i + 1) (by omega)
        rw [show a + (i + 1) = a + 1 + i by omega] at this
        rw [this, show 8 * (i + 1) = 8 + 8 * i by omega, Nat.pow_add, ← Nat.div_div_eq_div_mul]
    simp only [read, h0, hr, BitVec.toNat_ofNat]
    omega

/-! ### Lists of bytes -/

theorem wfFrom_append {lo mid : Nat} {l r : List Host.Cell} (hl : wfFrom lo l = true) (hb : ∀ c ∈ l, c.1 < mid)
    (hr : wfFrom mid r = true) (hm : lo ≤ mid) : wfFrom lo (l ++ r) = true := by
  induction l generalizing lo with
  | nil => exact wfFrom_mono hr hm
  | cons c rest ih =>
    obtain ⟨b, v⟩ := c
    simp only [wfFrom, Bool.and_eq_true, decide_eq_true_eq, List.cons_append] at hl ⊢
    have := hb (b, v) (List.mem_cons_self ..)
    exact ⟨hl.1, ih hl.2 (fun c hc => hb c (List.mem_cons_of_mem _ hc)) (by simpa using this)⟩

theorem below_wf {lo a : Nat} {l : List Host.Cell} (h : wfFrom lo l = true) : wfFrom lo (below a l) = true := by
  induction l generalizing lo with
  | nil => rfl
  | cons c rest ih =>
    obtain ⟨b, v⟩ := c
    simp only [wfFrom, Bool.and_eq_true, decide_eq_true_eq] at h
    unfold below
    split
    · simp only [wfFrom, Bool.and_eq_true, decide_eq_true_eq]; exact ⟨h.1, ih h.2⟩
    · rfl

theorem below_lt (a : Nat) (l : List Host.Cell) : ∀ c ∈ below a l, c.1 < a := by
  induction l with
  | nil => intro c hc; simp [below] at hc
  | cons d rest ih =>
    intro c hc
    unfold below at hc
    split at hc
    · rcases List.mem_cons.mp hc with rfl | hc
      · assumption
      · exact ih c hc
    · simp at hc

theorem above_wf {lo a : Nat} {l : List Host.Cell} (h : wfFrom lo l = true) : wfFrom a (above a l) = true := by
  induction l generalizing lo with
  | nil => rfl
  | cons c rest ih =>
    obtain ⟨b, v⟩ := c
    have h' := h
    simp only [wfFrom, Bool.and_eq_true, decide_eq_true_eq] at h
    unfold above
    split
    · exact ih h.2
    · rename_i hb
      simp only [wfFrom, Bool.and_eq_true, decide_eq_true_eq]
      exact ⟨⟨by simpa using hb, h.1.2⟩, h.2⟩

theorem cellsOf_wf (a : Nat) (l : List Byte) : wfFrom a (cellsOf a l) = true := by
  induction l generalizing a with
  | nil => rfl
  | cons b rest ih =>
    unfold cellsOf
    split
    · exact wfFrom_mono (ih (a + 1)) (by omega)
    · rename_i hb
      simp only [wfFrom, Bool.and_eq_true, decide_eq_true_eq]
      exact ⟨⟨Nat.le_refl _, by simpa using hb⟩, ih (a + 1)⟩

theorem cellsOf_lt (a : Nat) (l : List Byte) : ∀ c ∈ cellsOf a l, c.1 < a + l.length := by
  induction l generalizing a with
  | nil => intro c hc; simp [cellsOf] at hc
  | cons b rest ih =>
    intro c hc
    unfold cellsOf at hc
    rw [List.length_cons]
    split at hc
    · have := ih (a + 1) c hc; omega
    · rcases List.mem_cons.mp hc with rfl | hc
      · simp only; omega
      · have := ih (a + 1) c hc; omega

/-- Storing a list of bytes keeps the canonical form. -/
theorem writeBytes_wf {m : Memory} (h : m.wf = true) (a : Nat) (l : List Byte) : (m.writeBytes a l).wf = true := by
  have h1 : wfFrom 0 (below a m.cells) = true := below_wf h
  have h3 : wfFrom (a + l.length) (above (a + l.length) m.cells) = true := above_wf (lo := 0) h
  have h2 : wfFrom a (cellsOf a l ++ above (a + l.length) m.cells) = true :=
    wfFrom_append (cellsOf_wf a l) (cellsOf_lt a l) h3 (by omega)
  show wfFrom 0 (below a m.cells ++ cellsOf a l ++ above (a + l.length) m.cells) = true
  rw [List.append_assoc]
  exact wfFrom_append h1 (below_lt a m.cells) h2 (Nat.zero_le _)

theorem find_append {a : Nat} {l r : List Host.Cell} : find a (l ++ r) = if ∃ c ∈ l, c.1 = a then find a l else find a r := by
  induction l with
  | nil => simp
  | cons c rest ih =>
    obtain ⟨b, v⟩ := c
    rw [List.cons_append, find_cons, find_cons]
    by_cases h : a = b
    · subst h; simp
    · rw [if_neg h, if_neg h, ih]
      congr 1
      simp [Ne.symm h]

theorem find_cellsOf (a b : Nat) (l : List Byte) : find b (cellsOf a l) = if h : a ≤ b ∧ b < a + l.length then l[b - a] else unlisted := by
  induction l generalizing a with
  | nil => rw [dif_neg (by simp)]; rfl
  | cons v rest ih =>
    have hs : find b (cellsOf a (v :: rest)) = if b = a then v else find b (cellsOf (a + 1) rest) := by
      rw [cellsOf_cons]
      split
      · rename_i hv
        by_cases hb : b = a
        · subst hb; rw [find_below (cellsOf_wf (b + 1) rest) (by omega)]; simp [hv]
        · simp [hb]
      · rfl
    rw [hs, ih]
    by_cases hb : b = a
    · subst hb; rw [if_pos rfl, dif_pos (by simp)]; simp
    · rw [if_neg hb]
      by_cases hin : a + 1 ≤ b ∧ b < a + 1 + rest.length
      · rw [dif_pos hin, dif_pos (by simp; omega)]
        rw [List.getElem_cons, dif_neg (by omega)]
        congr 1
      · rw [dif_neg hin, dif_neg (by simp; omega)]

theorem find_none {a : Nat} {l : List Host.Cell} (h : ¬ ∃ c ∈ l, c.1 = a) : find a l = unlisted := by
  induction l with
  | nil => rfl
  | cons c rest ih =>
    obtain ⟨b, v⟩ := c
    unfold find
    rw [if_neg fun e => h ⟨(b, v), List.mem_cons_self .., e.symm⟩]
    exact ih fun ⟨c, hc, e⟩ => h ⟨c, List.mem_cons_of_mem _ hc, e⟩

theorem find_below_cells {lo a b : Nat} {l : List Host.Cell} (h : wfFrom lo l = true) :
    find b (below a l) = if b < a then find b l else unlisted := by
  induction l generalizing lo with
  | nil => simp [below, find]
  | cons c rest ih =>
    obtain ⟨d, v⟩ := c
    simp only [wfFrom, Bool.and_eq_true, decide_eq_true_eq] at h
    unfold below
    by_cases hd : d < a
    · rw [if_pos hd]
      unfold find
      by_cases hb : b = d
      · subst hb; simp [hd]
      · simp only [hb, if_false]; exact ih h.2
    · rw [if_neg hd]
      by_cases hb : b < a
      · rw [if_pos hb]
        unfold find
        rw [if_neg (by omega), find_below h.2 (by omega)]
      · simp [hb, find]

theorem find_above_cells {lo a b : Nat} {l : List Host.Cell} (h : wfFrom lo l = true) (hb : a ≤ b) :
    find b (above a l) = find b l := by
  induction l generalizing lo with
  | nil => rfl
  | cons c rest ih =>
    obtain ⟨d, v⟩ := c
    simp only [wfFrom, Bool.and_eq_true, decide_eq_true_eq] at h
    unfold above
    by_cases hd : d < a
    · rw [if_pos hd, ih h.2]
      conv_rhs => unfold find
      rw [if_neg (by omega)]
    · rw [if_neg hd]

/-- A byte read after a list of bytes has been stored. -/
theorem get_writeBytes {m : Memory} (h : m.wf = true) (a b : Nat) (l : List Byte) :
    (m.writeBytes a l).get b = if h : a ≤ b ∧ b < a + l.length then l[b - a] else m.get b := by
  show find b (below a m.cells ++ cellsOf a l ++ above (a + l.length) m.cells) = _
  have hB := find_below_cells (lo := 0) (a := a) (b := b) h
  have hC := find_cellsOf a b l
  rw [List.append_assoc, find_append, find_append]
  by_cases h1 : b < a
  · rw [dif_neg (by omega)]
    rw [if_pos h1] at hB
    split
    · exact hB
    · rename_i hn
      have := find_none hn
      rw [if_neg, find_below (above_wf (lo := 0) h) (by omega), ← this, hB]; rfl
      rintro ⟨c, hc, e⟩
      have h2 := cellsOf_wf a l
      have : ∀ (lo : Nat) (l : List Host.Cell), wfFrom lo l = true → ∀ c ∈ l, lo ≤ c.1 := by
        intro lo l
        induction l generalizing lo with
        | nil => intro _ c hc; simp at hc
        | cons d rest ih =>
          intro hw c hc
          obtain ⟨d1, d2⟩ := d
          simp only [wfFrom, Bool.and_eq_true, decide_eq_true_eq] at hw
          rcases List.mem_cons.mp hc with rfl | hc
          · exact hw.1.1
          · have := ih (d1 + 1) hw.2 c hc; omega
      have := this a _ h2 c hc
      omega
  · rw [if_neg (by rintro ⟨c, hc, e⟩; have := below_lt a m.cells c hc; omega)]
    by_cases h2 : b < a + l.length
    · rw [dif_pos ⟨by omega, h2⟩]
      rw [dif_pos ⟨by omega, h2⟩] at hC
      split
      · exact hC
      · rename_i hn
        rw [find_below (above_wf (lo := 0) h) h2, ← hC]
        exact (find_none hn).symm
    · rw [dif_neg (by omega)]
      rw [if_neg (by rintro ⟨c, hc, e⟩; have := cellsOf_lt a l c hc; omega)]
      exact find_above_cells (lo := 0) h (by omega)

/-- Bytes read as a list. -/
theorem take_eq {lo : Nat} {l : List Host.Cell} (a n : Nat) (h : wfFrom lo l = true) (ha : a ≤ lo) :
    take a n l = (List.range n).map fun i => find (a + i) l := by
  induction n generalizing a l lo with
  | zero => rfl
  | succ n ih =>
    rw [List.range_succ_eq_map, List.map_cons, List.map_map]
    cases l with
    | nil =>
      unfold take
      rw [ih (a + 1) (lo := a + 1) rfl (Nat.le_refl _)]
      rfl
    | cons c rest =>
      obtain ⟨b, v⟩ := c
      have h' := h
      simp only [wfFrom, Bool.and_eq_true, decide_eq_true_eq] at h
      unfold take
      by_cases hb : b = a
      · subst hb
        simp only [if_true]
        rw [ih (b + 1) h.2 (Nat.le_refl _)]
        simp only [Nat.add_zero]
        congr 1
        · simp [find]
        · apply List.map_congr_left; intro i _
          simp only [Function.comp_apply]
          conv_rhs => unfold find
          rw [if_neg (by omega)]; congr 1; omega
      · simp only [hb, if_false]
        rw [ih (a + 1) (l := (b, v) :: rest) (lo := b) (wfFrom_mono (lo := b) (by
          simp only [wfFrom, Bool.and_eq_true, decide_eq_true_eq]; exact ⟨⟨Nat.le_refl _, h.1.2⟩, h.2⟩) (Nat.le_refl _)) (by omega)]
        simp only [Nat.add_zero]
        congr 1
        · symm; exact find_below (lo := b) (by
            simp only [wfFrom, Bool.and_eq_true, decide_eq_true_eq]; exact ⟨⟨Nat.le_refl _, h.1.2⟩, h.2⟩) (by omega)
        · apply List.map_congr_left; intro i _
          simp only [Function.comp_apply]
          congr 1; omega

/-- The list of the `n` bytes from `a` up. -/
theorem bytes_eq {m : Memory} (h : m.wf = true) (a n : Nat) : m.bytes a n = (List.range n).map fun i => m.get (a + i) := by
  unfold bytes
  rw [take_eq a n (above_wf (lo := 0) h) (Nat.le_refl _)]
  apply List.map_congr_left; intro i _
  exact find_above_cells (lo := 0) h (by omega)

end Memory

/-! ### Places -/

/-- Memory in canonical form. -/
def MemOk (m : Mem) : Prop := m.hbm.wf = true ∧ m.cxl.wf = true ∧ m.spad.wf = true

/-- The byte at a place of the memories. -/
def memByte (m : Mem) : Loc → Byte
  | .hbm a => m.hbm.get a | .cxl a => m.cxl.get a | .spad a => m.spad.get a | .fabric _ _ => 0

theorem byteAt_eq (s : State) (l : Loc) : byteAt s l = memByte s.mem l := by cases l <;> rfl

theorem writeLoc_ok {m : Mem} (h : MemOk m) (l : Loc) (n v : Nat) : MemOk (writeLoc m l n v) := by
  obtain ⟨h1, h2, h3⟩ := h
  cases l with
  | hbm a => exact ⟨Memory.write_wf h1 .., h2, h3⟩
  | cxl a => exact ⟨h1, Memory.write_wf h2 .., h3⟩
  | spad a => exact ⟨h1, h2, Memory.write_wf h3 ..⟩
  | fabric w a => exact ⟨h1, h2, h3⟩

theorem writeSoftBytes_tables (m : Mem) (l : Loc) (b : List Byte) :
    writeSoftBytes m l b = { writeBytesLoc m l b with tables := (writeSoftBytes m l b).tables } := by
  cases l <;> rfl

theorem writeBytesLoc_ok {m : Mem} (h : MemOk m) (l : Loc) (b : List Byte) : MemOk (writeBytesLoc m l b) := by
  obtain ⟨h1, h2, h3⟩ := h
  cases l with
  | hbm a => exact ⟨Memory.writeBytes_wf h1 .., h2, h3⟩
  | cxl a => exact ⟨h1, Memory.writeBytes_wf h2 .., h3⟩
  | spad a => exact ⟨h1, h2, Memory.writeBytes_wf h3 ..⟩
  | fabric w a => exact ⟨h1, h2, h3⟩

theorem writeSoftBytes_ok {m : Mem} (h : MemOk m) (l : Loc) (b : List Byte) : MemOk (writeSoftBytes m l b) := by
  rw [writeSoftBytes_tables]; exact writeBytesLoc_ok h l b

/-- A store puts the bytes of its value at its place. -/
theorem writeLoc_stored {m : Mem} (h : MemOk m) (l : Loc) (hf : ∀ w a, l ≠ .fabric w a) (n v i : Nat) (hi : i < n) :
    memByte (writeLoc m l n v) (Loc.up l i) = BitVec.ofNat 8 (v / 2 ^ (8 * i)) := by
  obtain ⟨h1, h2, h3⟩ := h
  cases l with
  | hbm a => exact (Memory.get_write h1 ..).trans (by rw [if_pos (by omega), Nat.add_sub_cancel_left])
  | cxl a => exact (Memory.get_write h2 ..).trans (by rw [if_pos (by omega), Nat.add_sub_cancel_left])
  | spad a => exact (Memory.get_write h3 ..).trans (by rw [if_pos (by omega), Nat.add_sub_cancel_left])
  | fabric w a => exact absurd rfl (hf w a)

/-- A store leaves every byte outside its place. -/
theorem writeLoc_other {m : Mem} (h : MemOk m) (l q : Loc) (n v : Nat) (hq : ¬ Within q l n) :
    memByte (writeLoc m l n v) q = memByte m q := by
  obtain ⟨h1, h2, h3⟩ := h
  have key : ∀ a b, ¬ (∃ i, i < n ∧ b = a + i) → ¬ (a ≤ b ∧ b < a + n) := fun a b hn hh => hn ⟨b - a, by omega, by omega⟩
  cases l with
  | hbm a => cases q with
    | hbm b => exact (Memory.get_write h1 ..).trans (by
        rw [if_neg (key a b fun ⟨i, hi, e⟩ => hq ⟨i, hi, by rw [e]; rfl⟩)]; rfl)
    | cxl b => rfl
    | spad b => rfl
    | fabric x b => rfl
  | cxl a => cases q with
    | hbm b => rfl
    | cxl b => exact (Memory.get_write h2 ..).trans (by
        rw [if_neg (key a b fun ⟨i, hi, e⟩ => hq ⟨i, hi, by rw [e]; rfl⟩)]; rfl)
    | spad b => rfl
    | fabric x b => rfl
  | spad a => cases q with
    | hbm b => rfl
    | cxl b => rfl
    | spad b => exact (Memory.get_write h3 ..).trans (by
        rw [if_neg (key a b fun ⟨i, hi, e⟩ => hq ⟨i, hi, by rw [e]; rfl⟩)]; rfl)
    | fabric x b => rfl
  | fabric w a => cases q <;> rfl

/-- The number read at a place, from its bytes. -/
theorem readLoc_eq {m : Mem} (l : Loc) (hf : ∀ w a, l ≠ .fabric w a) (n v : Nat) (hv : v < 2 ^ (8 * n))
    (h : ∀ i, i < n → memByte m (Loc.up l i) = BitVec.ofNat 8 (v / 2 ^ (8 * i))) : readLoc m l n = v := by
  cases l with
  | hbm a => exact Memory.read_eq a v n hv h
  | cxl a => exact Memory.read_eq a v n hv h
  | spad a => exact Memory.read_eq a v n hv h
  | fabric w a => exact absurd rfl (hf w a)

end Sys2Proof.Machine
end

