-- ==== Sys2Proof/Laws/PerInstr.lean ====
section
/-! SUPPORT. The family Encoded: what the encoding of one instruction looks like (R58, R71): an event of the machine has none, and every other
instruction has one word or a prefix and a word. -/

namespace Sys2Proof.Laws.Encoded

/-- An instruction has an encoding exactly when it is no event, and of at most two words (R58, R71). -/
def Statement (i : Instr) : Prop := (encode i = [] ↔ i.isEvent = true) ∧ (encode i).length ≤ 2

/-- One word. -/
theorem one {i : Instr} (w : Word32) (h : encode i = [w]) (e : i.isEvent = false) : Statement i := by
  simp [Statement, h, e]

/-- A vector instruction, with or without its prefix. -/
theorem vec {i : Instr} (p : Option VPfx) (w : Word32) (h : encode i = encV p w) (e : i.isEvent = false) : Statement i := by
  cases p <;> simp [Statement, h, e, encV]

/-- A memory instruction, with or without its prefix. -/
theorem mem {i : Instr} (p : Option MPfx) (w : Word32) (h : encode i = encM p w) (e : i.isEvent = false) : Statement i := by
  cases p <;> simp [Statement, h, e, encM]

/-- An event. -/
theorem event {i : Instr} (h : encode i = []) (e : i.isEvent = true) : Statement i := by
  simp [Statement, h, e]

theorem add (d a b : Reg) : Statement (.add d a b) := one _ rfl rfl
theorem sub (d a b : Reg) : Statement (.sub d a b) := one _ rfl rfl
theorem mul (d a b : Reg) : Statement (.mul d a b) := one _ rfl rfl
theorem mulhI (d a b : Reg) : Statement (.mulhI d a b) := one _ rfl rfl
theorem mulhN (d a b : Reg) : Statement (.mulhN d a b) := one _ rfl rfl
theorem divI (d a b : Reg) : Statement (.divI d a b) := one _ rfl rfl
theorem divN (d a b : Reg) : Statement (.divN d a b) := one _ rfl rfl
theorem remI (d a b : Reg) : Statement (.remI d a b) := one _ rfl rfl
theorem remN (d a b : Reg) : Statement (.remN d a b) := one _ rfl rfl
theorem and (d a b : Reg) : Statement (.and d a b) := one _ rfl rfl
theorem or (d a b : Reg) : Statement (.or d a b) := one _ rfl rfl
theorem xor (d a b : Reg) : Statement (.xor d a b) := one _ rfl rfl
theorem shl (d a b : Reg) : Statement (.shl d a b) := one _ rfl rfl
theorem shr (d a b : Reg) : Statement (.shr d a b) := one _ rfl rfl
theorem sra (d a b : Reg) : Statement (.sra d a b) := one _ rfl rfl
theorem sltI (d a b : Reg) : Statement (.sltI d a b) := one _ rfl rfl
theorem sltN (d a b : Reg) : Statement (.sltN d a b) := one _ rfl rfl
theorem minI (d a b : Reg) : Statement (.minI d a b) := one _ rfl rfl
theorem maxI (d a b : Reg) : Statement (.maxI d a b) := one _ rfl rfl
theorem minN (d a b : Reg) : Statement (.minN d a b) := one _ rfl rfl
theorem maxN (d a b : Reg) : Statement (.maxN d a b) := one _ rfl rfl
theorem clz (d a : Reg) : Statement (.clz d a) := one _ rfl rfl
theorem ctz (d a : Reg) : Statement (.ctz d a) := one _ rfl rfl
theorem popc (d a : Reg) : Statement (.popc d a) := one _ rfl rfl
theorem sext (d a : Reg) (w : BitVec 7) : Statement (.sext d a w) := one _ rfl rfl
theorem zext (d a : Reg) (w : BitVec 7) : Statement (.zext d a w) := one _ rfl rfl
theorem addi (d a : Reg) (imm : BitVec 14) : Statement (.addi d a imm) := one _ rfl rfl
theorem andi (d a : Reg) (imm : BitVec 14) : Statement (.andi d a imm) := one _ rfl rfl
theorem ori (d a : Reg) (imm : BitVec 14) : Statement (.ori d a imm) := one _ rfl rfl
theorem xori (d a : Reg) (imm : BitVec 14) : Statement (.xori d a imm) := one _ rfl rfl
theorem shli (d a : Reg) (sh : BitVec 6) : Statement (.shli d a sh) := one _ rfl rfl
theorem shri (d a : Reg) (sh : BitVec 6) : Statement (.shri d a sh) := one _ rfl rfl
theorem srai (d a : Reg) (sh : BitVec 6) : Statement (.srai d a sh) := one _ rfl rfl
theorem lui (d : Reg) (imm : BitVec 19) : Statement (.lui d imm) := one _ rfl rfl
theorem ldI8 (d a : Reg) (sc : Scope) (ord : Order) (off : BitVec 7) : Statement (.ldI8 d a sc ord off) := one _ rfl rfl
theorem ldI16 (d a : Reg) (sc : Scope) (ord : Order) (off : BitVec 7) : Statement (.ldI16 d a sc ord off) := one _ rfl rfl
theorem ldI32 (d a : Reg) (sc : Scope) (ord : Order) (off : BitVec 7) : Statement (.ldI32 d a sc ord off) := one _ rfl rfl
theorem ldI64 (d a : Reg) (sc : Scope) (ord : Order) (off : BitVec 7) : Statement (.ldI64 d a sc ord off) := one _ rfl rfl
theorem ldN8 (d a : Reg) (sc : Scope) (ord : Order) (off : BitVec 7) : Statement (.ldN8 d a sc ord off) := one _ rfl rfl
theorem ldN16 (d a : Reg) (sc : Scope) (ord : Order) (off : BitVec 7) : Statement (.ldN16 d a sc ord off) := one _ rfl rfl
theorem ldN32 (d a : Reg) (sc : Scope) (ord : Order) (off : BitVec 7) : Statement (.ldN32 d a sc ord off) := one _ rfl rfl
theorem st8 (d a : Reg) (sc : Scope) (ord : Order) (off : BitVec 7) : Statement (.st8 d a sc ord off) := one _ rfl rfl
theorem st16 (d a : Reg) (sc : Scope) (ord : Order) (off : BitVec 7) : Statement (.st16 d a sc ord off) := one _ rfl rfl
theorem st32 (d a : Reg) (sc : Scope) (ord : Order) (off : BitVec 7) : Statement (.st32 d a sc ord off) := one _ rfl rfl
theorem st64 (d a : Reg) (sc : Scope) (ord : Order) (off : BitVec 7) : Statement (.st64 d a sc ord off) := one _ rfl rfl
theorem brEq (a b : Reg) (off : BitVec 13) : Statement (.brEq a b off) := one _ rfl rfl
theorem brNe (a b : Reg) (off : BitVec 13) : Statement (.brNe a b off) := one _ rfl rfl
theorem brLt (a b : Reg) (off : BitVec 13) : Statement (.brLt a b off) := one _ rfl rfl
theorem brGe (a b : Reg) (off : BitVec 13) : Statement (.brGe a b off) := one _ rfl rfl
theorem brLtn (a b : Reg) (off : BitVec 13) : Statement (.brLtn a b off) := one _ rfl rfl
theorem brGen (a b : Reg) (off : BitVec 13) : Statement (.brGen a b off) := one _ rfl rfl
theorem bpT (p : BitVec 3) (off : BitVec 13) : Statement (.bpT p off) := one _ rfl rfl
theorem bpF (p : BitVec 3) (off : BitVec 13) : Statement (.bpF p off) := one _ rfl rfl
theorem jal (d : Reg) (off : BitVec 20) : Statement (.jal d off) := one _ rfl rfl
theorem jalr (d a : Reg) (off : BitVec 15) : Statement (.jalr d a off) := one _ rfl rfl
theorem fadd (d a b : Reg) (rm : Rm) : Statement (.fadd d a b rm) := one _ rfl rfl
theorem fsub (d a b : Reg) (rm : Rm) : Statement (.fsub d a b rm) := one _ rfl rfl
theorem fmul (d a b : Reg) (rm : Rm) : Statement (.fmul d a b rm) := one _ rfl rfl
theorem fdiv (d a b : Reg) (rm : Rm) : Statement (.fdiv d a b rm) := one _ rfl rfl
theorem fsqrt (d a : Reg) (rm : Rm) : Statement (.fsqrt d a rm) := one _ rfl rfl
theorem fmacc (d a b : Reg) (rm : Rm) : Statement (.fmacc d a b rm) := one _ rfl rfl
theorem fmin (d a b : Reg) : Statement (.fmin d a b) := one _ rfl rfl
theorem fmax (d a b : Reg) : Statement (.fmax d a b) := one _ rfl rfl
theorem fabs (d a : Reg) : Statement (.fabs d a) := one _ rfl rfl
theorem fneg (d a : Reg) : Statement (.fneg d a) := one _ rfl rfl
theorem fcvtFX (d a : Reg) (t : CvtTy) (rm : Rm) : Statement (.fcvtFX d a t rm) := one _ rfl rfl
theorem fcvtXF (d a : Reg) (t : CvtTy) (rm : Rm) : Statement (.fcvtXF d a t rm) := one _ rfl rfl
theorem fmovX (d a : Reg) : Statement (.fmovX d a) := one _ rfl rfl
theorem fmovF (d a : Reg) : Statement (.fmovF d a) := one _ rfl rfl
theorem fcmp (d : BitVec 3) (a b : Reg) (c : FCond) : Statement (.fcmp d a b c) := one _ rfl rfl
theorem fclass (d a : Reg) : Statement (.fclass d a) := one _ rfl rfl
theorem pand (d a b : BitVec 3) : Statement (.pand d a b) := one _ rfl rfl
theorem por (d a b : BitVec 3) : Statement (.por d a b) := one _ rfl rfl
theorem pxor (d a b : BitVec 3) : Statement (.pxor d a b) := one _ rfl rfl
theorem pnot (d a : BitVec 3) : Statement (.pnot d a) := one _ rfl rfl
theorem ppack (d : Reg) : Statement (.ppack d) := one _ rfl rfl
theorem punpk (a : Reg) : Statement (.punpk a) := one _ rfl rfl
theorem pset (d : BitVec 3) (val : Bool) : Statement (.pset d val) := one _ rfl rfl
theorem vfadd (p : Option VPfx) (d a : VSpec) (b : VB) : Statement (.vfadd p d a b) := vec _ _ rfl rfl
theorem vfsub (p : Option VPfx) (d a : VSpec) (b : VB) : Statement (.vfsub p d a b) := vec _ _ rfl rfl
theorem vfmul (p : Option VPfx) (d a : VSpec) (b : VB) : Statement (.vfmul p d a b) := vec _ _ rfl rfl
theorem vfdiv (p : Option VPfx) (d a : VSpec) (b : VB) : Statement (.vfdiv p d a b) := vec _ _ rfl rfl
theorem vfmin (p : Option VPfx) (d a : VSpec) (b : VB) : Statement (.vfmin p d a b) := vec _ _ rfl rfl
theorem vfmax (p : Option VPfx) (d a : VSpec) (b : VB) : Statement (.vfmax p d a b) := vec _ _ rfl rfl
theorem vfcopysign (p : Option VPfx) (d a : VSpec) (b : VB) : Statement (.vfcopysign p d a b) := vec _ _ rfl rfl
theorem vfaddp (p : Option VPfx) (d a : VSpec) (b : VB) : Statement (.vfaddp p d a b) := vec _ _ rfl rfl
theorem vfnaddp (p : Option VPfx) (d a : VSpec) (b : VB) : Statement (.vfnaddp p d a b) := vec _ _ rfl rfl
theorem vfsubd (p : Option VPfx) (d a : VSpec) (b : VB) : Statement (.vfsubd p d a b) := vec _ _ rfl rfl
theorem vfsubp (p : Option VPfx) (d a : VSpec) (b : VB) : Statement (.vfsubp p d a b) := vec _ _ rfl rfl
theorem vfsqrt (p : Option VPfx) (d a : VSpec) : Statement (.vfsqrt p d a) := vec _ _ rfl rfl
theorem vfrsqrt (p : Option VPfx) (d a : VSpec) : Statement (.vfrsqrt p d a) := vec _ _ rfl rfl
theorem vfrecip (p : Option VPfx) (d a : VSpec) : Statement (.vfrecip p d a) := vec _ _ rfl rfl
theorem vfexp2 (p : Option VPfx) (d a : VSpec) : Statement (.vfexp2 p d a) := vec _ _ rfl rfl
theorem vflog2 (p : Option VPfx) (d a : VSpec) : Statement (.vflog2 p d a) := vec _ _ rfl rfl
theorem vftanh (p : Option VPfx) (d a : VSpec) : Statement (.vftanh p d a) := vec _ _ rfl rfl
theorem vfsig (p : Option VPfx) (d a : VSpec) : Statement (.vfsig p d a) := vec _ _ rfl rfl
theorem vfrelu (p : Option VPfx) (d a : VSpec) : Statement (.vfrelu p d a) := vec _ _ rfl rfl
theorem vfabs (p : Option VPfx) (d a : VSpec) : Statement (.vfabs p d a) := vec _ _ rfl rfl
theorem vfneg (p : Option VPfx) (d a : VSpec) : Statement (.vfneg p d a) := vec _ _ rfl rfl
theorem vfround (p : Option VPfx) (d a : VSpec) (rm : Rm) : Statement (.vfround p d a rm) := vec _ _ rfl rfl
theorem vadd (p : Option VPfx) (d a : VSpec) (b : VB) : Statement (.vadd p d a b) := vec _ _ rfl rfl
theorem vsub (p : Option VPfx) (d a : VSpec) (b : VB) : Statement (.vsub p d a b) := vec _ _ rfl rfl
theorem vmul (p : Option VPfx) (d a : VSpec) (b : VB) : Statement (.vmul p d a b) := vec _ _ rfl rfl
theorem vmulh (p : Option VPfx) (d a : VSpec) (b : VB) : Statement (.vmulh p d a b) := vec _ _ rfl rfl
theorem vand (p : Option VPfx) (d a : VSpec) (b : VB) : Statement (.vand p d a b) := vec _ _ rfl rfl
theorem vor (p : Option VPfx) (d a : VSpec) (b : VB) : Statement (.vor p d a b) := vec _ _ rfl rfl
theorem vxor (p : Option VPfx) (d a : VSpec) (b : VB) : Statement (.vxor p d a b) := vec _ _ rfl rfl
theorem vshl (p : Option VPfx) (d a : VSpec) (b : VB) : Statement (.vshl p d a b) := vec _ _ rfl rfl
theorem vshr (p : Option VPfx) (d a : VSpec) (b : VB) : Statement (.vshr p d a b) := vec _ _ rfl rfl
theorem vsra (p : Option VPfx) (d a : VSpec) (b : VB) : Statement (.vsra p d a b) := vec _ _ rfl rfl
theorem vmin (p : Option VPfx) (d a : VSpec) (b : VB) : Statement (.vmin p d a b) := vec _ _ rfl rfl
theorem vmax (p : Option VPfx) (d a : VSpec) (b : VB) : Statement (.vmax p d a b) := vec _ _ rfl rfl
theorem viota (p : Option VPfx) (d : VSpec) : Statement (.viota p d) := vec _ _ rfl rfl
theorem vfcmp (p : Option VPfx) (c : VFCond) (kd : BitVec 3) (a : VSpec) (b : VB) : Statement (.vfcmp p c kd a b) := vec _ _ rfl rfl
theorem vcmp (p : Option VPfx) (c : VCond) (kd : BitVec 3) (a : VSpec) (b : VB) : Statement (.vcmp p c kd a b) := vec _ _ rfl rfl
theorem kand (p : Option VPfx) (d a b : BitVec 3) : Statement (.kand p d a b) := vec _ _ rfl rfl
theorem kor (p : Option VPfx) (d a b : BitVec 3) : Statement (.kor p d a b) := vec _ _ rfl rfl
theorem kxor (p : Option VPfx) (d a b : BitVec 3) : Statement (.kxor p d a b) := vec _ _ rfl rfl
theorem knot (p : Option VPfx) (d a : BitVec 3) : Statement (.knot p d a) := vec _ _ rfl rfl
theorem kpop (p : Option VPfx) (d : Reg) (a : BitVec 3) : Statement (.kpop p d a) := vec _ _ rfl rfl
theorem kfirst (p : Option VPfx) (d : Reg) (a : BitVec 3) : Statement (.kfirst p d a) := vec _ _ rfl rfl
theorem kmovX (p : Option VPfx) (d : Reg) (a : BitVec 3) (b : Reg) : Statement (.kmovX p d a b) := vec _ _ rfl rfl
theorem kmovKMask (p : Option VPfx) (d : BitVec 3) (a : VSpec) : Statement (.kmovKMask p d a) := vec _ _ rfl rfl
theorem kmovKVector (p : Option VPfx) (d : VSpec) (a : BitVec 3) : Statement (.kmovKVector p d a) := vec _ _ rfl rfl
theorem vcvt (p : Option VPfx) (t : ETy) (d a : VSpec) (src : ETy) (rm : Rm) : Statement (.vcvt p t d a src rm) := vec _ _ rfl rfl
theorem vsumO (p : Option VPfx) (d a : VSpec) (seg : Option (BitVec 7)) : Statement (.vsumO p d a seg) := vec _ _ rfl rfl
theorem vsumF (p : Option VPfx) (d a : VSpec) (seg : Option (BitVec 7)) : Statement (.vsumF p d a seg) := vec _ _ rfl rfl
theorem vmaxr (p : Option VPfx) (d a : VSpec) (seg : Option (BitVec 7)) : Statement (.vmaxr p d a seg) := vec _ _ rfl rfl
theorem vminr (p : Option VPfx) (d a : VSpec) (seg : Option (BitVec 7)) : Statement (.vminr p d a seg) := vec _ _ rfl rfl
theorem vscanO (p : Option VPfx) (d a : VSpec) (seg : Option (BitVec 7)) : Statement (.vscanO p d a seg) := vec _ _ rfl rfl
theorem vperm (p : Option VPfx) (d a b : VSpec) : Statement (.vperm p d a b) := vec _ _ rfl rfl
theorem vslideup (p : Option VPfx) (d a : VSpec) (b : XB) : Statement (.vslideup p d a b) := vec _ _ rfl rfl
theorem vslidedn (p : Option VPfx) (d a : VSpec) (b : XB) : Statement (.vslidedn p d a b) := vec _ _ rfl rfl
theorem vcompress (p : Option VPfx) (d a : VSpec) : Statement (.vcompress p d a) := vec _ _ rfl rfl
theorem vexpand (p : Option VPfx) (d a : VSpec) : Statement (.vexpand p d a) := vec _ _ rfl rfl
theorem vbcast (p : Option VPfx) (d a : VSpec) (b : XB) : Statement (.vbcast p d a b) := vec _ _ rfl rfl
theorem vmov (p : Option VPfx) (d a : VSpec) : Statement (.vmov p d a) := vec _ _ rfl rfl
theorem vsplat (p : Option VPfx) (d : VSpec) (b : XB) : Statement (.vsplat p d b) := vec _ _ rfl rfl
theorem dseedRad (p : Option VPfx) (d : VSpec) (x : Reg) : Statement (.dseedRad p d x) := vec _ _ rfl rfl
theorem dzero (p : Option VPfx) (d a : VSpec) : Statement (.dzero p d a) := vec _ _ rfl rfl
theorem dget (p : Option VPfx) (d a : VSpec) (b : XB) : Statement (.dget p d a b) := vec _ _ rfl rfl
theorem dput (p : Option VPfx) (d a : VSpec) (b : XB) : Statement (.dput p d a b) := vec _ _ rfl rfl
theorem dmask (p : Option VPfx) (d : VSpec) (x : Reg) : Statement (.dmask p d x) := vec _ _ rfl rfl
theorem vld (p : Option MPfx) (t : ETy) (v : VSpec) (base : Reg) (bnd ff loc : Bool) : Statement (.vld p t v base bnd ff loc) := mem _ _ rfl rfl
theorem vldS (p : Option MPfx) (t : ETy) (v : VSpec) (base : Reg) (bnd ff : Bool) (xs : Reg) (loc : Bool) : Statement (.vldS p t v base bnd ff xs loc) := mem _ _ rfl rfl
theorem vld2d (p : Option MPfx) (t : ETy) (v : VSpec) (base : Reg) (bnd ff : Bool) (xs : Reg) (loc : Bool) : Statement (.vld2d p t v base bnd ff xs loc) := mem _ _ rfl rfl
theorem vldX (p : Option MPfx) (t : ETy) (v : VSpec) (base : Reg) (bnd : Bool) (vi : BitVec 6) (loc : Bool) : Statement (.vldX p t v base bnd vi loc) := mem _ _ rfl rfl
theorem vldQ (p : Option MPfx) (v : VSpec) (base : Reg) (ff : Bool) (xs : Reg) (loc : Bool) : Statement (.vldQ p v base ff xs loc) := mem _ _ rfl rfl
theorem vrs (p : Option MPfx) (count : BitVec 4) (v : BitVec 6) (base : Reg) (slot : BitVec 7) (loc : Bool) : Statement (.vrs p count v base slot loc) := mem _ _ rfl rfl
theorem vst (p : Option MPfx) (t : ETy) (v : VSpec) (base : Reg) (bnd loc : Bool) : Statement (.vst p t v base bnd loc) := mem _ _ rfl rfl
theorem vstS (p : Option MPfx) (t : ETy) (v : VSpec) (base : Reg) (bnd : Bool) (xs : Reg) (loc : Bool) : Statement (.vstS p t v base bnd xs loc) := mem _ _ rfl rfl
theorem vst2d (p : Option MPfx) (t : ETy) (v : VSpec) (base : Reg) (bnd : Bool) (xs : Reg) (loc : Bool) : Statement (.vst2d p t v base bnd xs loc) := mem _ _ rfl rfl
theorem vstX (p : Option MPfx) (t : ETy) (v : VSpec) (base : Reg) (bnd : Bool) (vi : BitVec 6) (loc : Bool) : Statement (.vstX p t v base bnd vi loc) := mem _ _ rfl rfl
theorem vstQ (p : Option MPfx) (v : VSpec) (base : Reg) (val : Bool) (xs : Reg) (loc : Bool) : Statement (.vstQ p v base val xs loc) := mem _ _ rfl rfl
theorem vsv (p : Option MPfx) (count : BitVec 4) (v : BitVec 6) (base : Reg) (slot : BitVec 7) (loc : Bool) : Statement (.vsv p count v base slot loc) := mem _ _ rfl rfl
theorem vamoAdd (p : Option MPfx) (d vi : BitVec 6) (base : Reg) (t : VAmoTy) (loc : Bool) : Statement (.vamoAdd p d vi base t loc) := mem _ _ rfl rfl
theorem vamoMin (p : Option MPfx) (d vi : BitVec 6) (base : Reg) (t : VAmoTy) (loc : Bool) : Statement (.vamoMin p d vi base t loc) := mem _ _ rfl rfl
theorem vamoMax (p : Option MPfx) (d vi : BitVec 6) (base : Reg) (t : VAmoTy) (loc : Bool) : Statement (.vamoMax p d vi base t loc) := mem _ _ rfl rfl
theorem vamoSwap (p : Option MPfx) (d vi : BitVec 6) (base : Reg) (t : VAmoTy) (loc : Bool) : Statement (.vamoSwap p d vi base t loc) := mem _ _ rfl rfl
theorem vamoCas (p : Option MPfx) (d vi : BitVec 6) (base : Reg) (t : VAmoTy) (loc : Bool) : Statement (.vamoCas p d vi base t loc) := mem _ _ rfl rfl
theorem amoAdd (d a b : Reg) (t : AmoTy) (ord : AmoOrd) (sc : Scope) : Statement (.amoAdd d a b t ord sc) := one _ rfl rfl
theorem amoMin (d a b : Reg) (t : AmoTy) (ord : AmoOrd) (sc : Scope) : Statement (.amoMin d a b t ord sc) := one _ rfl rfl
theorem amoMax (d a b : Reg) (t : AmoTy) (ord : AmoOrd) (sc : Scope) : Statement (.amoMax d a b t ord sc) := one _ rfl rfl
theorem amoSwap (d a b : Reg) (t : AmoTy) (ord : AmoOrd) (sc : Scope) : Statement (.amoSwap d a b t ord sc) := one _ rfl rfl
theorem amoCas (d a b : Reg) (t : AmoTy) (ord : AmoOrd) (sc : Scope) : Statement (.amoCas d a b t ord sc) := one _ rfl rfl
theorem mredAdd (p : Option MPfx) (d vi : BitVec 6) (base : Reg) (t : VAmoTy) (loc : Bool) : Statement (.mredAdd p d vi base t loc) := mem _ _ rfl rfl
theorem mredMin (p : Option MPfx) (d vi : BitVec 6) (base : Reg) (t : VAmoTy) (loc : Bool) : Statement (.mredMin p d vi base t loc) := mem _ _ rfl rfl
theorem mredMax (p : Option MPfx) (d vi : BitVec 6) (base : Reg) (t : VAmoTy) (loc : Bool) : Statement (.mredMax p d vi base t loc) := mem _ _ rfl rfl
theorem mxCfg (rows cols : BitVec 7) (img : Bool) : Statement (.mxCfg rows cols img) := one _ rfl rfl
theorem mxZero (t : BitVec 3) (b : BitVec 2) : Statement (.mxZero t b) := one _ rfl rfl
theorem mxLdw (k b s : Reg) (t : MxTy) : Statement (.mxLdw k b s t) := one _ rfl rfl
theorem mxSeedw (j : Reg) (off : BitVec 4) : Statement (.mxSeedw j off) := one _ rfl rfl
theorem mxSeedwClr : Statement .mxSeedwClr := one _ rfl rfl
theorem mxStep (t : BitVec 3) (a : Reg) (k : BitVec 4) (d : BitVec 7) (ty : MxTy) : Statement (.mxStep t a k d ty) := one _ rfl rfl
theorem mxStepf (t : BitVec 3) (a : Reg) (k : BitVec 4) (d : BitVec 7) (ty : MxTy) : Statement (.mxStepf t a k d ty) := one _ rfl rfl
theorem mxCommit : Statement .mxCommit := one _ rfl rfl
theorem mxWait (n : BitVec 5) : Statement (.mxWait n) := one _ rfl rfl
theorem mxRd (v : VSpec) (t : BitVec 3) (ta : Bool) (r : Reg) : Statement (.mxRd v t ta r) := one _ rfl rfl
theorem mxWr (t : BitVec 3) (v : VSpec) (r : Reg) (ta : Bool) : Statement (.mxWr t v r ta) := one _ rfl rfl
theorem cpNd (w : Reg) : Statement (.cpNd w) := one _ rfl rfl
theorem cpLin (d s n c : Reg) : Statement (.cpLin d s n c) := one _ rfl rfl
theorem qFence (mask : BitVec 4) : Statement (.qFence mask) := one _ rfl rfl
theorem qFenceW (mask : BitVec 4) : Statement (.qFenceW mask) := one _ rfl rfl
theorem cpStat (d : Reg) (sel : Bool) : Statement (.cpStat d sel) := one _ rfl rfl
theorem fence (kind : FenceKind) (sc : Scope) : Statement (.fence kind sc) := one _ rfl rfl
theorem barInit (b n : Reg) (sc : Scope) : Statement (.barInit b n sc) := one _ rfl rfl
theorem barArr (d b : Reg) (rlx : Bool) : Statement (.barArr d b rlx) := one _ rfl rfl
theorem barWait (b t : Reg) : Statement (.barWait b t) := one _ rfl rfl
theorem barTest (d b t : Reg) : Statement (.barTest d b t) := one _ rfl rfl
theorem waita (a b : Reg) (sc : Scope) (c : WCond) : Statement (.waita a b sc c) := one _ rfl rfl
theorem nodeSub (d r : Reg) : Statement (.nodeSub d r) := one _ rfl rfl
theorem loop (c : Reg) (n : BitVec 16) : Statement (.loop c n) := one _ rfl rfl
theorem brkl : Statement .brkl := one _ rfl rfl
theorem lidx (d : Reg) (level : BitVec 3) : Statement (.lidx d level) := one _ rfl rfl
theorem repf (c : Reg) (m : BitVec 4) (sd sa sb : BitVec 2) (wz : BitVec 3) (map : Word32) : Statement (.repf c m sd sa sb wz map) := ⟨by simp [encode, Instr.isEvent], by simp [encode]⟩
theorem mile (a : Reg) : Statement (.mile a) := one _ rfl rfl
theorem itBind (a n : Reg) : Statement (.itBind a n) := one _ rfl rfl
theorem itWait (i : Reg) : Statement (.itWait i) := one _ rfl rfl
theorem itStat (d i : Reg) : Statement (.itStat d i) := one _ rfl rfl
theorem clProp (h key val : Reg) (g : BitVec 4) : Statement (.clProp h key val g) := one _ rfl rfl
theorem clObj (h : Reg) (g : BitVec 4) : Statement (.clObj h g) := one _ rfl rfl
theorem clWait (d h : Reg) (g : BitVec 4) : Statement (.clWait d h g) := one _ rfl rfl
theorem clStat (d h : Reg) (sel : Bool) (g : BitVec 4) : Statement (.clStat d h sel g) := one _ rfl rfl
theorem clHold (key : Reg) (g : BitVec 4) : Statement (.clHold key g) := one _ rfl rfl
theorem clFree (key : Reg) (g : BitVec 4) : Statement (.clFree key g) := one _ rfl rfl
theorem mcSt (g a k : Reg) (lenc : BitVec 5) : Statement (.mcSt g a k lenc) := one _ rfl rfl
theorem mcLdr (v : BitVec 6) (s g : Reg) (op : LdrOp) (t : LdrTy) : Statement (.mcLdr v s g op t) := one _ rfl rfl
theorem tokSet (i t w : Reg) : Statement (.tokSet i t w) := one _ rfl rfl
theorem tokClr (i : Reg) : Statement (.tokClr i) := one _ rfl rfl
theorem fabStat (d : Reg) (sel : BitVec 2) : Statement (.fabStat d sel) := one _ rfl rfl
theorem optCard (c : Reg) : Statement (.optCard c) := one _ rfl rfl
theorem optWait (n : BitVec 7) : Statement (.optWait n) := one _ rfl rfl
theorem optStep (c : Reg) : Statement (.optStep c) := one _ rfl rfl
theorem optStat (d s : Reg) (sel : BitVec 2) : Statement (.optStat d s sel) := one _ rfl rfl
theorem optRout (i a : Reg) : Statement (.optRout i a) := one _ rfl rfl
theorem setvl (d a : Reg) (w : SetvlW) : Statement (.setvl d a w) := one _ rfl rfl
theorem setshape (n : BitVec 7) (k : BitVec 5) : Statement (.setshape n k) := one _ rfl rfl
theorem vframe (n : BitVec 13) : Statement (.vframe n) := one _ rfl rfl
theorem stread (d : Reg) (sreg : BitVec 12) : Statement (.stread d sreg) := one _ rfl rfl
theorem stwrite (a : Reg) (sreg : BitVec 12) : Statement (.stwrite a sreg) := one _ rfl rfl
theorem stset (a : Reg) (sreg : BitVec 12) : Statement (.stset a sreg) := one _ rfl rfl
theorem stclr (a : Reg) (sreg : BitVec 12) : Statement (.stclr a sreg) := one _ rfl rfl
theorem inncall (n : BitVec 8) : Statement (.inncall n) := one _ rfl rfl
theorem dbgtrap (n : BitVec 8) : Statement (.dbgtrap n) := one _ rfl rfl
theorem eret : Statement .eret := one _ rfl rfl
theorem tlbInv (a : Reg) (kind : TlbKind) : Statement (.tlbInv a kind) := one _ rfl rfl
theorem halt : Statement .halt := one _ rfl rfl
theorem speculationResolve : Statement .speculationResolve := event rfl rfl
theorem scalarValueReturn : Statement .scalarValueReturn := event rfl rfl
theorem registerFillComplete : Statement .registerFillComplete := event rfl rfl
theorem issueWaitRelease : Statement .issueWaitRelease := event rfl rfl
theorem threadWake : Statement .threadWake := event rfl rfl
theorem threadRetire : Statement .threadRetire := event rfl rfl
theorem nodeComplete : Statement .nodeComplete := event rfl rfl
theorem dispatchThread : Statement .dispatchThread := event rfl rfl
theorem priorityAging : Statement .priorityAging := event rfl rfl
theorem quantumExpiry : Statement .quantumExpiry := event rfl rfl
theorem preemptionLanding : Statement .preemptionLanding := event rfl rfl
theorem iterationOverrun : Statement .iterationOverrun := event rfl rfl
theorem timingError : Statement .timingError := event rfl rfl
theorem mxCfgPerform : Statement .mxCfgPerform := event rfl rfl
theorem mxZeroPerform : Statement .mxZeroPerform := event rfl rfl
theorem mxLdwPerform : Statement .mxLdwPerform := event rfl rfl
theorem mxSeedwPerform : Statement .mxSeedwPerform := event rfl rfl
theorem mxStepPerform : Statement .mxStepPerform := event rfl rfl
theorem batchComplete : Statement .batchComplete := event rfl rfl
theorem waybillStart : Statement .waybillStart := event rfl rfl
theorem waybillComplete : Statement .waybillComplete := event rfl rfl
theorem cpLinPerform : Statement .cpLinPerform := event rfl rfl
theorem cardStart : Statement .cardStart := event rfl rfl
theorem cardComplete : Statement .cardComplete := event rfl rfl
theorem routineInstall : Statement .routineInstall := event rfl rfl
theorem stepIncrement : Statement .stepIncrement := event rfl rfl
theorem atomicApply : Statement .atomicApply := event rfl rfl
theorem porterMoveStart : Statement .porterMoveStart := event rfl rfl
theorem fetchComplete : Statement .fetchComplete := event rfl rfl
theorem evictComplete : Statement .evictComplete := event rfl rfl
theorem dropComplete : Statement .dropComplete := event rfl rfl
theorem cxlLinkDown : Statement .cxlLinkDown := event rfl rfl
theorem fabricPacketArrival : Statement .fabricPacketArrival := event rfl rfl
theorem fabricReplyArrival : Statement .fabricReplyArrival := event rfl rfl
theorem fabricAttemptTimeout : Statement .fabricAttemptTimeout := event rfl rfl
theorem abortFlit : Statement .abortFlit := event rfl rfl
theorem sequenceExpiry : Statement .sequenceExpiry := event rfl rfl
theorem fabricLinkDown : Statement .fabricLinkDown := event rfl rfl
theorem fabricLinkUp : Statement .fabricLinkUp := event rfl rfl
theorem mcStStart : Statement .mcStStart := event rfl rfl
theorem multicastBankAccept : Statement .multicastBankAccept := event rfl rfl
theorem multicastBranchForward : Statement .multicastBranchForward := event rfl rfl
theorem acknowledgementArrival : Statement .acknowledgementArrival := event rfl rfl
theorem ftimeReceived : Statement .ftimeReceived := event rfl rfl
theorem ftimeLoss : Statement .ftimeLoss := event rfl rfl
theorem proposalReceived : Statement .proposalReceived := event rfl rfl
theorem objectionReceived : Statement .objectionReceived := event rfl rfl
theorem breachNoticeReceived : Statement .breachNoticeReceived := event rfl rfl
theorem breachNoticeOriginate : Statement .breachNoticeOriginate := event rfl rfl
theorem heldObjectionDiscard : Statement .heldObjectionDiscard := event rfl rfl
theorem claimClose : Statement .claimClose := event rfl rfl
theorem claimForget : Statement .claimForget := event rfl rfl
theorem submit : Statement .submit := event rfl rfl
theorem submitReread : Statement .submitReread := event rfl rfl
theorem hostRegisterWrite : Statement .hostRegisterWrite := event rfl rfl
theorem place : Statement .place := event rfl rfl
theorem group : Statement .group := event rfl rfl
theorem context : Statement .context := event rfl rfl
theorem pool : Statement .pool := event rfl rfl
theorem gtable : Statement .gtable := event rfl rfl
theorem window : Statement .window := event rfl rfl
theorem grant : Statement .grant := event rfl rfl
theorem retire : Statement .retire := event rfl rfl
theorem tokmap : Statement .tokmap := event rfl rfl
theorem attest : Statement .attest := event rfl rfl
theorem measure : Statement .measure := event rfl rfl
theorem boot : Statement .boot := event rfl rfl
theorem functionLevelReset : Statement .functionLevelReset := event rfl rfl
theorem dieClockLower : Statement .dieClockLower := event rfl rfl
theorem illegalInstruction : Statement .illegalInstruction := event rfl rfl
theorem preemptionRequest : Statement .preemptionRequest := event rfl rfl
theorem sleepingThreadSwitchOut : Statement .sleepingThreadSwitchOut := event rfl rfl
theorem noclaim : Statement .noclaim := event rfl rfl
theorem uncorrectableError : Statement .uncorrectableError := event rfl rfl
theorem hostWrite : Statement .hostWrite := event rfl rfl
theorem hostRegisterRead : Statement .hostRegisterRead := event rfl rfl
theorem pinComplete : Statement .pinComplete := event rfl rfl
theorem dieClockRaise : Statement .dieClockRaise := event rfl rfl

end Sys2Proof.Laws.Encoded
end

