-- ==== Sys2Proof/Laws/Registers.lean ====
section
/-! SUPPORT. What the register writes and the completion of an instruction do, once for every instruction that ends with them. -/

namespace Sys2Proof.Machine

/-! ### Completion (R154) -/

/-- Completion changes control only. -/
theorem complete_follow (s : State) (len : Nat) : s.complete len = State.follow s (s.complete len) := by
  unfold State.complete; dsimp only; split <;> rfl

@[simp] theorem complete_mem (s : State) (len : Nat) : (s.complete len).mem = s.mem := by rw [complete_follow]; rfl
@[simp] theorem complete_vec (s : State) (len : Nat) : (s.complete len).core.vec = s.core.vec := by rw [complete_follow]; rfl
@[simp] theorem complete_st (s : State) (len : Nat) : (s.complete len).core.sc.st = s.core.sc.st := by rw [complete_follow]; rfl
@[simp] theorem complete_scx (s : State) (len : Nat) : (s.complete len).core.sc.x = s.core.sc.x := by rw [complete_follow]; rfl
@[simp] theorem complete_scf (s : State) (len : Nat) : (s.complete len).core.sc.f = s.core.sc.f := by rw [complete_follow]; rfl
@[simp] theorem complete_scp (s : State) (len : Nat) : (s.complete len).core.sc.p = s.core.sc.p := by rw [complete_follow]; rfl
@[simp] theorem complete_xfail (s : State) (len : Nat) : (s.complete len).core.xfail = s.core.xfail := by rw [complete_follow]; rfl
@[simp] theorem complete_x (s : State) (len : Nat) (r : Reg) : (s.complete len).x r = s.x r := by rw [complete_follow]; rfl
@[simp] theorem complete_f (s : State) (len : Nat) (r : Reg) : (s.complete len).f r = s.f r := by rw [complete_follow]; rfl
@[simp] theorem complete_p (s : State) (len : Nat) (r : BitVec 3) : (s.complete len).p r = s.p r := by rw [complete_follow]; rfl
@[simp] theorem complete_vreg (s : State) (len : Nat) (r : VSpec) : (s.complete len).vreg r = s.vreg r := by
  rw [complete_follow]; rfl

/-- An instruction that completes in sequence after updates that leave the PC and the loop stack: control is as R154 says. -/
theorem complete_inSequence (s u : State) (len : Nat) (hp : u.core.sc.pc = s.core.sc.pc) (hl : u.core.sc.loops = s.core.sc.loops) :
    InSequence s (u.complete len) len := by
  unfold InSequence State.complete
  simp only [State.pc, State.loops, hp, hl]
  rcases State.loopBack (s.core.sc.pc + BitVec.ofNat 64 len - 4) s.core.sc.loops with ⟨l, _ | start⟩
  · exact ⟨rfl, rfl, rfl⟩
  · exact ⟨rfl, rfl, rfl⟩

theorem complete_finishes (s u : State) (len : Nat) (hp : u.core.sc.pc = s.core.sc.pc) (hl : u.core.sc.loops = s.core.sc.loops) :
    Finishes s u (u.complete len) len := ⟨complete_follow u len, complete_inSequence s u len hp hl⟩

/-- The frame of an instruction that completes, from that of its updates. -/
theorem complete_frame {u w : State} (len : Nat) (h : u = w) : u.complete len = State.follow w (u.complete len) := by
  subst h; exact complete_follow u len

/-! ### Scalar registers -/

/-- A register file read after a write. -/
theorem get_set {α : Type} {n : Nat} (v : Vector α (2 ^ n)) (d r : BitVec n) (w : α) :
    (v.set d.toNat w d.isLt).get r.toFin = if r = d then w else v.get r.toFin := by
  show (v.set d.toNat w d.isLt)[r.toNat]'r.isLt = if r = d then w else v[r.toNat]'r.isLt
  rw [Vector.getElem_set]
  by_cases h : r = d
  · subst h; simp
  · rw [if_neg h, if_neg fun e => h (BitVec.eq_of_toNat_eq e.symm)]

/-- Reading after a write of `x[d]` (R36). -/
theorem setX_x (s : State) (d r : Reg) (w : Word) : (s.setX d w).x r = if r = d ∧ r ≠ 0 then w else s.x r := by
  by_cases hd : d = 0
  · have : s.setX d w = s := by simp [State.setX, hd]
    rw [this, if_neg]; rintro ⟨h1, h2⟩; exact h2 (h1.trans hd)
  · by_cases hr : r = 0
    · simp [State.x, hr]
    · have h : (s.setX d w).core.sc.x = s.core.sc.x.set d.toNat w d.isLt := by
        unfold State.setX; rw [if_neg hd]; rfl
      unfold State.x; rw [if_neg hr, if_neg hr, h]
      rw [get_set (n := 5) s.core.sc.x d r w]
      by_cases e : r = d
      · rw [if_pos e, if_pos ⟨e, hr⟩]
      · rw [if_neg e, if_neg fun q => e q.1]

/-- What a write of `x[d]` leaves. -/
theorem setX_frame (s : State) (d : Reg) (w : Word) : s.setX d w =
    { s with core := { s.core with xfail := (s.setX d w).core.xfail, sc := { s.core.sc with x := (s.setX d w).core.sc.x } } } := by
  unfold State.setX; split <;> rfl

theorem setX_xfail (s : State) (d : Reg) (w : Word) :
    (s.setX d w).core.xfail = if d = 0 then s.core.xfail else s.core.xfail.filter fun q => q.1 != d := by
  unfold State.setX; split <;> rfl

@[simp] theorem setX_pc (s : State) (d : Reg) (w : Word) : (s.setX d w).core.sc.pc = s.core.sc.pc := by rw [setX_frame]
@[simp] theorem setX_loops (s : State) (d : Reg) (w : Word) : (s.setX d w).core.sc.loops = s.core.sc.loops := by rw [setX_frame]
@[simp] theorem setX_mem (s : State) (d : Reg) (w : Word) : (s.setX d w).mem = s.mem := by rw [setX_frame]

/-- An instruction that writes `x[d]` and completes. -/
theorem writesX_alu (s : State) (d : Reg) (v : Word) (len : Nat) : WritesX s ((s.setX d v).complete len) d v len where
  value r := by rw [complete_x, setX_x]
  failures := by rw [complete_xfail, setX_xfail]
  next := complete_inSequence s _ len (setX_pc ..) (setX_loops ..)
  frame := by
    rw [complete_xfail, complete_scx]
    exact complete_frame len (setX_frame s d v)

/-- Reading after a write of `f[d]`. -/
theorem setF_f (s : State) (d r : Reg) (v : FReg) : (s.setF d v).f r = if r = d then v else s.f r :=
  get_set (n := 5) s.core.sc.f d r v

/-- A predicate bit set and read. -/
theorem setBit_get (w : BitVec 8) (d r : BitVec 3) (b : Bool) :
    (State.setBit w d.toNat b).getLsbD r.toNat = if r = d then b else w.getLsbD r.toNat := by
  have hr := r.isLt
  have h1 : (1#8 <<< d.toNat).getLsbD r.toNat = decide (r = d) := by
    rw [BitVec.getLsbD_shiftLeft, BitVec.getLsbD_one]
    have : (r = d) ↔ r.toNat = d.toNat := BitVec.toNat_inj.symm
    simp only [this]
    by_cases h : r.toNat = d.toNat
    · simp [h, show d.toNat < 8 by omega]
    · by_cases h' : r.toNat < d.toNat
      · simp [h, h']
      · simp [h, show ¬ (r.toNat - d.toNat = 0) by omega]
  unfold State.setBit
  cases b
  · rw [if_neg (by decide), BitVec.getLsbD_and, BitVec.getLsbD_not, h1]
    by_cases h : r = d <;> simp [h, show r.toNat < 8 by omega]
  · rw [if_pos rfl, BitVec.getLsbD_or, h1]
    by_cases h : r = d <;> simp [h]

/-- Reading after a write of `p[d]`. -/
theorem setP_p (s : State) (d r : BitVec 3) (b : Bool) : (s.setP d b).p r = if r = d then b else s.p r :=
  setBit_get s.core.sc.p d r b

end Sys2Proof.Machine
end

