-- ==== Sys2Proof/Laws/Vector.lean ====
section
/-! SUPPORT. What the shared operations of vector instructions do: packed planes, the checks at issue, and the end of an instruction in
the frame of R118. -/

namespace Sys2Proof.Machine

/-! ### Planes -/

/-- Element `e` of a packed plane: the list's, cut to the width, and above it that of the old plane (R41). -/
theorem elem_pack (w : Nat) (l : List Nat) (old e : Nat) :
    elem w (pack w l old) e = if h : e < l.length then l[e] % 2 ^ w else elem w old e := by
  induction l generalizing old e with
  | nil => simp [pack]
  | cons v rest ih =>
    have hv : v % 2 ^ w < 2 ^ w := Nat.mod_lt _ (Nat.two_pow_pos w)
    cases e with
    | zero => simp [pack, elem, Nat.add_mul_mod_self_left]
    | succ e =>
      have : elem w (pack w (v :: rest) old) (e + 1) = elem w (pack w rest (old >>> w)) e := by
        show elem w (v % 2 ^ w + 2 ^ w * pack w rest (old >>> w)) (e + 1) = _
        unfold elem
        rw [Nat.mul_succ, Nat.add_comm (w * e) w, Nat.shiftRight_add, Nat.shiftRight_eq_div_pow _ w,
          Nat.add_mul_div_left _ _ (Nat.two_pow_pos w), Nat.div_eq_of_lt hv, Nat.zero_add]
      rw [this, ih]
      have hs : elem w (old >>> w) e = elem w old (e + 1) := by
        unfold elem; rw [← Nat.shiftRight_add, Nat.mul_succ, Nat.add_comm]
      simp [hs]

/-- Element `e` of a part of a written register. -/
theorem partOf_write (old : VReg) (tag : Tag) (w n : Nat) (l : List Lane) (p e : Nat) (hp : p ≤ n) :
    partOf (old.write tag w n l) w p e =
      if h : e < l.length then Lane.part l[e] p % 2 ^ w else if p ≤ old.width then partOf old w p e else 0 := by
  cases p with
  | zero =>
    simp only [partOf, VReg.plane, VReg.write, List.getD_cons_zero]
    rw [elem_pack]
    simp [Lane.part]
  | succ i =>
    have hi : i < n := by omega
    simp only [partOf, VReg.plane, VReg.write, List.getD_cons_succ]
    rw [List.getD_eq_getElem?_getD, List.getElem?_map, List.getElem?_range hi]
    simp only [Option.map_some, Option.getD_some, elem_pack, List.length_map, List.getElem_map, Lane.part]
    by_cases hw : i < old.width
    · simp [hw, Nat.succ_le_iff.mpr hw]
    · have h0 : elem w 0 e = 0 := by simp [elem]
      simp [hw, h0, show ¬ i + 1 ≤ old.width by omega]

/-! ### Vector registers -/

/-- A vector register read after a write. -/
theorem setVreg_vreg (s : State) (d q : VSpec) (r : VReg) : (s.setVreg d r).vreg q = if q = d then r else s.vreg q := by
  cases d with
  | v n => cases q with
    | v m => exact (get_set (n := 6) s.core.vec.v n m r).trans (by by_cases h : m = n <;> simp [h, State.vreg])
    | o m => rfl
    | l0 => rfl
    | l1 => rfl
  | o n => cases q with
    | v m => rfl
    | o m => exact (get_set (n := 4) s.core.vec.o n m r).trans (by by_cases h : m = n <;> simp [h, State.vreg])
    | l0 => rfl
    | l1 => rfl
  | l0 => cases q <;> rfl
  | l1 => cases q <;> rfl

/-- The end of a pushing instruction (R40, R41): the destination and `l0` hold the result, `l1` the old `l0`. -/
theorem pushTo_vreg (s : State) (d q : VSpec) (r : VReg) (hd : d ≠ .l1) :
    (s.pushTo d r).vreg q = if q = d ∨ q = .l0 then r else if q = .l1 then s.vreg .l0 else s.vreg q := by
  have hp : (s.push r).vreg q = if q = .l0 then r else if q = .l1 then s.vreg .l0 else s.vreg q := by cases q <;> rfl
  unfold State.pushTo
  by_cases h0 : d = .l0
  · subst h0; simp [hp]
  · simp only [h0, if_false, setVreg_vreg, hp]
    by_cases hq : q = d
    · simp [hq]
    · simp [hq]

/-- What a push leaves: registers of the vector file. -/
theorem pushTo_frame (s : State) (d : VSpec) (r : VReg) : s.pushTo d r =
    { s with core := { s.core with vec := { s.core.vec with
        v := (s.pushTo d r).core.vec.v, o := (s.pushTo d r).core.vec.o,
        l0 := (s.pushTo d r).core.vec.l0, l1 := (s.pushTo d r).core.vec.l1 } } } := by
  unfold State.pushTo
  dsimp only
  split
  · rfl
  · cases d <;> rfl

/-! ### Checks at issue -/

theorem needVec_ok {s : State} (h : s.core.sup.mode = .user → s.core.sup.vown = s.core.me.image) : s.needVec = .ok () := by
  unfold State.needVec raiseIf
  rw [if_neg]
  simp only [Bool.and_eq_true, beq_iff_eq, bne_iff_ne, not_and, not_not]
  exact h

theorem illegalIf_false (s : State) (i : Instr) (d : BitVec 8) : s.illegalIf i false d = .ok () := rfl

/-- The checks of R37, R71, R117 and R311 pass. -/
theorem vecIllegal_ok {s : State} {f : Form} (h : VecAllowed s f) : s.vecIllegal f false = .ok () := by
  obtain ⟨h1, h2, h3, h4⟩ := h
  unfold State.vecIllegal
  have e2 : ((vregsOf f.ins).any fun n => decide (s.nregs ≤ n.toNat)) = false := by
    rw [List.any_eq_false]; intro n hn; have := h2 n hn; simpa using this
  have e3 : (f.prefixed && s.prefixAtEnd) = false := by
    cases hp : f.prefixed
    · rfl
    · simp [h3 hp]
  have e4 : (false || f.widths.any (s.tooLong f.masked)) = false := by
    rw [Bool.false_or, List.any_eq_false]; intro w hw; simp [h4 w hw]
  rw [e2, e3, e4, needVec_ok h1]
  rfl

/-- The checks on the sources pass (R47 to R49). -/
theorem checkSources_ok {s : State} {cap : Nat} {counts : Bool} {dest : Option VSpec} {srcs : List Source} {w : Nat}
    (h1 : ∀ c ∈ srcs, SourceOk s cap c) (hd : limited dest = true → w ≤ s.planes) (a : Nat) (ha : a = 0 ∨ a = w)
    (hw : if counts = true then (∀ c ∈ srcs, sourceWidth s c = 0 ∨ sourceWidth s c = w)
        ∧ (a = w ∨ ∃ c ∈ srcs, sourceWidth s c = w) else a = w) :
    s.checkSources cap counts dest a srcs = .ok w := by
  induction srcs generalizing a with
  | nil =>
    unfold State.checkSources
    cases counts <;> simp_all
  | cons c rest ih =>
    obtain ⟨hv, hf, ho⟩ := h1 c (List.mem_cons_self ..)
    unfold State.checkSources
    dsimp only
    rw [if_neg hv, hf]
    have e1 : (SrcReg.isO c.reg && decide (cap < s.vl)) = false := by
      cases h : SrcReg.isO c.reg
      · rfl
      · simp [ho h]
    rw [e1]
    simp only [Bool.not_true, Bool.false_eq_true, if_false]
    cases counts with
    | false =>
      simp only [Bool.false_eq_true, if_false] at hw
      subst hw
      simp only [Bool.false_eq_true, if_false]
      simp only [bne_self_eq_false, Bool.false_and, Bool.false_eq_true, if_false, Nat.not_lt_zero, decide_false, Bool.and_false]
      have := ih (fun c hc => h1 c (List.mem_cons_of_mem _ hc)) a (Or.inr rfl) (by simp)
      by_cases hz : a = 0
      · simpa [hz] using this
      · simpa [hz] using this
    | true =>
      simp only [if_true] at hw
      obtain ⟨ha1, ha2⟩ := hw
      have hb : sourceWidth s c = 0 ∨ sourceWidth s c = w := ha1 c (List.mem_cons_self ..)
      simp only [if_true]
      change s.sourceWidth c.reg = 0 ∨ s.sourceWidth c.reg = w at hb
      generalize hbw : s.sourceWidth c.reg = b at hb ⊢
      have e2 : (b != 0 && a != 0 && b != a) = false := by
        rcases hb with hb | hb <;> rcases ha with ha | ha <;> simp [hb, ha]
      have e3 : (a == 0 && limited dest && decide (s.planes < b)) = false := by
        cases hl : limited dest
        · simp
        · have := hd hl
          rcases hb with hb | hb <;> simp [hb, this]
      rw [e2, e3]
      simp only [Bool.false_eq_true, if_false]
      refine ih (fun c hc => h1 c (List.mem_cons_of_mem _ hc)) _ ?_ ?_
      · by_cases hz : a = 0
        · simpa [hz] using hb
        · simpa [hz] using ha
      · simp only [if_true]
        refine ⟨fun c hc => ha1 c (List.mem_cons_of_mem _ hc), ?_⟩
        by_cases hz : a = 0
        · rw [if_pos hz]
          rcases hb with hb | hb
          · rcases ha2 with ha2 | ⟨c', hc', hw'⟩
            · left; omega
            · rcases List.mem_cons.mp hc' with rfl | hc'
              · left; rw [← hw']; exact hbw.symm
              · exact Or.inr ⟨c', hc', hw'⟩
          · exact Or.inl hb
        · rw [if_neg hz]
          rcases ha with ha | ha
          · exact absurd ha hz
          · exact Or.inl ha

/-- Every tag check passes; `w` is the width of the sources and `fixed` the entry's, where it gives one. -/
theorem checkTags_ok {s : State} {widths : List Nat} {counts : Bool} {srcs : List Source} {dest : Option VSpec} {fixed : Option Nat}
    {w : Nat} (h : TagsOk s widths counts srcs dest w (fixed.getD w)) :
    s.checkTags widths counts srcs dest fixed = .ok (fixed.getD w) := by
  obtain ⟨h1, h2, h3, h4⟩ := h
  have hs : s.checkSources (oCapacity widths) counts dest 0 srcs = .ok w := by
    refine checkSources_ok h1 h3 0 (Or.inl rfl) ?_
    unfold WidthIs at h2
    cases counts
    · simpa [eq_comm] using h2
    · simpa [eq_comm] using h2
  unfold State.checkTags
  dsimp only
  rw [hs]
  cases dest with
  | none => rfl
  | some d =>
    have hd := h4 d rfl
    have : s.checkDest (oCapacity widths) (fixed.getD w) d = .ok () := by
      unfold State.checkDest
      unfold DestOk at hd
      cases ho : VSpec.isO d
      · simp only [ho, Bool.false_eq_true, if_false] at hd
        simp [hd]
      · simp only [ho, if_true] at hd
        simp [hd.1, hd.2]
    show (do s.checkDest (oCapacity widths) (fixed.getD w) d; Except.ok (fixed.getD w)) = _
    rw [this]; rfl

/-- Ready sources neither raise nor wait (R51, R52). -/
theorem awaitSources_ok {s : State} {l : List Reads} (h : Ready s l) : s.awaitSources l = .ok () := by
  unfold State.awaitSources
  have e1 : (l.find? fun r => r.trap && s.empty r.reg) = none := by
    rw [List.find?_eq_none]; intro r hr; simp [(h r hr).1]
  have e2 : (l.findSome? fun r => (s.vreg r.reg).failed) = none := by
    rw [List.findSome?_eq_none_iff]; intro r hr; exact (h r hr).2
  have e3 : (l.any fun r => s.empty r.reg) = false := by
    rw [List.any_eq_false]; intro r hr; simp [(h r hr).1]
  rw [e1, e2]; simp [e3]

/-- A destination that nothing fills is written at once (R52). -/
theorem awaitDest_ok {s : State} {d : VSpec} (h : DestFree s d) : s.awaitDest d = .ok () := by
  unfold State.awaitDest
  rw [if_neg]
  rcases h with h | h
  · simp [h]
  · cases hf : (s.vreg d).failed
    · exact absurd hf h
    · simp

/-! ### The end of a vector instruction (R118) -/

@[simp] theorem active_length (s : State) (m : MaskOf) : (s.active m).length = s.vl := by simp [State.active]

/-- The results of the active elements, without the numbers that the trap reports use. -/
theorem active_results {α : Type} (i : Nat) (l : List α) (act : List Bool) :
    ((((List.range' i act.length).zip l).zip act).filterMap fun x => if x.2 then some x.1 else none).map (·.2) =
      ((l.zip act).filter (·.2)).map (·.1) := by
  induction act generalizing l i with
  | nil => simp
  | cons b rest ih =>
    cases l with
    | nil => simp
    | cons x l =>
      rw [List.length_cons, List.range'_succ]
      cases b
      · simpa using ih (i + 1) l
      · simpa using ih (i + 1) l

/-- No enabled tangent flag. -/
theorem trapDir_none (en : BitVec 4) (l : List Res) (n i : Nat) (h : ∀ j, i ≤ j → j < i + n → dirFlags l j &&& en = 0) :
    trapDir en l i n = none := by
  induction n generalizing i with
  | zero => rfl
  | succ n ih =>
    unfold trapDir
    rw [if_neg (by simp [h i (Nat.le_refl _) (by omega)])]
    exact ih (i + 1) fun j h1 h2 => h j (by omega) (by omega)

theorem fpTrap_ok {s : State} {f : Flags} {a : Nat} (h : f &&& s.fpEnables = 0) : s.fpTrap f a = .ok () := by
  unfold State.fpTrap; rw [if_neg (by simp [h])]

theorem tanTrap_ok {s : State} {n : Nat} {l : List (Nat × Res)} (h : ∀ i, i < n → dirFlags (l.map (·.2)) i &&& s.tanEnables = 0) :
    s.tanTrap n l = .ok () := by
  unfold State.tanTrap; rw [trapDir_none _ _ _ _ fun j _ h2 => h j (by omega)]

/-- The state that an instruction in the frame of R118 leaves before it completes. -/
def committed (s : State) (o : Write) (res : List Res) : State :=
  let act := activeOf s o.mask res
  let old := (s.vreg o.dest).lanes (Fmt.bits o.fmt) s.vl
  let lanes := ((res.map Res.lane).zip (old.zip (s.active o.mask))).map fun x => mergeLane o.mask.zero x.2.2 o.w x.1 x.2.1
  State.pushTo
    ((s.addFlags (joinFlags (act.map (·.fl)))).mapSt fun t =>
      { t with tflags := t.tflags ||| tflagBits act o.w,
               dhealth := t.dhealth ||| spoiled (Fmt.ffmt o.fmt) o.watch (act.map Res.lane) o.w })
    o.dest ((s.under o.dest).write (Tag.of o.fmt o.w) (Fmt.bits o.fmt) o.w lanes)

/-- Without a trap, and with a destination that nothing fills, the end of R118 is reached. -/
theorem commit_ok {s : State} {o : Write} {res : List Res} (hd : DestFree s o.dest) (ht : NoTrap s o.w (activeOf s o.mask res)) :
    s.commit o res = .ok (committed s o res) := by
  have ha := active_results 0 res (s.active o.mask)
  rw [active_length, ← List.range_eq_range'] at ha
  unfold State.commit
  rw [awaitDest_ok hd]
  dsimp only
  generalize hon : ((((List.range s.vl).zip res).zip (s.active o.mask)).filterMap fun x => if x.2 then some x.1 else none) = on at ha ⊢
  have h2 : on.map (·.2) = activeOf s o.mask res := ha
  have hfl : (on.map fun x => x.2.fl) = (activeOf s o.mask res).map (·.fl) := by rw [← h2, List.map_map]; rfl
  have hln : (on.map fun x => Res.lane x.2) = (activeOf s o.mask res).map Res.lane := by rw [← h2, List.map_map]; rfl
  have e1 : s.fpTrap (joinFlags ((activeOf s o.mask res).map fun x => x.fl)) (trapElem s.fpEnables on) = .ok () := fpTrap_ok ht.1
  have e2 : s.tanTrap o.w on = .ok () := tanTrap_ok (by rw [h2]; exact ht.2)
  simp only [hfl, h2, hln]
  rw [e1, e2]
  rfl

theorem pushTo_st (s : State) (d : VSpec) (r : VReg) : (s.pushTo d r).core.sc = s.core.sc := by rw [pushTo_frame]

/-- What an instruction in the frame of R118 has done once it completes. -/
theorem writesV_committed (s : State) (o : Write) (res : List Res) (len : Nat) (hd : o.dest ≠ .l1) (hl : s.vl ≤ res.length) :
    WritesV s ((committed s o res).complete len) o res len := by
  have hv : ∀ q, ((committed s o res).complete len).vreg q = (committed s o res).vreg q := fun q => complete_vreg ..
  have hr := fun q => pushTo_vreg
    ((s.addFlags (joinFlags ((activeOf s o.mask res).map (·.fl)))).mapSt fun t =>
      { t with tflags := t.tflags ||| tflagBits (activeOf s o.mask res) o.w,
               dhealth := t.dhealth ||| spoiled (Fmt.ffmt o.fmt) o.watch ((activeOf s o.mask res).map Res.lane) o.w })
    o.dest q ((s.under o.dest).write (Tag.of o.fmt o.w) (Fmt.bits o.fmt) o.w
      (((res.map Res.lane).zip (((s.vreg o.dest).lanes (Fmt.bits o.fmt) s.vl).zip (s.active o.mask))).map
        fun x => mergeLane o.mask.zero x.2.2 o.w x.1 x.2.1)) hd
  have hst : ((committed s o res).complete len).core.sc.st =
      { s.core.sc.st with
          fcsr := s.st.fcsr ||| ((joinFlags ((activeOf s o.mask res).map (·.fl))).setWidth 13 <<< 3),
          tflags := s.st.tflags ||| tflagBits (activeOf s o.mask res) o.w,
          dhealth := s.st.dhealth ||| spoiled (Fmt.ffmt o.fmt) o.watch ((activeOf s o.mask res).map Res.lane) o.w } := by
    rw [complete_st]; unfold committed; dsimp only; rw [pushTo_st]; rfl
  have hreg : ((committed s o res).complete len).vreg o.dest = (s.under o.dest).write (Tag.of o.fmt o.w) (Fmt.bits o.fmt) o.w
      (((res.map Res.lane).zip (((s.vreg o.dest).lanes (Fmt.bits o.fmt) s.vl).zip (s.active o.mask))).map
        fun x => mergeLane o.mask.zero x.2.2 o.w x.1 x.2.1) := by
    rw [hv]; exact (hr o.dest).trans (by simp)
  have hll : ((s.vreg o.dest).lanes (Fmt.bits o.fmt) s.vl).length = s.vl := by simp [VReg.lanes]
  have hlen : (((res.map Res.lane).zip (((s.vreg o.dest).lanes (Fmt.bits o.fmt) s.vl).zip (s.active o.mask))).map
        fun x => mergeLane o.mask.zero x.2.2 o.w x.1 x.2.1).length = s.vl := by
    simp [hll, hl]
  refine ⟨by rw [hreg]; rfl, by rw [hreg]; rfl, ?_, ?_, ?_, ?_, congrArg StateRegs.fcsr hst, congrArg StateRegs.tflags hst,
    congrArg StateRegs.dhealth hst, ?_, ?_⟩
  · intro e he p hp
    rw [hreg, partOf_write _ _ _ _ _ _ _ hp, dif_pos (by rw [hlen]; exact he)]
    congr 2
    rw [List.getElem_map, List.getElem_zip, List.getElem_zip, List.getElem_map]
    rw [List.getD_eq_getElem _ _ (by simpa using he), List.getD_eq_getElem _ _ (by omega), List.getD_eq_getElem _ _ (by omega)]
  · intro e he p hp
    rw [hreg, partOf_write _ _ _ _ _ _ _ hp, dif_neg (by rw [hlen]; omega)]
  · refine ⟨?_, ?_⟩
    · rw [hreg, hv]; exact (hr .l0).trans (by simp)
    · rw [hv]; exact (hr .l1).trans (by simp [Ne.symm hd]; rfl)
  · intro q h1 h2 h3
    rw [hv]; exact (hr q).trans (by simp [h1, h2, h3]; rfl)
  · refine complete_inSequence s _ len ?_ ?_
    · unfold committed; dsimp only; rw [pushTo_frame]; rfl
    · unfold committed; dsimp only; rw [pushTo_frame]; rfl
  · unfold VecFrame
    rw [complete_vec]
    rw [show ((committed s o res).complete len).st = _ from hst]
    refine complete_frame len ?_
    unfold committed; dsimp only
    conv_lhs => rw [pushTo_frame]
    rfl

end Sys2Proof.Machine
end

