-- ==== Sys2Proof/Tests/Slice0.lean ====
section
/-! SUPPORT. Tests: ill-formed terms that the checks refuse, words of the specification and what they decode to, single steps with results
taken from the specification's text or worked out by hand from it, and for each statement of the certificates a state and operands that
meet its hypotheses. -/

namespace Sys2Proof.Tests

open Machine Claims

/-! ### Ill-formed terms (R63 to R74) -/

theorem test_wf_operand_limits :
    Instr.wf (.sext 1 2 0) = false ∧ Instr.wf (.zext 1 2 65) = false ∧ Instr.wf (.ldI8 1 2 .core .rel 0) = false ∧
    Instr.wf (.ldI8 1 2 .die .wk 0) = false ∧ Instr.wf (.st8 1 2 .core .acq 0) = false ∧ Instr.wf (.st8 1 2 .sys .wk 0) = false ∧
    Instr.wf (.loop 1 0) = false ∧ Instr.wf (.lidx 1 6) = false ∧ Instr.wf (.optWait 65) = false ∧ Instr.wf (.optStat 1 2 3) = false ∧
    Instr.wf (.qFence 0) = false ∧ Instr.wf (.qFenceW 0) = false ∧ Instr.wf (.mcSt 31 1 2 3) = false ∧ Instr.wf (.setshape 12 0) = false ∧
    Instr.wf (.setshape 64 16) = false ∧ Instr.wf (.repf 1 3 0 0 0 7 0) = false ∧ Instr.wf (.repf 1 3 0 0 0 0 0x100) = false := by decide

theorem test_wf_matrix_limits :
    Instr.wf (.mxCfg 0 5 false) = false ∧ Instr.wf (.mxCfg 5 97 false) = false ∧ Instr.wf (.mxZero 6 2) = false ∧ Instr.wf (.mxLdw 1 2 3 .f32) = false ∧
    Instr.wf (.mxStep 0 1 0 0 .f32) = false ∧ Instr.wf (.mxStepf 0 1 0 97 .f32) = false ∧ Instr.wf (.mxWait 17) = false ∧
    Instr.wf (.mxRd .l0 0 false 1) = false := by decide

theorem test_wf_specifiers :
    Instr.wf (.vfadd none .l1 (.v 1) (.vv (.v 2))) = false ∧ Instr.wf (.vfcmp none .lt 0 (.v 1) (.vv (.v 2))) = false ∧
    Instr.wf (.kand none 0 1 2) = false ∧ Instr.wf (.kmovKVector none .l1 2) = false ∧ Instr.wf (.vld none .f32 .l0 1 false false false) = false ∧
    Instr.wf (.vld none .lns6 (.v 1) 1 false false false) = false ∧ Instr.wf (.vld2d none .f32 (.v 1) 1 false false 30 false) = false ∧
    Instr.wf (.vst2d none .f32 (.v 1) 1 false 30 false) = false ∧ Instr.wf (.vrs none 15 50 3 0 false) = false ∧
    Instr.wf (.vsv none 1 63 3 0 false) = false ∧ Instr.wf (.vcvt none .f16 (.v 1) (.v 2) .f16 .rne) = false ∧
    Instr.wf (.vcvt none .lns6 (.v 1) (.v 2) .f16 .rne) = false ∧ Instr.wf (.vsumO none (.v 1) (.v 2) (some 0)) = false ∧
    Instr.wf (.vslideup (some ⟨0, false, false, false, false, none, 0x4000⟩) (.v 1) (.v 2) (.vi 0)) = false ∧ Instr.wf .boot = false := by decide

/-- Prefixes that a class of instruction does not accept (R67, R68, R70): zeroing without a mask, a mask, zeroing, each trap mark, a type
outside the set, an immediate part. -/
theorem test_wf_prefixes :
    Instr.wf (.vfadd (some ⟨0, true, false, false, false, none, 0⟩) (.v 1) (.v 2) (.vv (.v 3))) = false ∧
    Instr.wf (.kand (some ⟨2, false, false, false, false, none, 0⟩) 1 2 3) = false ∧
    Instr.wf (.vcompress (some ⟨2, true, false, false, false, none, 0⟩) (.v 1) (.v 2)) = false ∧
    Instr.wf (.viota (some ⟨0, false, true, false, false, none, 0⟩) (.v 1)) = false ∧
    Instr.wf (.vfadd (some ⟨0, false, false, true, false, none, 0⟩) (.v 1) (.v 2) (.vs 3)) = false ∧
    Instr.wf (.vfadd (some ⟨0, false, false, false, true, none, 0⟩) (.v 1) (.v 2) (.vv (.v 3))) = false ∧
    Instr.wf (.vfadd (some ⟨0, false, false, false, false, some .i32, 0⟩) (.v 1) (.v 2) (.vv (.v 3))) = false ∧
    Instr.wf (.vadd (some ⟨0, false, false, false, false, some .f32, 0⟩) (.v 1) (.v 2) (.vv (.v 3))) = false ∧
    Instr.wf (.kpop (some ⟨0, false, false, false, false, some .f32, 0⟩) 1 2) = false ∧
    Instr.wf (.vfadd (some ⟨0, false, false, false, false, none, 1⟩) (.v 1) (.v 2) (.vv (.v 3))) = false ∧
    Instr.wf (.vld (some ⟨0, true, false, false, 0⟩) .f32 (.v 1) 1 false false false) = false ∧
    Instr.wf (.vsv (some ⟨1, false, false, false, 0⟩) 1 1 3 0 false) = false ∧
    Instr.wf (.vst (some ⟨0, false, true, false, 0⟩) .f32 (.v 1) 1 false false) = false ∧
    Instr.wf (.vld (some ⟨0, false, false, true, 0⟩) .f32 (.v 1) 1 false false false) = false := by decide

/-! ### Words of the specification -/

/-- 07_scalar_and_control: SREG, SIMM, BR, JMP, PRED, SFP. -/
theorem test_decode_scalar :
    decode 0x090E8480 0 = .ok (.mulhN 7 8 9) ∧ decode 0x0E0E8010 0 = .ok (.sext 7 8 16) ∧ decode 0x17392345 0 = .ok (.lui 7 0x12345) ∧
    decode 0x1039C123 0 = .ok (.addi 7 7 0x123) ∧ decode 0x2118FFFF 0 = .ok (.brLt 6 7 0x1FFF) ∧ decode 0x230C0003 0 = .ok (.bpT 3 3) ∧
    decode 0x28100040 0 = .ok (.jal 1 0x40) ∧ decode 0x2A008000 0 = .ok (.jalr 0 1 0) ∧ decode 0x39409000 0 = .ok (.punpk 9) ∧
    decode 0x39820001 0 = .ok (.pset 1 true) ∧ decode 0x30061104 0 = .ok (.fadd 3 1 2 .dyn) ∧ decode 0x33841101 0 = .ok (.fcmp 2 1 2 .lt) := by
  decide

/-- 06_vector_arithmetic and 07: VFP, VFMA, VFUN, VINT, VCMP, VCVT, XLANE, TAN. -/
theorem test_decode_vector :
    decode 0x40408001 0 = .ok (.vfmul none (.v 2) (.v 0) (.vv (.v 1))) ∧ decode 0x44408398 0 = .ok (.vfmul none (.v 2) (.v 7) (.vi 0x18)) ∧
    decode 0x4A410105 0 = .ok (.vfsubd none (.v 4) (.v 2) (.vs 5)) ∧ decode 0x5140C101 0 = .ok (.vfround none (.v 3) (.v 2) .rtz) ∧
    decode 0x5C00C085 0 = .ok (.vadd none (.v 3) (.v 1) (.vi 5)) ∧ decode 0x60048083 0 = .ok (.vfcmp none .lt 2 (.v 1) (.vv (.v 3))) ∧
    decode 0x60C1C100 0 = .ok (.kpop none 7 2) ∧ decode 0x68214204 0 = .ok (.vcvt none .f16 (.v 5) (.v 4) .f32 .dyn) ∧
    decode 0x7400C103 0 = .ok (.vsumO none (.v 3) (.v 2) (some 3)) ∧ decode 0x70A10082 0 = .ok (.vperm none (.v 4) (.v 1) (.v 2)) ∧
    decode 0x73818003 0 = .ok (.vsplat none (.v 6) (.vs 3)) ∧ decode 0x7C414101 0 = .ok (.dget none (.v 5) (.v 2) (.vi 1)) ∧
    decode 0x7A814009 0 = .ok (.dmask none (.v 5) 9) := by decide

/-- 08_memory_access and 13: SMEM, VLD, VST, VAMO, AMO, MRED. -/
theorem test_decode_memory :
    decode 0x18CE5501 0 = .ok (.ldI64 7 5 .die .acq 1) ∧ decode 0x1A926001 0 = .ok (.st32 9 6 .core .wk 1) ∧
    decode 0x82008519 0 = .ok (.vld2d none .f32 (.v 4) 5 false false 12 true) ∧ decode 0x8300C712 0 = .ok (.vldX none .f32 (.v 6) 7 false 9 false) ∧
    decode 0x85F00338 0 = .ok (.vrs none 15 0 3 28 false) ∧ decode 0x88004880 0 = .ok (.vst none .f32 (.v 2) 8 true false) ∧
    decode 0x8C304892 0 = .ok (.vstQ none (.v 2) 8 true 9 false) ∧ decode 0x90021274 0 = .ok (.vamoAdd none 4 9 7 .n32 false) ∧
    decode 0x91074245 0 = .ok (.amoAdd 7 8 9 .i64 .acq .die) ∧ decode 0x9187424F 0 = .ok (.amoCas 7 8 9 .i64 .sc .sys) ∧
    decode 0x98029269 0 = .ok (.mredAdd none 5 9 6 .f32 true) := by decide

/-- 11, 12, 13 and 07: MX, SYNC, LOOP and the `repf` pair. -/
theorem test_decode_engines :
    decode 0xA00C2800 0 = .ok (.mxCfg 48 80 false) ∧ decode 0xA04C3801 0 = .ok (.mxLdw 12 7 0 .f16) ∧ decode 0xA0C00000 0 = .ok .mxCommit ∧
    decode 0xA081F861 0 = .ok (.mxStep 0 15 12 24 .f16) ∧ decode 0xA100C2A0 0 = .ok (.mxRd (.v 3) 0 false 21) ∧
    decode 0xB04C5000 0 = .ok (.barArr 12 10 false) ∧ decode 0xB02A5802 0 = .ok (.barInit 10 11 .pkg) ∧ decode 0xB0BAD80E 0 = .ok (.waita 26 27 .sys .ge) ∧
    decode 0xB8070002 0 = .ok (.loop 7 2) ∧ decode 0xB8480000 0 = .ok (.lidx 8 0) := by decide

/-- 09, 19, 21, 23, 07 and 16: OPT, ITIN, FAB, CLAIM, CFG, SYS. -/
theorem test_decode_system :
    decode 0xD88C4800 0 = .ok (.optRout 12 9) ∧ decode 0xC0253800 0 = .ok (.itBind 5 7) ∧ decode 0xC00B0000 0 = .ok (.mile 11) ∧
    decode 0xD0166B9F 0 = .ok (.mcSt 22 13 14 31) ∧ decode 0xD0205342 0 = .ok (.mcLdr 1 9 20 .add .bf16) ∧
    decode 0xC85BC800 0 = .ok (.clWait 27 25 0) ∧ decode 0xC8390000 0 = .ok (.clObj 25 0) ∧ decode 0xE0220400 0 = .ok (.setshape 8 2) ∧
    decode 0xE0063000 0 = .ok (.setvl 6 6 .w32) ∧ decode 0xE0401FD4 0 = .ok (.vframe (-44)) ∧ decode 0xE81D0040 0 = .ok (.stread 29 0x40) ∧
    decode 0xE8270041 0 = .ok (.stwrite 7 0x41) ∧ decode 0xE9000000 0 = .ok .halt := by decide

/-- 04_words: the prefixed pairs, and the words of R75 that are no instruction. -/
theorem test_decode_prefixes :
    decode 0xFAC00000 0x40014184 = .ok (.vfadd (some ⟨2, true, true, false, false, none, 0⟩) (.v 5) (.v 3) (.vv (.v 4))) ∧
    decode 0xF8088000 0x40014184 = .ok (.vfadd (some ⟨0, false, false, false, false, some .f16, 0⟩) (.v 5) (.v 3) (.vv (.v 4))) ∧
    decode 0xF8002164 0x44408380 = .ok (.vfmul (some ⟨0, false, false, false, false, none, 0x2164⟩) (.v 2) (.v 7) (.vi 0)) ∧
    needsSecond 0xFAC00000 = true ∧ decode 0 0 = .illegal 0x01 [] ∧ (∃ l, decode 0x46408001 0 = .illegal 0x02 l) ∧
    (∃ l, decode 0x40408052 0 = .illegal 0x03 l) ∧ (∃ l, decode 0x40544001 0 = .illegal 0x03 l) ∧
    (∃ l, decode 0xF80B0000 0x40408001 = .illegal 0x06 l) ∧ (∃ l, decode 0xF8000000 0xF8000000 = .illegal 0x05 l) := by
  refine ⟨by decide, by decide, by decide, by decide, by decide, ⟨_, rfl⟩, ⟨_, rfl⟩, ⟨_, rfl⟩, ⟨_, rfl⟩, ⟨_, rfl⟩⟩

set_option Elab.async false

/-! ### The hypotheses of the statements can be met

Each theorem below applies a statement to a state and operands written out here; every hypothesis of the statement is discharged by
evaluation, so that they hold together. -/

/-- The outcome is a next state: what is left of a statement's conclusion. -/
theorem of_next {r : Host.Outcome State Fault Refusal} {P : State → Prop} (h : ∃ t, r = .next t ∧ P t) : Completes r :=
  h.imp fun _ h => h.1

theorem of_eq {r : Host.Outcome State Fault Refusal} {t : State} (h : r = .next t) : Completes r := ⟨t, h⟩

/-- A cached leaf of level 0: the page of `va` at the physical address `pa` with rights and tier. -/
def page (va pa : Nat) : TlbEntry := ⟨va, 16, BitVec.ofNat 64 (pa + 0x1E3)⟩

/-- A thread of handle 5 in user mode, which owns the vector state; pages 1 and 2 lie in HBM, page 3 in the second tier, page 4 in the
window of token 5; `f` and `v` registers hold FP32 numbers, `v6` integers, and `v7` is bundled with one tangent; `vl` is 2. -/
def user : State :=
  let s := State.reset.mapCore fun c => { c with
    tlb := [page 0x10000 0x20000, page 0x20000 0x30000, ⟨0x30000, 16, 0x401EB⟩, ⟨0x40000, 16, 0x00500000000003E3⟩],
    run := .running, me := { c.me with handle := 5, image := 77 }, sup := { c.sup with mode := .user, vown := 77 } }
  let s := s.mapSc fun c => { c with pc := 0x10100, f := Vector.replicate 32 ⟨Tag.of .f32 0, 0x3F800000, []⟩ }
  let s := s.mapVec fun c => { c with vl := 2, shapeK := 1, v := Vector.ofFn fun i =>
    { tag := if i.val = 6 then Tag.of .i32 0 else if i.val = 7 then Tag.of .f32 1 else Tag.of .f32 0,
      planes := if i.val = 6 then [16] else [0x400000003F800000, 0x3F8000003F800000], failed := none } }
  { s with mem := { s.mem with allots := [⟨7, 5, 0, 0, 0x400, 0, 0, 0, []⟩] }, fab := { s.fab with tokens := [(5, ⟨3, 2, 77⟩)] } }

/-- R149, R150, R139, R144: each condition and a target that is misaligned. -/
theorem hyp_scalar (h1 : Obligations.BranchesAndJumps) (h2 : Obligations.ScalarArithmetic) :
    Completes (exec (.brLt 1 2 0x1FFF) user) ∧ Completes (exec (.bpF 3 1) user) ∧ Completes (exec (.jalr 1 1 0) user) ∧
    Completes (exec (.jalr 1 1 1) (user.setX 1 2)) ∧ Completes (exec (.divI 0 2 3) user) ∧ Completes (exec (.pxor 7 1 2) user) :=
  ⟨of_next (h1.1 user (.brLt 1 2 0x1FFF) _ _ rfl), of_next (h1.1 user (.bpF 3 1) _ _ rfl),
   of_next (((h1.2 user 1 1).2 0).1 (by decide +kernel)),
   (((h1.2 (user.setX 1 2) 1 1).2 1).2 (by decide +kernel)).elim fun _ h => of_eq h.2.2.2,
   of_next (h2.1 user (.divI 0 2 3) _ _ rfl), of_next (h2.2 user (.pxor 7 1 2) _ _ rfl)⟩

/-- R154: an innermost loop that ends here with two repetitions left, with one, and one that ends elsewhere. -/
theorem hyp_loops (h : Obligations.LoopsRepeatAtTheirEnd) :
    let e : LoopEntry := { kind := .loop, start := 0x100, last := 0x108, remaining := 2, index := 0 }
    State.loopBack 0x108 [e] = ([{ e with remaining := e.remaining - 1, index := e.index + 1 }], some 0x100) ∧
    State.loopBack 0x108 [{ e with remaining := 1 }] = State.loopBack 0x108 [] ∧ State.loopBack 0x10C [e] = ([e], none) :=
  ⟨(h _ _ _).2.1 rfl rfl (by decide), (h _ _ _).2.2.1 rfl rfl (by decide), (h _ _ _).2.2.2.1 (.inr (by decide))⟩

/-- R169: a load and a store in HBM, in the thread's scratchpad, and in a fabric window with and without a token; a release. -/
theorem hyp_access (h1 : Obligations.ScalarLoads) (h2 : Obligations.ScalarStores) :
    let s := user.setX 1 0x10010
    let p := user.setX 1 (BitVec.ofNat 64 localBase)
    let f := user.setX 1 0x40010
    Completes (exec (.ldI32 2 1 .core .wk 0) s) ∧ Completes (exec (.ldN16 0 1 .core .wk (-2)) s) ∧ Completes (exec (.ldI64 2 1 .pkg .acq 0) p) ∧
    Completes (exec (.ldI8 2 1 .core .wk 0) f) ∧ Completes (exec (.st64 2 1 .pkg .rel 0) s) ∧ Completes (exec (.st8 2 1 .core .wk 63) p) ∧
    Completes (exec (.st32 2 1 .core .wk 0) f) ∧ Completes (exec (.st32 2 1 .core .wk 0) { f with fab := { f.fab with tokens := [] } }) :=
  ⟨of_next (h1.1 _ (.ldI32 2 1 .core .wk 0) _ _ _ _ _ _ _ (.hbm 0x20010) 0 rfl (by decide +kernel) rfl (by decide +kernel) (by decide +kernel)
     (by decide +kernel) (by decide) (by unfold Stored; decide +kernel)),
   of_next (h1.1 _ (.ldN16 0 1 .core .wk (-2)) _ _ _ _ _ _ _ (.hbm 0x2000C) 0 rfl (by decide +kernel) rfl (by decide +kernel) (by decide +kernel)
     (by decide +kernel) (by decide) (by unfold Stored; decide +kernel)),
   of_next (h1.1 _ (.ldI64 2 1 .pkg .acq 0) _ _ _ _ _ _ _ (.spad 0x700000) 0 rfl (by decide +kernel) rfl (by decide +kernel) (by decide +kernel)
     (by decide +kernel) (by decide) (by unfold Stored; decide +kernel)),
   (h1.2 _ (.ldI8 2 1 .core .wk 0) _ _ _ _ _ _ _ 5 0x40010 ⟨3, 2, 77⟩ rfl (by decide +kernel) (by decide +kernel) (by decide +kernel)).imp
     fun _ h => h.elim fun _ h => h.1,
   of_next (h2.1 _ (.st64 2 1 .pkg .rel 0) _ _ _ _ _ _ (.hbm 0x20010) (by decide +kernel) rfl (by decide +kernel) rfl (by decide +kernel)
     (by decide +kernel)),
   of_next (h2.1 _ (.st8 2 1 .core .wk 63) _ _ _ _ _ _ (.spad 0x70003F) (by decide +kernel) rfl (by decide +kernel) rfl (by decide +kernel)
     (by decide +kernel)),
   ((h2.2 _ (.st32 2 1 .core .wk 0) _ _ _ _ _ _ 5 0x40010 rfl (by decide +kernel) (by decide +kernel)).1 ⟨3, 2, 77⟩ (by decide +kernel)).imp
     fun _ h => h.elim fun _ h => h.1,
   of_eq ((h2.2 _ (.st32 2 1 .core .wk 0) _ _ _ _ _ _ 5 0x40010 rfl (by decide +kernel) (by decide +kernel)).2 (by decide +kernel))⟩

/-- R168, R169: misaligned, unmapped, reserved address bits, a page of the second tier. -/
theorem hyp_access_faults (h : Obligations.ScalarAccessFaults) :
    Completes (exec (.ldI64 2 1 .core .wk 0) (user.setX 1 0x10004)) ∧ Completes (exec (.st8 2 1 .core .wk 0) (user.setX 1 0x90000)) ∧
    Completes (exec (.ldI8 2 1 .core .wk 0) (user.setX 1 0xFFF0000000000000)) ∧ Completes (exec (.ldI8 2 1 .core .wk 0) (user.setX 1 0x30000)) := by
  have l (x : Word) := h (user.setX 1 x) (.ldI8 2 1 .core .wk 0) 2 1 _ .wk 0 1 .load (.inl ⟨true, rfl, rfl⟩) (by intro; contradiction)
  exact ⟨of_eq ((h (user.setX 1 0x10004) (.ldI64 2 1 .core .wk 0) 2 1 _ .wk 0 8 .load (.inl ⟨true, rfl, rfl⟩) (by intro; contradiction)).1 (by decide +kernel)),
    of_eq ((h (user.setX 1 0x90000) (.st8 2 1 .core .wk 0) 2 1 _ .wk 0 1 .store (.inr ⟨rfl, rfl⟩) (by intro; contradiction)).2 _ (by decide +kernel) (by decide +kernel : Machine.locate _ _ _ _ _ _ = .error ⟨0x07, 0x31, 0x90000, 0⟩)),
    of_eq ((l 0xFFF0000000000000).2 _ (by decide +kernel) (by decide +kernel : Machine.locate _ _ _ _ _ _ = .error ⟨0x07, 0x03, 0xFFF0000000000000, 0⟩)),
    of_eq ((l 0x30000).2 _ (by decide +kernel) (by decide +kernel : Machine.locate _ _ _ _ _ _ = .error ⟨0x09, 0x01, 0x30000, 0⟩))⟩

/-- A prefix that names mask 1 with zeroing, and traps a void a. -/
def masked : Option VPfx := some ⟨1, true, true, false, false, none, 0⟩

/-- A prefix with a type. -/
def typed (t : ETy) : Option VPfx := some ⟨0, false, false, false, false, some t, 0⟩

/-- R141 to R143: unbundled, and with a tangent in one source; conversions, a comparison of numbers. -/
theorem hyp_scalar_float (h1 : Obligations.ScalarFloatArithmetic) (h2 : Obligations.ScalarFloatMovesAndComparisons) :
    let t := user.setF 4 ⟨Tag.of .f32 1, 0x40000000, [0x3F800000]⟩
    Completes (exec (.fadd 3 1 2 .dyn) user) ∧ Completes (exec (.fmacc 3 4 2 .rne) t) ∧ Completes (exec (.fsqrt 3 4 .dyn) t) ∧
    Completes (exec (.fcvtFX 3 1 .i32 .dyn) user) ∧ Completes (exec (.fmovX 3 1) user) ∧ Completes (exec (.fclass 3 4) t) ∧
    Completes (exec (.fcvtXF 3 1 .n64 .rtz) user) ∧ Completes (exec (.fcmp 3 1 4 .le) t) :=
  ⟨of_next (h1.1 _ (.fadd 3 1 2 .dyn) _ _ _ _ _ _ _ 0 rfl (by decide +kernel) (by decide +kernel)),
   of_next (h1.1 _ (.fmacc 3 4 2 .rne) _ _ _ _ _ _ _ 1 rfl (by decide +kernel) (by decide +kernel)),
   of_next (h1.1 _ (.fsqrt 3 4 .dyn) _ _ _ _ _ _ _ 1 rfl (by decide +kernel) (by decide +kernel)),
   of_next ((h2.1 _ 3 1).2.1 .i32 .dyn (by decide +kernel)), of_next ((h2.1 _ 3 1).2.2.1 (by decide +kernel)),
   of_next ((h2.1 _ 3 4).2.2.2.1 (by decide +kernel)), of_next ((h2.1 _ 3 1).2.2.2.2 .n64 .rtz (by decide +kernel) (by decide +kernel)),
   of_next (h2.2 _ 3 1 4 .le 1 (by decide +kernel) (by decide +kernel))⟩

/-- Every trap is enabled; `f4` and `f5` have infinite tangents of different signs, `f6` is 0, `f7` a signalling NaN, `f8` is void. -/
def trapping : State :=
  ((((((user.setF 4 ⟨Tag.of .f32 1, 0x3F800000, [0x7F800000]⟩).setF 5 ⟨Tag.of .f32 1, 0x3F800000, [0xFF800000]⟩).setF 6 ⟨Tag.of .f32 0, 0, []⟩).setF 7
    ⟨Tag.of .f32 0, 0x7F800001, []⟩).setF 8 ⟨Tag.of .void 0, 0, []⟩).setX 1 0x1000001).mapSt fun t => { t with fcsr := 0x1F00, tctl := 0xF }

/-- R142: a void source; a division by 0; tangents of different signs; a comparison, a conversion each way, and a void source of a move. -/
theorem hyp_scalar_float_traps (h : Obligations.ScalarFloatArithmetic) :
    Completes (exec (.fadd 3 8 1 .dyn) trapping) ∧ Completes (exec (.fdiv 3 1 6 .dyn) trapping) ∧ Completes (exec (.fadd 3 4 5 .dyn) trapping) ∧
    Completes (exec (.fcmp 2 8 1 .lt) trapping) ∧ Completes (exec (.fcmp 2 7 1 .eq) trapping) ∧ Completes (exec (.fcvtFX 3 1 .i32 .rne) trapping) ∧
    Completes (exec (.fcvtXF 3 7 .i32 .rne) trapping) ∧ Completes (exec (.fclass 3 8) trapping) := by
  obtain ⟨h1, h2, h3⟩ := h.2 trapping
  exact ⟨of_eq ((h1 (.fadd 3 8 1 .dyn) _ _ _ _ _ _ _ rfl).1 _ (.inl ⟨0, _, 3, rfl, by decide +kernel, fun _ _ h => absurd h (by omega), rfl⟩)),
    of_eq (((h1 (.fdiv 3 1 6 .dyn) _ _ _ _ _ _ _ rfl).2 0 (by decide +kernel)).1 (by decide +kernel)),
    of_eq (((h1 (.fadd 3 4 5 .dyn) _ _ _ _ _ _ _ rfl).2 1 (by decide +kernel)).2 (by decide +kernel) _
      ⟨0, 0, _, by omega, fun _ h => absurd h (by omega), List.find?_cons_of_pos (by decide +kernel), rfl⟩),
    of_eq ((h2 2 8 1 .lt).1 _ (.inl ⟨0, _, 3, rfl, by decide +kernel, fun _ _ h => absurd h (by omega), rfl⟩)),
    of_eq ((h2 2 7 1 .eq).2 0 (by decide +kernel) (by decide +kernel)), of_eq ((h3 3 1 .i32 .rne).1 (by decide +kernel)),
    of_eq ((h3 3 7 .i32 .rne).2.1 (by decide +kernel) (by decide +kernel)),
    of_eq ((h3 3 8 .i32 .rne).2.2 (by decide +kernel) _ (.inr (.inr rfl)))⟩

/-- What is found first among numbered results. -/
theorem find_numbered {l : List (Nat × Res)} {p : Nat × Res → Bool} {n : Nat} (h : (l.find? p).map (·.1) = some n) : ∃ r, l.find? p = some (n, r) := by
  cases hx : l.find? p with
  | none => simp [hx] at h
  | some x => exact ⟨x.2, by simp [hx] at h; simp [← h]⟩

/-- R47, R51, R92, R109 of vector instructions: a void source, a trap-marked empty one, a division by 0, and tangents of different signs. -/
theorem hyp_vector_traps (h : Obligations.VectorChecksAndTraps) :
    let t := (trapping.setVreg (.v 3) ⟨Tag.of .void 0, [], none⟩).setVreg (.v 4) { user.vreg (.v 4) with tag := { Tag.of .f32 0 with full := false } }
    let u := trapping.setVreg (.v 3) ⟨Tag.of .f32 1, [0, 0x7F8000007F800000], none⟩
    Completes (exec (.vfmul none (.v 1) (.v 3) (.vs 1)) t) ∧ Completes (exec (.vfmul masked (.v 1) (.v 4) (.vs 1)) t) ∧
    Completes (exec (.vfdiv none (.v 1) (.v 2) (.vs 6)) trapping) ∧ Completes (exec (.vfadd none (.v 1) (.v 3) (.vs 5)) u) :=
  ⟨of_eq ((h _ (.vfmul none (.v 1) (.v 3) (.vs 1)) _ _ _ (by decide) rfl trivial (by decide +kernel)).1 _
      (.inl ⟨0, _, 3, rfl, by decide +kernel, fun _ _ h => absurd h (by omega), rfl⟩)),
   of_eq (((h _ (.vfmul masked (.v 1) (.v 4) (.vs 1)) _ _ _ (by decide) rfl trivial (by decide +kernel)).2 0 (by decide +kernel)).1 ⟨.v 4, true, 1⟩
      (by decide +kernel)),
   (find_numbered (n := 0) (by decide +kernel)).elim fun _ hr => of_eq ((((h _ (.vfdiv none (.v 1) (.v 2) (.vs 6)) _ _ _ (by decide) rfl trivial
      (by decide +kernel)).2 0 (by decide +kernel)).2 (by decide +kernel) (by decide +kernel) (by decide) _ _ rfl).1 0 _ hr),
   (find_numbered (n := 0) (by decide +kernel)).elim fun _ hr => of_eq ((((h _ (.vfadd none (.v 1) (.v 3) (.vs 5)) _ _ _ (by decide) rfl trivial
      (by decide +kernel)).2 1 (by decide +kernel)).2 (by decide +kernel) (by decide +kernel) (by decide) _ _ rfl).2 (by decide +kernel) _
      ⟨0, 0, _, by decide, fun _ h => absurd h (by omega), hr, rfl⟩)⟩

/-- R121 to R127: registers and a bundled source, an `f` register, an immediate; masked; an `o` destination; a function; conversions. -/
theorem hyp_vector_float (h1 : Obligations.VectorFloatArithmetic) (h3 : Obligations.VectorConversions) :
    Completes (exec (.vfadd none (.v 1) (.v 2) (.vv (.v 7))) user) ∧ Completes (exec (.vfmul masked (.o 1) (.v 2) (.vs 3)) user) ∧
    Completes (exec (.vfaddp none (.v 1) (.l0) (.vi 0x18)) (user.setVreg .l0 (user.vreg (.v 2)))) ∧
    Completes (exec (.vfneg none (.v 1) (.v 7)) user) ∧ Completes (exec (.vcvt none .f16 (.v 5) (.v 7) .f32 .dyn) user) ∧
    Completes (exec (.vcvt none .f32 (.v 5) (.v 6) .i32 .rtz) user) := by
  refine ⟨of_next (h1.1 _ (.vfadd none (.v 1) (.v 2) (.vv (.v 7))) _ _ _ _ _ _ 1 (by decide) rfl ?_ ?_ ?_ ?_ ?_),
    of_next (h1.1 _ (.vfmul masked (.o 1) (.v 2) (.vs 3)) _ _ _ _ _ _ 0 (by decide) rfl ?_ ?_ ?_ ?_ ?_),
    of_next (h1.1 _ (.vfaddp none (.v 1) (.l0) (.vi 0x18)) _ _ _ _ _ _ 0 (by decide) rfl ?_ ?_ ?_ ?_ ?_),
    of_next (h1.2 _ (.vfneg none (.v 1) (.v 7)) _ _ _ _ _ 1 (by decide) rfl ?_ ?_ ?_ ?_ ?_),
    of_next (h3 _ none .f16 (.v 5) (.v 7) .f32 .dyn 1 (by decide) ?_ ?_ ?_ ?_ ?_),
    of_next (h3 _ none .f32 (.v 5) (.v 6) .i32 .rtz 0 (by decide) ?_ ?_ ?_ ?_ ?_)⟩ <;> decide +kernel

/-- R145 to R147: integers, `viota`, comparisons, and the mask instructions. -/
theorem hyp_vector_integer (h1 : Obligations.VectorIntegerArithmetic) (h2 : Obligations.VectorComparisonsAndMasks) :
    Completes (exec (.vmulh none (.v 1) (.v 6) (.vs 2)) user) ∧ Completes (exec (.viota (some ⟨1, true, false, false, false, none, 0⟩) (.v 1)) user) ∧
    Completes (exec (.vfcmp none .lt 1 (.v 7) (.vs 2)) user) ∧ Completes (exec (.vcmp masked .ge 2 (.v 6) (.vi 5)) user) ∧
    Completes (exec (.kand none 1 2 3) user) ∧ Completes (exec (.kfirst none 5 2) user) ∧
    Completes (exec (.kmovKMask none 1 (.v 3)) (user.setVreg (.v 3) ⟨Tag.of .mask 0, [3], none⟩)) ∧
    Completes (exec (.kmovKVector none (.v 3) 1) user) := by
  refine ⟨of_next (h1.1 _ (.vmulh none (.v 1) (.v 6) (.vs 2)) _ _ _ _ _ 0 (by decide) rfl ?_ ?_ ?_ ?_),
    of_next (h1.2 _ (some ⟨1, true, false, false, false, none, 0⟩) (.v 1) 0 (by decide) ?_ ?_ ?_ ?_),
    of_next ((h2.1 _ none 1 (.v 7) (.vs 2) 1).1 .lt (by decide) ?_ ?_ ?_ ?_),
    of_next ((h2.1 _ masked 2 (.v 6) (.vi 5) 0).2 .ge (by decide) ?_ ?_ ?_), of_next ((h2.2 _).1 (.kand none 1 2 3) _ _ _ (by decide) rfl ?_),
    of_next ((h2.2 _).2.1 (.kfirst none 5 2) _ _ _ (by decide) rfl ?_ ?_), of_next ((h2.2 _).2.2.1 none 1 (.v 3) (by decide) ?_ ?_ ?_),
    of_next ((h2.2 _).2.2.2 none (.v 3) 1 (by decide) ?_ ?_ ?_)⟩ <;> decide +kernel

/-- R130 to R132: a reduction in segments of 8 and of all elements, a scan, and the moves. -/
theorem hyp_lanes (h1 : Obligations.VectorReductionsAndScan) (h2 : Obligations.VectorMoves) :
    Completes (exec (.vsumO none (.v 1) (.v 7) (some 3)) user) ∧ Completes (exec (.vmaxr none (.v 1) (.v 2) none) user) ∧
    Completes (exec (.vscanO none (.v 1) (.v 7) none) user) ∧ Completes (exec (.vperm none (.v 1) (.v 7) (.v 6)) user) ∧
    Completes (exec (.vcompress none (.v 1) (.v 7)) user) ∧ Completes (exec (.vslideup masked (.v 1) (.v 7) (.vi 1)) user) ∧
    Completes (exec (.vsplat none (.v 1) (.vs 3)) user) ∧ Completes (exec (.vsplat (typed .i32) (.v 1) (.vi 3)) user) := by
  refine ⟨of_next (h1.1 _ (.vsumO none (.v 1) (.v 7) (some 3)) _ _ _ _ _ 1 (by decide) rfl ?_ ?_ ?_ ?_ ?_ ?_),
    of_next (h1.1 _ (.vmaxr none (.v 1) (.v 2) none) _ _ _ _ _ 0 (by decide) rfl ?_ ?_ ?_ ?_ ?_ ?_),
    of_next (h1.2 _ none (.v 1) (.v 7) none 1 (by decide) ?_ ?_ ?_ ?_ ?_ ?_),
    of_next (h2.1 _ (.vperm none (.v 1) (.v 7) (.v 6)) _ _ _ _ _ _ _ _ 1 (by decide) rfl ?_ ?_ ?_ ?_ ?_),
    of_next (h2.1 _ (.vcompress none (.v 1) (.v 7)) _ _ _ _ _ _ _ _ 1 (by decide) rfl ?_ ?_ ?_ ?_ ?_),
    of_next (h2.1 _ (.vslideup masked (.v 1) (.v 7) (.vi 1)) _ _ _ _ _ _ _ _ 1 (by decide) rfl ?_ ?_ ?_ ?_ ?_),
    of_next (h2.2 _ none (.v 1) (.vs 3) 0 (by decide) ?_ ?_ ?_ ?_ ?_),
    of_next (h2.2 _ (typed .i32) (.v 1) (.vi 3) 0 (by decide) ?_ ?_ ?_ ?_ ?_)⟩ <;> decide +kernel

/-- R134 to R138: a seed, a plane read at the last width, one written, and a mask of planes. -/
theorem hyp_tangents (h : Obligations.TangentInstructions) :
    Completes (exec (.dseedRad none (.v 1) 2) user) ∧ Completes (exec (.dget none (.v 1) (.v 7) (.vi 0)) user) ∧
    Completes (exec (.dput none (.v 1) (.v 2) (.vi 0)) user) ∧ Completes (exec (.dzero none (.v 1) (.v 7)) user) ∧
    Completes (exec (.dmask none (.v 7) 2) user) := by
  refine ⟨of_next (h _ (.dseedRad none (.v 1) 2) _ 0 (by decide) rfl trivial ?_ ?_ ?_ ?_),
    of_next (h _ (.dget none (.v 1) (.v 7) (.vi 0)) _ 1 (by decide) rfl (by show _ < _; decide +kernel) ?_ ?_ ?_ ?_),
    of_next (h _ (.dput none (.v 1) (.v 2) (.vi 0)) _ 0 (by decide) rfl (by show _ < _; decide +kernel) ?_ ?_ ?_ ?_),
    of_next (h _ (.dzero none (.v 1) (.v 7)) _ 1 (by decide) rfl trivial ?_ ?_ ?_ ?_),
    of_next (h _ (.dmask none (.v 7) 2) _ 1 (by decide) rfl trivial ?_ ?_ ?_ ?_)⟩ <;> decide +kernel

/-- `user` with a base address in `x8`. -/
abbrev based (b : Nat) : State := user.setX 8 (BitVec.ofNat 64 b)

/-- Where an element's plane lies, in a state in which it translates. -/
def spot (s : State) (m : AddrMode) (b : Word) (w : Nat) (a : Access) (e pl : Nat) : Loc :=
  match Machine.locate s.part s.mem s.space (spotAddr s m b w e pl) w a with
  | .ok l => l
  | .error _ => .hbm 0

/-- What `SpotAt` asks of a place. -/
def spotOk (s : State) (m : AddrMode) (b : Word) (w : Nat) (a : Access) (e pl : Nat) (l : Loc) : Bool :=
  decide (Machine.locate s.part s.mem s.space (spotAddr s m b w e pl) w a = .ok l) && !s.chained l w &&
    decide (raceCheck s.part s.mem (s.agent false .core) (a == .store) l w (spotAddr s m b w e pl) = .ok ()) &&
    match l with | .fabric win _ => (s.token win).isSome | _ => true

theorem spotsAt_of {s : State} {m : AddrMode} {k : MaskOf} {b : Word} {w planes : Nat} {a : Access} {on : Nat → Prop} {at' : Nat → Nat → Loc}
    (h : ∀ e, e < s.vl → on e → ∀ pl, pl ≤ planes → spotOk s m b w a e pl (at' e pl) = true) : SpotsAt s m k b w planes a on at' := by
  intro e he _ ho pl hp
  have := h e he ho pl hp
  simp only [spotOk, Bool.and_eq_true, decide_eq_true_eq, Bool.not_eq_true'] at this
  obtain ⟨⟨⟨h1, h2⟩, h3⟩, h4⟩ := this
  exact ⟨h1, h2, h3, fun win va h => by rw [h] at h4; exact h4⟩

/-- R170 to R175: unit, two-dimensional into a scratchpad, and indexed loads; a bundled load in HBM; a fabric window. -/
theorem hyp_vector_loads (h : Obligations.VectorLoads) :
    Completes (exec (.vld none .f32 (.v 7) 8 true false false) (based 0x10010)) ∧
    Completes (exec (.vldX none .f32 (.v 1) 8 false 6 false) (based 0x10010)) ∧
    Completes (exec (.vldS none .i8 (.v 1) 8 false true 0 false) (based localBase)) ∧
    Completes (exec (.vld none .f32 (.v 1) 8 false false false) (based 0x40010)) := by
  refine ⟨of_next (h _ (.vld none .f32 (.v 7) 8 true false false) _ _ _ _ _ _ _ _ (spot (based 0x10010) .unit 0x10010 4 .load) (by decide) rfl
      ?_ ?_ ?_ ?_ ?_ (by unfold SpotsAligned; decide +kernel) (spotsAt_of ?_) ?_),
    of_next (h _ (.vldX none .f32 (.v 1) 8 false 6 false) _ _ _ _ _ _ _ _ (spot (based 0x10010) (.indexed 6) 0x10010 4 .load) (by decide) rfl
      ?_ ?_ ?_ ?_ ?_ (by unfold SpotsAligned; decide +kernel) (spotsAt_of ?_) ?_),
    of_next (h _ (.vldS none .i8 (.v 1) 8 false true 0 false) _ _ _ _ _ _ _ _ (spot (based localBase) (.strided 0) (BitVec.ofNat 64 localBase) 1 .load) (by decide) rfl
      ?_ ?_ ?_ ?_ ?_ (by unfold SpotsAligned; decide +kernel) (spotsAt_of ?_) ?_),
    of_next (h _ (.vld none .f32 (.v 1) 8 false false false) _ _ _ _ _ _ _ _ (spot (based 0x40010) .unit 0x40010 4 .load) (by decide) rfl
      ?_ ?_ ?_ ?_ ?_ (by unfold SpotsAligned; decide +kernel) (spotsAt_of ?_) ?_)⟩ <;> decide +kernel

/-- R176: the page of element 1 lies in the second tier; that of element 0 does, without and with `.ff`. -/
theorem hyp_vector_load_faults (h : Obligations.VectorAccessesStopAtAFault) :
    Completes (exec (.vld none .f32 (.v 1) 8 false false false) (based 0x2FFFC)) ∧
    Completes (exec (.vld none .f32 (.v 1) 8 false false false) (based 0x30000)) ∧
    Completes (exec (.vld none .f32 (.v 1) 8 false true false) (based 0x30000)) := by
  refine ⟨of_next ((h.1 _ (.vld none .f32 (.v 1) 8 false false false) _ _ _ _ _ _ _ _ (spot (based 0x2FFFC) .unit 0x2FFFC 4 .load) 1 0
      ⟨0x09, 0x01, 0x30000, 0⟩ (by decide) rfl ?_ ?_ ?_ ?_ ?_ (by unfold SpotsAligned; decide +kernel) (spotsAt_of ?_) ?_ ?_ ?_ ?_ nofun ?_ rfl).2.2 ?_),
    of_eq ((h.1 _ (.vld none .f32 (.v 1) 8 false false false) _ _ _ _ _ _ _ _ (spot (based 0x30000) .unit 0x30000 4 .load) 0 0
      ⟨0x09, 0x01, 0x30000, 0⟩ (by decide) rfl ?_ ?_ ?_ ?_ ?_ (by unfold SpotsAligned; decide +kernel) (spotsAt_of ?_) ?_ ?_ ?_ ?_ nofun ?_ rfl).1 rfl rfl),
    of_next ((h.1 _ (.vld none .f32 (.v 1) 8 false true false) _ _ _ _ _ _ _ _ (spot (based 0x30000) .unit 0x30000 4 .load) 0 0
      ⟨0x09, 0x01, 0x30000, 0⟩ (by decide) rfl ?_ ?_ ?_ ?_ ?_ (by unfold SpotsAligned; decide +kernel) (spotsAt_of ?_) ?_ ?_ ?_ ?_ nofun ?_ rfl).2.1 rfl rfl)⟩ <;> decide +kernel

/-- A store that goes on at element 1. -/
abbrev later : State := (based 0x10010).mapVec fun c => { c with vstart := 1 }

/-- Element 1 of an indexed access lies in page 3. -/
abbrev farIndex : State := (based 0x20000).setVreg (.v 6) ⟨Tag.of .i32 0, [0x0001000000000010], none⟩

/-- R170, R173, R177: a bundled store from `vstart` 1, an indexed one that ignores it, a fabric window; faults of element 1 in both modes. -/
theorem hyp_vector_stores (h : Obligations.VectorStores) (h2 : Obligations.VectorAccessesStopAtAFault) :
    Completes (exec (.vst none .f32 (.v 7) 8 true false) later) ∧ Completes (exec (.vstX none .f32 (.v 1) 8 false 6 false) later) ∧
    Completes (exec (.vst none .f32 (.v 1) 8 false false) (based 0x40010)) ∧ Completes (exec (.vst none .f32 (.v 1) 8 false false) (based 0x2FFFC)) ∧
    Completes (exec (.vstX none .f32 (.v 1) 8 false 6 false) farIndex) := by
  refine ⟨of_next (h _ (.vst none .f32 (.v 7) 8 true false) _ _ _ _ _ _ _ (spot later .unit 0x10010 4 .store) ?_ (by decide) rfl
      ?_ ?_ ?_ ?_ (by unfold SpotsAligned; decide +kernel) (spotsAt_of ?_)),
    of_next (h _ (.vstX none .f32 (.v 1) 8 false 6 false) _ _ _ _ _ _ _ (spot later (.indexed 6) 0x10010 4 .store) ?_ (by decide) rfl
      ?_ ?_ ?_ ?_ (by unfold SpotsAligned; decide +kernel) (spotsAt_of ?_)),
    of_next (h _ (.vst none .f32 (.v 1) 8 false false) _ _ _ _ _ _ _ (spot (based 0x40010) .unit 0x40010 4 .store) ?_ (by decide) rfl
      ?_ ?_ ?_ ?_ (by unfold SpotsAligned; decide +kernel) (spotsAt_of ?_)),
    (h2.2 _ (.vst none .f32 (.v 1) 8 false false) _ _ _ _ _ _ _ (spot (based 0x2FFFC) .unit 0x2FFFC 4 .store) 1 0 ⟨0x09, 0x01, 0x30000, 0⟩ ?_ (by decide) rfl
      ?_ ?_ ?_ ?_ (by unfold SpotsAligned; decide +kernel) (spotsAt_of ?_) ?_ ?_ ?_ ?_ nofun ?_ rfl).elim fun _ h => of_eq h.1,
    (h2.2 _ (.vstX none .f32 (.v 1) 8 false 6 false) _ _ _ _ _ _ _ (spot farIndex (.indexed 6) 0x20000 4 .store) 1 0 ⟨0x09, 0x01, 0x30000, 0⟩ ?_ (by decide) rfl
      ?_ ?_ ?_ ?_ (by unfold SpotsAligned; decide +kernel) (spotsAt_of ?_) ?_ ?_ ?_ ?_ nofun ?_ rfl).elim fun _ h => of_eq h.1⟩ <;> decide +kernel

/-- What `PartAt` asks of a place. -/
def partOk (s : State) (b x : Word) (k : Access) (n j : Nat) (l : Loc) : Bool :=
  let q := blockPart b x n j
  decide (Machine.locate s.part s.mem s.space q.1 q.2 k = .ok l) && !s.chained l q.2 &&
    decide (raceCheck s.part s.mem (s.agent false .core) (k == .store) l q.2 q.1 = .ok ()) &&
    match l with | .fabric win _ => (s.token win).isSome | _ => true

theorem partAt_of {s : State} {b x : Word} {k : Access} {n j : Nat} {l : Loc} (h : partOk s b x k n j l = true) : PartAt s b x k n j l := by
  simp only [partOk, Bool.and_eq_true, decide_eq_true_eq, Bool.not_eq_true'] at h
  obtain ⟨⟨⟨h1, h2⟩, h3⟩, h4⟩ := h
  exact ⟨h1, h2, h3, fun win va h => by rw [h] at h4; exact h4⟩

/-- The parts of the only block of an access with codes from 0x10010 or, in the fabric window, from 0x40010 up, and scales in page 2. -/
def partsAt (far : Bool) (_n j : Nat) : Loc := if j < 3 then (if far then .fabric 5 (0x40010 + 8 * j) else .hbm (0x20010 + 8 * j)) else .hbm 0x30000

/-- Codes from 0x10010 or 0x40010 up, scales from 0x20000 up. -/
def quant (far : Bool) : State := (user.setX 8 (if far then 0x40010 else 0x10010)).setX 9 0x20000

theorem quant_vl : ∀ far, ((quant far).vl + 31) / 32 = 1 := by decide +kernel

theorem quant_parts : ∀ far, ∀ n < 1, ∀ j < 4, ∀ k ∈ [Access.load, .store],
    partOk (quant far) ((quant far).baseAddr none 8 false) ((quant far).x 9) k n j (partsAt far n j) = true ∧ badAt (quant far).mem (partsAt far n j) = none := by
  decide +kernel

/-- R179: one block of two elements in HBM, its scales in page 2; its codes in a fabric window. -/
theorem hyp_quantised (h : Obligations.QuantisedAccesses) :
    ∀ far, Completes (exec (.vldQ none (.v 1) 8 false 9 false) (quant far)) ∧ Completes (exec (.vstQ none (.v 7) 8 true 9 false) (quant far)) := by
  intro far
  have r n hn j hj k hk := quant_parts far n (lt_of_lt_of_eq hn (quant_vl far)) j hj k hk
  refine ⟨of_next ((h _ none (.v 1) 8 9 false (partsAt far) ?_).1 false (by decide) ?_ ?_ ?_ fun n hn j hj =>
      ⟨partAt_of (r n hn j hj .load (by decide)).1, (r n hn j hj .load (by decide)).2⟩),
    of_next ((h _ none (.v 7) 8 9 false (partsAt far) ?_).2 true ?_ (by decide) ?_ ?_ ?_ ?_ ?_ (fun n _ hn j hj => partAt_of (r n hn j hj .store (by decide)).1) ?_)⟩ <;>
    revert far <;> decide +kernel

/-- One element group in a register, `v1` FP32, `v2` void, and both saved from 0x10000 up. -/
def narrow : State :=
  let s := ((based 0x10000).mapVec fun c => { c with shapeN := 63, shapeK := 15 }).setVreg (.v 2) .void
  let m := s.mem.hbm.write 0x20000 (s.slotHeader (s.vreg (.v 1)).tag.bits) 64
  { s with mem := { s.mem with hbm := m.write (0x20000 + (s.slotAddr 0 1).toNat) (s.slotHeader 0) 64 } }

/-- The lines of a list of addresses in a state in which they translate. -/
def linesAt (s : State) (k : Access) (l : List Word) : List (Word × Loc) := (s.checkLines k l).toOption.getD []

/-- The planes behind headers. -/
def planesAt (s : State) (l : List (Tag × Word)) : List (List (Word × Loc)) := (l.mapM fun x => s.planesOf x.1 x.2).toOption.getD []

/-- Their bytes. -/
def bodiesAt (s : State) (l : List (List (Word × Loc))) : List (List (Word × Loc) × List Byte × Option Exc) :=
  (l.mapM fun x => (s.readLines x).map fun r => (x, r.1, r.2)).toOption.getD []

/-- R273 to R278: `vsv` and `vrs` of the two registers. -/
theorem hyp_save_restore (h : Obligations.RegistersSaveAndRestore) :
    Completes (exec (.vsv none 1 1 8 0 false) narrow) ∧ Completes (exec (.vrs none 1 1 8 0 false) narrow) := by
  let addrs := (List.range 2).map fun j => narrow.slotAddr 0x10000 j
  refine ⟨of_next ((h narrow none 1 1 8 0 false (linesAt narrow .store (((List.range 2).zip
      ((regRange 1 1).map fun r => lines64 (narrow.slotImage (narrow.vreg r)))).flatMap fun x =>
        (List.range x.2.length).map fun j => narrow.slotAddr 0x10000 x.1 + word (64 * j))) ?_ ?_ ?_).1 ?_ (by decide) ?_ ?_ ?_ ?_),
    of_next ((h narrow none 1 1 8 0 false (linesAt narrow .load addrs) ?_ ?_ ?_).2 ((narrow.readHeads (linesAt narrow .load addrs)).toOption.getD [])
      [Tag.of .f32 0, .void] (planesAt narrow ([Tag.of .f32 0, .void].zip addrs)) (bodiesAt narrow (planesAt narrow ([Tag.of .f32 0, .void].zip addrs)))
      (by decide) ?_ ?_ ?_ ?_ ?_ ?_ ?_ ?_ ?_)⟩ <;> decide +kernel

/-- R255 to R257: an atomic in HBM, a compare-and-swap with release in the scratchpad, and one on a fabric window. -/
theorem hyp_scalar_atomics (h : Obligations.ScalarAtomics) :
    Completes (exec (.amoAdd 0 8 2 .i32 .rlx .core) (based 0x10010)) ∧ Completes (exec (.amoCas 3 8 2 .n64 .sc .sys) (based localBase)) ∧
    Completes (exec (.amoMax 3 8 2 .n32 .rlx .sys) (based 0x40010)) := by
  refine ⟨of_next (h.1 _ (.amoAdd 0 8 2 .i32 .rlx .core) _ _ _ _ _ _ _ (.hbm 0x20010) 0 ?_ rfl ?_ ?_ rfl ?_ ?_ ?_ (by unfold Stored; decide +kernel)),
    of_next (h.1 _ (.amoCas 3 8 2 .n64 .sc .sys) _ _ _ _ _ _ _ (.spad 0x700000) 0 ?_ rfl ?_ ?_ rfl ?_ ?_ ?_ (by unfold Stored; decide +kernel)),
    (h.2 _ (.amoMax 3 8 2 .n32 .rlx .sys) _ _ _ _ _ _ _ 5 0x40010 ⟨3, 2, 77⟩ rfl ?_ ?_ ?_).imp fun _ h => h.elim fun _ h => h.1⟩ <;> decide +kernel

/-- The place of each element of an atomic with the indices of `v6`. -/
def atomSpot (s : State) (b : Word) (w e : Nat) : Loc :=
  match Machine.locate s.part s.mem s.space (b + s.indexAt 6 e) w .atomic with
  | .ok l => l
  | .error _ => .hbm 0

/-- What an atomic asks of the place of an element. -/
def atomOk (s : State) (b : Word) (w e : Nat) (vi : BitVec 6) (l : Loc) : Bool :=
  decide ((b + s.indexAt vi e).toNat % w = 0) && decide (Machine.locate s.part s.mem s.space (b + s.indexAt vi e) w .atomic = .ok l) &&
    decide (raceCheck s.part s.mem (s.agent true .sys) true l w (b + s.indexAt vi e) = .ok ()) &&
    match l with | .fabric win _ => (s.token win).isSome | _ => true

theorem atoms_of {s : State} {k : MaskOf} {b : Word} {w : Nat} {vi : BitVec 6} {at' : Nat → Loc}
    (h : ∀ e, e < s.vl → atomOk s b w e vi (at' e) = true) (e : Nat) (he : e < s.vl) (_ : isActive s k e = true) :
    let va := b + s.indexAt vi e
    va.toNat % w = 0 ∧ Machine.locate s.part s.mem s.space va w .atomic = .ok (at' e) ∧
      raceCheck s.part s.mem (s.agent true .sys) true (at' e) w va = .ok () ∧
      (∀ win x, at' e = .fabric win x → (s.token win).isSome = true) := by
  have := h e he
  simp only [atomOk, Bool.and_eq_true, decide_eq_true_eq] at this
  obtain ⟨⟨⟨h1, h2⟩, h3⟩, h4⟩ := this
  exact ⟨h1, h2, h3, fun win x h => by rw [h] at h4; exact h4⟩

/-- Integers in `v1` and `v2`, indices 16 and 0 in `v6`. -/
abbrev ints : State := ((based 0x10010).setVreg (.v 1) ⟨Tag.of .i32 0, [5], none⟩).setVreg (.v 2) ⟨Tag.of .i32 0, [6], none⟩

/-- R247, R250: a compare-and-swap with old values, a masked reduction, a reduction in a fabric window; and the chain's next operation. -/
theorem hyp_vector_atomics (h : Obligations.VectorAtomics) (h2 : Obligations.AtomicOperationsArePerformed) :
    Completes (exec (.vamoCas none 1 6 8 .i32 false) ints) ∧
    Completes (exec (.mredAdd (some ⟨1, false, false, true, 0⟩) 1 6 8 .f32 false) (based 0x10010)) ∧
    Completes (exec (.mredMax none 1 6 8 .f32 false) (based 0x40010)) ∧
    Completes (exec .atomicApply { ints with choice := .index 0, mem := { ints.mem with ops := [chainOp ints
      ⟨.vamoCas none 1 6 8 .i32 false, none, .cas, .i32, 1, 6, 8, false, true⟩ 0x10010 4 0 (.hbm 0x20020)] } }) := by
  refine ⟨of_next (h _ (.vamoCas none 1 6 8 .i32 false) _ (atomSpot ints 0x10010 4) 0 (by decide) rfl ?_ ?_ ?_ ?_ (atoms_of ?_)),
    of_next (h _ (.mredAdd (some ⟨1, false, false, true, 0⟩) 1 6 8 .f32 false) _ (atomSpot (based 0x10010) 0x10010 4) 0 (by decide) rfl ?_ ?_ ?_ ?_
      (atoms_of ?_)),
    of_next (h _ (.mredMax none 1 6 8 .f32 false) _ (atomSpot (based 0x40010) 0x40010 4) 0 (by decide) rfl ?_ ?_ ?_ ?_ (atoms_of ?_)),
    of_next (h2 _ 0 _ 0 ?_ rfl rfl ?_ rfl ?_ ?_ (by unfold Stored; decide +kernel))⟩ <;> decide +kernel

/-- `user` with words at its PC. -/
def coded (l : List Word32) : State :=
  { user with mem := { user.mem with hbm := user.mem.hbm.writeBytes 0x20100 (l.flatMap fun w => bytesOf w.toNat 4) } }

/-- The same within a repeat frame of the one word behind the pair, at its second element. -/
def framed : State := (coded [0xB8630410, 0, 0x40014184]).mapSc fun c => { c with
  pc := 0x10108, loops := [⟨.frame, 0x10100, 0x10108, 3, 1⟩] }

/-- A load stands behind an acquire of the thread that is on its way to a fabric window. -/
def acquiring : State :=
  let s := (coded [(encode (.ldI32 2 1 .core .wk 0)).headD 0]).setX 1 0x40010
  let t := match exec (.ldI64 4 1 .pkg .acq 0) s with
    | .next t => t
    | .fault _ => s
    | .refused _ => s
  { s with fab := t.fab }

/-- R38, R58, R288, R307, R349: a request that lands, a fetch by the fabric, one that fails, a word that decodes, a pair, one in a frame, a
register that is waited for, one that holds a value, and one whose value failed. -/
theorem hyp_steps (h : Obligations.AStepRunsTheDecodedInstruction) :
    Completes (step (user.mapCore fun c => { c with request := some 0 })) ∧
    Completes (step (user.mapSc fun c => { c with pc := 0x40010 })) ∧
    Completes (step (user.mapSc fun c => { c with pc := 0x90000 })) ∧ (coded [0x17392345]).atPc = .ok (.lui 7 0x12345) ∧
    (coded [0xF8088000, 0x40014184]).atPc = .ok (.vfadd (some ⟨0, false, false, false, false, some .f16, 0⟩) (.v 5) (.v 3) (.vv (.v 4))) ∧
    framed.atPc = .ok (.vfadd none (.v 6) (.v 3) (.vv (.v 4))) ∧
    Completes (step ((coded [0x090E8480]).mapCore fun c => { c with xpend := 0x100 })) ∧ Completes (step acquiring) ∧
    (∃ b, Issuing (coded [0x090E8480]) b) ∧
    ∃ b, Issuing ((coded [0x090E8480]).mapCore fun c => { c with xfail := [(8, ⟨0x15, 1, 0, 0⟩)] }) b := by
  have ran {s : State} (hr : CoreMoves s ∧ s.core.run = .running ∧ (begun s).landed = none ∧ s.farFetch = none) :=
    ((h s hr.1 hr.2.1).2 hr.2.2.1).2 hr.2.2.2
  refine ⟨(Option.isSome_iff_exists.1 (by decide +kernel : (begun (user.mapCore fun c => { c with request := some 0 })).landed.isSome = true)).elim
      fun _ e => of_eq ((h _ ?_ ?_).1 _ e),
    of_eq (((h _ ?_ ?_).2 ?_).1 0x40010 ?_), of_eq ((ran ?_).1 ⟨0x17, 0x07, 0x90000, 0⟩ ?_), ((ran ?_).2.1 0x17392345 0 _ ?_ nofun ?_).1 ?_,
    ((ran ?_).2.1 0xF8088000 0x40014184 _ ?_ ?_ ?_).1 ?_,
    ((ran (s := framed) ?_).2.1 0x40014184 0 (.vfadd none (.v 5) (.v 3) (.vv (.v 4))) ?_ nofun ?_).2 ?_ _ [] ⟨1, 0, 0, 4, [0]⟩
      [(0x10108, some (.vfadd none (.v 5) (.v 3) (.vv (.v 4))), true)] rfl ?_,
    of_eq (((ran ?_).2.2 (.mulhN 7 8 9) ?_).1 (.inl ?_)), of_eq (((ran (s := acquiring) ?_).2.2 (.ldI32 2 1 .core .wk 0) ?_).1 (.inr ?_)),
    (((ran ?_).2.2 (.mulhN 7 8 9) ?_).2.1 ?_ ?_ ?_).imp fun _ h => h.1,
    (((ran ?_).2.2 (.mulhN 7 8 9) ?_).2.2 ?_ ?_ ⟨0x15, 1, 0, 0⟩ ?_).imp fun _ h => h.1⟩ <;> decide +kernel

/-- R27, R75, R283: a state with the invariant that steps; the three ways of an exception; an instruction in user mode; encodings. -/
theorem hyp_machine (h1 : Obligations.StepsKeepTheInvariant) (h2 : Obligations.ExceptionsAreDelivered)
    (h3 : Obligations.UserInstructionsKeepSupervisorState) (h4 : Obligations.EncodedInstructionsDecode) :
    (∃ t, step (coded [0x17392345]) = .next t ∧ MachineInv t) ∧
    (let e : Exc := ⟨0x01, 0x06, 0, 0⟩
     let s := user.mapSt fun q => { q with uvec := 0x4000, udeleg := 2 }
     let v := user.mapCore fun c => { c with sup := { c.sup with mode := .supervisor } }
     let a := v.mapCore fun c => { c with sup := { c.sup with scause := 0x8000000000000000 } }
     (s.except e).core.sc.pc = 0x4000 ∧ (user.except e).core.sup.mode = .supervisor ∧ (v.except e).core.sup.sepc = 0x10100 ∧
       (a.except e).core.run = .stopped) ∧
    (∃ t, exec (.addi 1 2 3) user = .next t ∧ (t.core.sup = user.core.sup ∨ t.core.sup.mode = .supervisor)) ∧
    decode 0x17392345 0 = .ok (.lui 7 0x12345) ∧
    needsSecond 0xF8088000 = true := by
  refine ⟨⟨_, rfl, h1 (coded [0x17392345]) _ ?_ rfl⟩, ⟨?_, ?_, ?_, ?_⟩, ⟨_, rfl, (h3 (.addi 1 2 3) user _ rfl rfl rfl).imp_right (·.1)⟩,
    h4.1 _ _ _ ?_ ?_, (h4.2 (.vfadd (some ⟨0, false, false, false, false, some .f16, 0⟩) (.v 5) (.v 3) (.vv (.v 4))) 0xF8088000 0x40014184 ?_ ?_).2⟩
  · decide +kernel
  · rw [(h2 _ _).1 (by decide +kernel)]; rfl
  · rw [(h2 _ _).2.1 (by decide +kernel) (by decide +kernel)]
  · rw [(h2 _ _).2.2.1 (by decide +kernel) (by decide +kernel)]; rfl
  · rw [(h2 _ _).2.2.2 (by decide +kernel) (by decide +kernel)]
  all_goals decide +kernel

/-! CRC-32C again, on numbers, each step of which the kernel evaluates before the next. -/

/-- `k n`, with `n` evaluated first. -/
def force (n : Nat) (k : Nat → Nat) : Nat :=
  match n with
  | 0 => k 0
  | m + 1 => k (m + 1)

theorem force_eq (n : Nat) (k : Nat → Nat) : force n k = k n := by cases n <;> rfl

/-- `n` bits of CRC-32C. -/
def crcBits : Nat → Nat → Nat
  | 0, c => c
  | n + 1, c => force (if c % 2 = 1 then (c / 2) ^^^ 0x82F63B78 else c / 2) (crcBits n)

/-- CRC-32C of bytes, from a register on. -/
def crcNat : List Byte → Nat → Nat
  | [], c => c
  | b :: l, c => force (crcBits 8 (c ^^^ b.toNat)) (crcNat l)

theorem crcBit_toNat (c : BitVec 32) : (crcBit c).toNat = if c.toNat % 2 = 1 then (c.toNat / 2) ^^^ 0x82F63B78 else c.toNat / 2 := by
  unfold crcBit
  rw [BitVec.getLsbD, Nat.testBit_zero]
  split <;> rename_i h <;> simp at h <;> simp [h, Nat.shiftRight_eq_div_pow]

theorem crcBits_eq (n : Nat) (c : BitVec 32) : crcBits n c.toNat = (Nat.repeat crcBit n c).toNat := by
  induction n generalizing c with
  | zero => rfl
  | succ n ih =>
    rw [crcBits, force_eq, ← crcBit_toNat, ih]
    congr 1
    clear ih
    induction n with
    | zero => rfl
    | succ n ih => simp only [Nat.repeat]; rw [ih]; rfl

theorem crcNat_eq (l : List Byte) (c : BitVec 32) : crcNat l c.toNat = (l.foldl crcByte c).toNat := by
  induction l generalizing c with
  | nil => rfl
  | cons b l ih =>
    rw [crcNat, force_eq, List.foldl_cons, ← ih]
    congr 1
    have : c.toNat ^^^ b.toNat = (c ^^^ b.setWidth 32).toNat := by
      rw [BitVec.toNat_xor, BitVec.toNat_setWidth, Nat.mod_eq_of_lt (by omega)]
    rw [this, crcBits_eq]
    rfl

/-- The checksum of a record, evaluated step by step. -/
def checksum (l : List Byte) : Nat := force (crcNat (l.take 0x7C ++ List.replicate 4 0 ++ l.drop 0x80) 0xFFFFFFFF) fun c => 0xFFFFFFFF - c

theorem checksum_eq (l : List Byte) : (recordCrc l 0x7C).toNat = checksum l := by
  have := crcNat_eq (l.take 0x7C ++ List.replicate 4 0 ++ l.drop 0x80) 0xFFFFFFFF
  rw [checksum, force_eq]
  show (~~~ (List.foldl crcByte 0xFFFFFFFF _)).toNat = _
  rw [BitVec.toNat_not, show (0xFFFFFFFF : Nat) = (0xFFFFFFFF : BitVec 32).toNat from rfl, this]
  rfl

/-- A field of `n` bytes put into a record. -/
def put (l : List Byte) (off n v : Nat) : List Byte := l.take off ++ bytesOf v n ++ l.drop (off + n)

/-- A node record of `threads` threads in one field of `width` bits, with a predecessor or none and flags, and its checksum. -/
def nodeRecord (threads width pred flags : Nat) : List Byte :=
  let l := put (put (put (put (put (put (List.replicate 256 0) 0 8 0x10000) 8 4 threads) 0xD 1 flags) 0xF 1 1) 0x10 1 width) 0x38 8 pred
  put l 0x7C 4 (checksum l)

/-- A commit group of three endpoints whose first member is this package's core 0. -/
def group : Group :=
  { tag := 77, members := [(coreEp 0, 0x1000), (0x8001, 0x2000), (0x8002, 0x3000)], domain := false, quota := 2, wdef := 300, effect := 0x10000,
    stepkey := 0xFFFF, ctx := 0 }

/-- The node of `user`, with the group in slot 2. -/
def node : Node := { State.newNode State.reset { parseRecord (nodeRecord 4 2 0 0) with cgslots := 4 } none [] with handle := 5, slots := [(2, group)], root := 0x40000 }

/-- `user` with its node in the pool. -/
def pooled : State := { user with sched := { user.sched with nodes := [node], nextHandle := 6 } }

/-- R161, R274: the largest and the smallest `setvl`; a fill that `setshape` waits for; each outcome of `vframe`. -/
theorem hyp_configuration (h : Obligations.VectorConfiguration) :
    let f := user.setVreg (.v 1) { user.vreg (.v 1) with tag := { Tag.of .f32 0 with full := false } }
    let v := (user.setX 3 0x50000000).mapCore fun c => { c with me := { c.me with stackLo := 0x40000000, stackHi := 0x60000000 } }
    let w := v.setX 3 0x40000000
    Completes (exec (.setvl 5 2 .w32) user) ∧ Completes (exec (.setvl 0 2 .w8) (user.setX 2 (BitVec.allOnes 64))) ∧
    Completes (exec (.setshape 8 2) f) ∧ Completes (exec (.setshape 8 1) user) ∧ Completes (exec (.vframe 1) v) ∧
    Completes (exec (.vframe 1) w) ∧ Completes (exec (.vframe 1) (w.mapSt fun q => { q with stklim := 0x40000000 })) := by
  refine ⟨of_next ((h _ ?_).1 5 2 .w32), of_next ((h _ ?_).1 0 2 .w8), of_eq ((h _ ?_).2.1 8 2 ?_ ?_), of_next ((h _ ?_).2.2.1 8 1 ?_ ?_),
    of_next (((h _ ?_).2.2.2 1).2.2 ?_ ?_ ?_), of_eq (((h _ ?_).2.2.2 1).2.1 ?_ ?_), of_eq (((h _ ?_).2.2.2 1).1 ?_)⟩ <;> decide +kernel

/-- R296, R56, R383: a read, writes whose fields clamp or mask, a window length, a read-only and an unassigned number, user mode. -/
theorem hyp_state_registers (h : Obligations.StateRegisters) :
    let v := (pooled.setX 2 400).mapCore fun c => { c with sup := { c.sup with mode := .supervisor } }
    Completes (exec (.stread 4 0x010) user) ∧ Completes (exec (.stwrite 2 0x016) (user.setX 2 9)) ∧
    Completes (exec (.stset 2 0x103) v) ∧ Completes (exec (.stwrite 2 0x072) (pooled.setX 2 1048575)) ∧
    Completes (exec (.stclr 2 0x010) user) ∧ Completes (exec (.stread 2 0x003) user) ∧ Completes (exec (.stread 2 0x100) user) ∧
    Completes (exec (.stwrite 2 0x072) pooled) := by
  refine ⟨of_next (((h _ 0x010).1 ?_).1 4 2 ?_), of_next (((h _ 0x016).1 ?_).2 (.stwrite 2 0x016) _ _ 8 rfl rfl ?_ fun h => absurd h.1 (by decide)),
    of_next (((h _ 0x103).1 ?_).2 (.stset 2 0x103) _ _ 400 rfl rfl ?_ fun h => absurd h.2 (by decide)),
    of_next (((h _ 0x072).1 ?_).2 (.stwrite 2 0x072) _ _ 1048575 rfl rfl ?_ fun _ => ⟨group, ?_, ?_, ?_⟩),
    (((h _ 0x010).2.2 ?_).2.2 (.stclr 2 0x010) _ rfl ?_).elim fun _ h => of_eq h.2.2,
    (((h _ 0x003).2.2 ?_).1 (.stread 2 0x003) (.inr ⟨_, rfl⟩) ?_).elim fun _ h => of_eq h.2.2,
    ((h _ 0x100).2.1 (.stread 2 0x100) (.inr ⟨_, rfl⟩) ?_ ?_).elim fun _ h => of_eq h.2.2,
    (((h pooled 0x072).2.2 ?_).2.1 (.stwrite 2 0x072) (fun _ => 0) 0 rfl ?_ ?_ ?_ fun ⟨x, hx, hw, _⟩ => by
      rw [← Option.some.inj ((by decide +kernel : pooled.slotGroup 2 = some group).symm.trans hx)] at hw
      exact absurd hw (by decide)).elim fun _ h => of_eq h.2.2⟩ <;> decide +kernel

/-- A thread whose matrix commands stand in its image. -/
def away : State :=
  let v := { user.core.vec with mx := { user.core.vec.mx with fault := some ⟨0x11, 0x03, 0, 0⟩ } }
  { user with core := { user.core with sup := { user.core.sup with vown := 0 } }, sched := { user.sched with vimages := [⟨77, 0, v⟩] } }

/-- R297 to R300: `eret` in each mode with and without an active trap, and after a pre-emption with no image selected, `tlb.inv`, `halt` with the
vector state, without it and without what it holds,
and a word of zeros. -/
theorem hyp_system (h : Obligations.SystemInstructions) :
    let t := user.mapSt fun q => { q with ucause := 0x8000000000000100 }
    let v := user.mapCore fun c => { c with sup := { c.sup with mode := .supervisor, scause := 0x8000000000000100 } }
    let p := user.mapCore fun c => { c with sup := { c.sup with mode := .supervisor, scause := 0xC000000000001801 } }
    Completes (exec .eret t) ∧ Completes (exec .eret user) ∧ Completes (exec .eret v) ∧ Completes (exec .eret p) ∧ Completes (exec (.tlbInv 2 .page) user) ∧
    Completes (exec (.tlbInv 2 .pkg) v) ∧ Completes (exec .halt user) ∧ Completes (exec .halt away) ∧
    Completes (exec .halt { away with sched := user.sched }) ∧ Completes (exec .speculationResolve user) ∧
    Completes (exec .illegalInstruction (coded [0])) := by
  refine ⟨of_eq ((h _).2.2.1 ?_ ?_), ((h _).2.2.2.1 ?_ ?_).elim fun _ h => of_eq h.2.2, of_eq ((h _).2.2.2.2.1 ?_ ?_ ?_ ?_),
    of_next ((h _).2.2.2.2.2.1 ?_ ?_ ?_ ?_), ((h _).2.2.2.2.2.2.1 2 .page ?_).elim fun _ h => of_eq h.2.2, of_next ((h _).2.2.2.2.2.2.2.1 2 .pkg ?_),
    of_eq ((h _).2.2.2.2.2.2.2.2.1 ?_ ?_ ?_), of_eq (((h _).2.2.2.2.2.2.2.2.2.1 ?_).1 ?_ ?_), of_eq (((h _).2.2.2.2.2.2.2.2.2.1 ?_).2 ?_ ?_),
    of_eq ((h _).2.2.2.2.2.2.2.2.2.2.1), of_eq ((h _).2.2.2.2.2.2.2.2.2.2.2 0 1 ?_ ?_ ?_ ?_ ?_)⟩ <;> decide +kernel

/-- R153 to R159: a loop of no repetition, also on a full stack, one that starts, one on a full stack; an index; `brkl` with and without an entry; a frame. -/
theorem hyp_loop_instructions (h : Obligations.LoopInstructions) (h2 : Obligations.RepeatFramesStart) :
    let e : LoopEntry := ⟨.loop, 0x100, 0x108, 2, 0⟩
    let full := (user.setX 2 3).mapSc fun c => { c with loops := List.replicate 6 e }
    let s := coded [0xB8630410, 0, 0x40014184]
    Completes (exec (.loop 2 8) user) ∧ Completes (exec (.loop 2 8) (user.setX 2 3)) ∧ Completes (exec (.loop 2 8) full) ∧
    Completes (exec (.loop 0 8) full) ∧ Completes (exec (.lidx 4 5) full) ∧
    Completes (exec .brkl user) ∧ Completes (exec .brkl full) ∧ Completes (exec .brkl (full.mapSc fun c => { c with pc := 0x108 })) ∧
    Completes (exec (.repf 3 0 1 0 0 2 0) s) ∧ Completes (exec (.repf 3 0 1 0 0 2 0) (s.setX 3 3)) ∧
    Completes (exec (.repf 3 0 1 0 0 2 0) ((s.setX 3 1).mapSc fun c => { c with loops := List.replicate 6 e })) := by
  let l : List (Word × Option Instr × Bool) := [(0x10108, some (.vfadd none (.v 5) (.v 3) (.vv (.v 4))), true)]
  have fits (s : State) (hs : s.nregs = 8) (n : Word) (hn : (min n.toNat 4) ≤ 3) : ∀ q, q < min n.toNat 4 → ∀ x ∈ l, (∀ i, x.2.1 = some i →
      ∀ v ∈ vregsOf (staggered ⟨1, 0, 0, 4, [0]⟩ q i), v.toNat < s.nregs) ∧
        (x.2.1 = none → ∀ v ∈ s.strayRegs ⟨1, 0, 0, 4, [0]⟩ q x.1, v.toNat < s.nregs) := by
    intro q hq x hx
    have : q = 0 ∨ q = 1 ∨ q = 2 := by omega
    simp only [l, List.mem_singleton] at hx
    subst hx
    refine ⟨fun i hi => ?_, nofun⟩
    cases hi
    rw [hs]
    rcases this with rfl | rfl | rfl <;> decide
  refine ⟨of_eq (((h _).1 2 8 ?_).1 ?_ ?_), of_eq (((h _).1 2 8 ?_).2.1 ?_ ?_), of_eq (((h _).1 2 8 ?_).2.2 ?_ ?_), of_eq (h2.1 _ 0 8 ?_ ?_ ?_),
    of_next ((h _).2.2.2 4 5 ?_), of_eq ((h _).2.1 ?_),
    of_eq (((h _).2.2.1 _ _ rfl).1 ?_), of_next (((h _).2.2.1 _ _ rfl).2 ?_), of_eq ((h2.2 _ 3 0 1 0 0 2 0 l ?_ ?_ (fits _ ?_ _ ?_)).1 ?_ ?_),
    of_eq ((h2.2 _ 3 0 1 0 0 2 0 l ?_ ?_ (fits _ ?_ _ ?_)).2.2 ?_ ?_), of_eq ((h2.2 _ 3 0 1 0 0 2 0 l ?_ ?_ (fits _ ?_ _ ?_)).2.1 ?_)⟩ <;> decide +kernel

/-- A barrier object of three at byte 0 of the thread's scratchpad, with one still pending. -/
def barrier : State :=
  let s := user.setX 8 (BitVec.ofNat 64 localBase)
  { s with mem := { s.mem with spad := s.mem.spad.write 0x700000 0x0001000300010004 8, marks := [(0xE0000, .pkg)] } }

/-- R257 to R262: a new object, the last arrival of a phase, and tokens of another generation, of this phase and of the one before. -/
theorem hyp_barriers (h : Obligations.BarrierInstructions) :
    let t (w : Word) := barrier.setX 9 w
    Completes (exec (.barInit 8 9 .pkg) (t 65535)) ∧ Completes (exec (.barArr 4 8 false) barrier) ∧
    Completes (exec (.barWait 8 9) (t 0x0002000300020004)) ∧ Completes (exec (.barWait 8 9) (t 0x0001000300020004)) ∧
    Completes (exec (.barWait 8 9) (t 0x0001000300020003)) ∧ Completes (exec (.barTest 4 8 9) (t 0)) := by
  refine ⟨of_next ((h _ 8 0x700000 ?_).1 9 .pkg ?_ ?_ ?_ ?_ ?_), of_next ((h _ 8 0x700000 ?_).2.1 4 false .pkg 0xE0000 ?_ ?_ ?_),
    of_eq (((h _ 8 0x700000 ?_).2.2 9 .pkg 0xE0000 ?_ ?_).1 ?_), of_next (((h _ 8 0x700000 ?_).2.2 9 .pkg 0xE0000 ?_ ?_).2.1 ?_ ?_),
    of_next (((h _ 8 0x700000 ?_).2.2 9 .pkg 0xE0000 ?_ ?_).2.2.1 ?_ ?_),
    of_next (((h _ 8 0x700000 ?_).2.2 9 .pkg 0xE0000 ?_ ?_).2.2.2 4)⟩ <;> decide +kernel

/-- A node record at 0x10000. -/
def recorded : State := { user with mem := { user.mem with hbm := user.mem.hbm.writeBytes 0x20000 (nodeRecord 4 2 0 0) } }

theorem ok_of {ε α β : Type} {r : Except ε (α × β)} (h : r.isOk = true) : ∃ a b, r = .ok (a, b) := by
  cases r with
  | ok u => exact ⟨u.1, u.2, rfl⟩
  | error e => exact absurd h nofun

theorem error_of {ε α : Type} {r : Except ε α} (h : r.isOk = false) : ∃ e, r = .error e := by
  cases r with
  | ok u => exact absurd h nofun
  | error e => exact ⟨e, rfl⟩

/-- R264 to R266: a fence, one that waits for an acquire from a fabric window, a word that meets its condition and one that does not, one in a fabric
window without and with a token, asked for,
awaited, failed, and of each value, a record that is read and one that is misaligned. -/
theorem hyp_fences (h : Obligations.FencesWaitsAndSubmissions) :
    let s := recorded.setX 8 0x10000
    let f := user.setX 8 0x40010
    let g (a : FarAns) : State := { f with fab := { f.fab with far := [⟨5, 0, none, false, 0x40010, 8, a, []⟩] } }
    let w : Instr := .waita 8 9 .pkg .ne
    Completes (exec (.fence .rel .pkg) user) ∧ Completes (exec (.fence .acq .pkg) acquiring) ∧ Completes (exec (.waita 8 9 .pkg .ne) s) ∧
    Completes (exec (.waita 8 9 .pkg .eq) s) ∧
    Completes (exec w { f with fab := { f.fab with tokens := [] } }) ∧ Completes (exec w f) ∧ Completes (exec w (g .awaited)) ∧
    Completes (exec w (g (.failed 0x15 1))) ∧ Completes (exec w (g (.data (bytesOf 0 8)))) ∧ Completes (exec w (g (.data (bytesOf 1 8)))) ∧
    Completes (exec (.nodeSub 4 8) s) ∧ Completes (exec (.nodeSub 4 8) (user.setX 8 0x10080)) := by
  refine ⟨of_next (((h _).1 .rel .pkg ?_).1 ?_), of_eq (((h _).1 .acq .pkg ?_).2 ?_ ?_), of_next (((h _).2.1 8 9 .pkg .ne (.hbm 0x20000) ?_ rfl ?_ ?_).2 ?_),
    of_next (((h _).2.1 8 9 .pkg .eq (.hbm 0x20000) ?_ rfl ?_ ?_).1 ?_), of_eq (((h _).2.2.1 8 9 .pkg .ne 5 0x40010 ?_).1 ?_),
    (((((h _).2.2.1 8 9 .pkg .ne 5 0x40010 ?_).2 ⟨3, 2, 77⟩ ?_).1 ?_).elim fun _ h => h.elim fun _ h => of_eq h.1),
    of_eq ((((h _).2.2.1 8 9 .pkg .ne 5 0x40010 ?_).2 ⟨3, 2, 77⟩ ?_).2.1 ?_), of_eq ((((h _).2.2.1 8 9 .pkg .ne 5 0x40010 ?_).2 ⟨3, 2, 77⟩ ?_).2.2.1 0x15 1 ?_),
    of_eq (((((h _).2.2.1 8 9 .pkg .ne 5 0x40010 ?_).2 ⟨3, 2, 77⟩ ?_).2.2.2 (bytesOf 0 8) ?_).1 ?_),
    of_next (((((h _).2.2.1 8 9 .pkg .ne 5 0x40010 ?_).2 ⟨3, 2, 77⟩ ?_).2.2.2 (bytesOf 1 8) ?_).2 ?_), (ok_of (r := (recorded.setX 8 0x10000).readUnits ((recorded.setX 8 0x10000).x 8) 32) ?_).elim fun _ hu => hu.elim fun _ hu =>
      of_next ((h _).2.2.2.1 4 8 _ _ (by decide +kernel) hu (by decide +kernel)),
    of_eq ((h _).2.2.2.2 4 8 ?_)⟩ <;> decide +kernel

/-- The status that the dispatcher answers. -/
def answer (s : State) (l : List Byte) : Nat := (bits (s.submitRecord l none []).1 56 8).toNat

/-- R18, R19, R266: each answer of the dispatcher. -/
theorem hyp_submissions (h : Obligations.SubmittedRecordsAreChecked) :
    answer pooled (put (nodeRecord 4 2 0 0) 8 4 5) = 0x81 ∧ answer pooled (nodeRecord 5 2 0 0) = 0x82 ∧ answer pooled (nodeRecord 4 2 6 0) = 0x83 ∧
    answer { pooled with sched := { pooled.sched with nodes := List.replicate 65536 node } } (nodeRecord 4 2 5 0) = 0x84 ∧
    answer pooled (nodeRecord 0xFFFF 16 5 1) = 0x85 ∧ (pooled.submitRecord (nodeRecord 4 2 5 0) none []).1 = 6 := by
  have sum (s : State) (l : List Byte) (hc : checksum l = field l 0x7C 4) := (h s l none []).2 (by rw [checksum_eq]; exact hc)
  refine ⟨?_, ?_, ?_, ?_, ?_, ?_⟩ <;> try unfold answer
  · rw [(h pooled _ none []).1 (by rw [checksum_eq]; decide +kernel)]; decide
  · rw [(sum pooled (nodeRecord 5 2 0 0) (by decide +kernel)).1 (by decide +kernel)]; decide
  · rw [((sum pooled (nodeRecord 4 2 6 0) (by decide +kernel)).2 (by decide +kernel)).1 (by decide +kernel)]; decide
  · rw [(((sum _ (nodeRecord 4 2 5 0) (by decide +kernel)).2 (by decide +kernel)).2 (by decide +kernel)).1 (List.length_replicate (n := 65536) (a := node)).ge]; decide
  · rw [((((sum pooled (nodeRecord 0xFFFF 16 5 1) (by decide +kernel)).2 (by decide +kernel)).2 (by decide +kernel)).2 (by decide +kernel)).1 (by decide +kernel)]
    decide
  · obtain ⟨n, hn⟩ := ((((sum pooled (nodeRecord 4 2 5 0) (by decide +kernel)).2 (by decide +kernel)).2 (by decide +kernel)).2 (by decide +kernel)).2
      (by decide +kernel)
    rw [hn.2.2.2.2.2.2.2.2.2.2.2]; rfl

/-- `user` with a tile with one tangent in slots 0 and 1 and one without in slot 2, and a weight buffer of 8 rows. -/
def matrix : State :=
  pooled.mapVec fun c => { c with
    tiles := Vector.ofFn fun i => { tag := if i.val < 2 then Tag.of .f32 1 else if i.val = 2 then Tag.of .f32 0 else .void,
                                    base := if i.val < 2 then 0 else i.val, data := 0, bad := false }
    mx := { c.mx with view := ⟨.f16, 8, 96, none⟩ } }

/-- The same with batches that are not done and steps in the open one. -/
def batches (closed : List (BitVec 16)) (opened : Nat) : State :=
  matrix.mapVec fun c => { c with mx := { c.mx with closed := closed, next := 9, opened := opened } }

/-- A failure that the thread has not been told of. -/
def failure (q : Queue) : CmdFail := ⟨3, q, 5, 0, 2, 0x07, 4, 0x10000, 0x10100⟩

/-- `matrix` with that failure pending. -/
def failed (q : Queue) : State := { matrix with eng := { matrix.eng with fails := [failure q] } }

/-- R200, R210 to R213: a command of each kind, `mx.ldw` of no rows, a pending fault, a tile that is taken and one of a busy slot; a part without
matrix engines. -/
theorem hyp_matrix_commands (h : Obligations.MatrixCommandsEnter) :
    let f := matrix.mapVec fun c => { c with mx := { c.mx with fault := some ⟨0x07, 0x01, 0, 0⟩ } }
    let b := matrix.mapVec fun c => { c with tiles := c.tiles.set 2 { c.tiles.get 2 with tag := { Tag.of .f32 0 with full := false } } }
    Completes (exec (.mxCfg 5 6 true) matrix) ∧ Completes (exec (.mxLdw 4 2 3 .f16) (matrix.setX 4 512)) ∧ Completes (exec (.mxSeedw 2 15) matrix) ∧
    Completes (exec .mxSeedwClr matrix) ∧ Completes (exec (.mxCfg 5 6 true) f) ∧ Completes (exec (.mxZero 1 2) matrix) ∧
    Completes (exec (.mxZero 1 2) b) ∧ Completes (exec (.mxLdw 4 2 3 .f16) (matrix.setX 4 0)) ∧
    Completes (exec .mxCommit { matrix with part := .v }) := by
  refine ⟨((h.1.2 _ (.mxCfg 5 6 true) ?_ ?_).1 ?_ ?_ _ _ rfl).imp fun _ h => h.elim fun _ h => h.1,
    ((h.1.2 _ (.mxLdw 4 2 3 .f16) ?_ ?_).1 ?_ ?_ _ _ (if_neg ?_)).imp fun _ h => h.elim fun _ h => h.1,
    ((h.1.2 _ (.mxSeedw 2 15) ?_ ?_).1 ?_ ?_ _ _ rfl).imp fun _ h => h.elim fun _ h => h.1,
    ((h.1.2 _ .mxSeedwClr ?_ ?_).1 ?_ ?_ _ _ rfl).imp fun _ h => h.elim fun _ h => h.1,
    of_eq ((h.1.2 _ (.mxCfg 5 6 true) ?_ ?_).2.2 _ _ rfl rfl), ((h.2 _ 1 2 ?_ ?_ ?_).1 ?_).imp fun _ h => h.elim fun _ h => h.1,
    of_eq ((h.2 _ 1 2 ?_ ?_ ?_).2 ?_), of_eq ((h.1.2 _ .mxSeedwClr ?_ ?_).2.1 ?_ 4 2 3 .f16 (.inl ?_)), of_eq (h.1.1 _ .mxCommit ?_ ?_)⟩ <;> decide +kernel

/-- R201, R202, R214: a step that joins, one after the sixteenth with and without room; `mx.commit` in each case. -/
theorem hyp_steps_join (h : Obligations.StepsJoinBatches) :
    let at' (s : State) : State := (s.setX 8 (BitVec.ofNat 64 (localBase + 0x200))).setX 4 0
    Completes (exec (.mxStep 0 8 4 2 .f16) (at' (batches [1] 3))) ∧ Completes (exec (.mxStepf 2 8 4 2 .f16) (at' (batches [1] 16))) ∧
    Completes (exec (.mxStep 0 8 4 2 .f16) (at' (batches [1, 2, 3, 4] 16))) ∧ Completes (exec .mxCommit (batches [1] 0)) ∧
    Completes (exec .mxCommit (batches [1] 3)) ∧ Completes (exec .mxCommit (batches [1, 2, 3, 4] 3)) := by
  refine ⟨(((h _ ?_).1 (.mxStep 0 8 4 2 .f16) _ _ _ _ _ _ ?_ rfl ?_ ⟨?_, ?_, ?_, ?_, ?_, ?_, ?_, ⟨⟨7, 5, 0, 0, 0x400, 0, 0, 0, []⟩, ?_⟩, ?_, ?_⟩).2 (.inl ?_)).imp fun _ h => h.elim fun _ h => h.elim fun _ h => h.1,
    (((h _ ?_).1 (.mxStepf 2 8 4 2 .f16) _ _ _ _ _ _ ?_ rfl ?_ ⟨?_, ?_, ?_, ?_, ?_, ?_, ?_, ⟨⟨7, 5, 0, 0, 0x400, 0, 0, 0, []⟩, ?_⟩, ?_, ?_⟩).2 (.inr ?_)).imp fun _ h => h.elim fun _ h => h.elim fun _ h => h.1,
    of_eq (((h _ ?_).1 (.mxStep 0 8 4 2 .f16) _ _ _ _ _ _ ?_ rfl ?_ ⟨?_, ?_, ?_, ?_, ?_, ?_, ?_, ⟨⟨7, 5, 0, 0, 0x400, 0, 0, 0, []⟩, ?_⟩, ?_, ?_⟩).1 ?_ ?_),
    of_next ((h _ ?_).2.1 ?_), (((h _ ?_).2.2.1 ?_ ?_ ?_).imp fun _ h => h.elim fun _ h => h.1), of_eq ((h _ ?_).2.2.2 ?_ ?_ ?_)⟩ <;> decide +kernel

theorem of_except {r : Host.Outcome State Fault Refusal} {e : State → Exc} {P : State → Prop} (h : ∃ u, r = .next (State.except u (e u)) ∧ P u) :
    Completes r := h.elim fun _ h => ⟨_, h.1⟩

/-- R215 to R217: a wait that sleeps, one that completes, one that reports; a read of a full tile and of an empty one; writes, one of another
bundle width among them. -/
theorem hyp_matrix_rows (h : Obligations.MatrixRowsAndWaits) :
    let b := matrix.mapVec fun c => { c with tiles := c.tiles.set 2 { c.tiles.get 2 with tag := { Tag.of .f32 0 with full := false } } }
    Completes (exec (.mxWait 1) (batches [1, 2] 0)) ∧ Completes (exec (.mxWait 2) (batches [1, 2] 0)) ∧ Completes (exec (.mxWait 0) (failed .matrix)) ∧
    Completes (exec (.mxRd (.v 1) 2 true 3) b) ∧ Completes (exec (.mxRd (.v 1) 0 false 3) (matrix.setX 3 95)) ∧
    Completes (exec (.mxWr 0 (.v 7) 3 false) (matrix.setX 3 95)) ∧ Completes (exec (.mxWr 2 (.v 1) 3 false) b) ∧
    Completes (exec (.mxWr 2 (.v 7) 3 false) matrix) := by
  refine ⟨of_eq (((h _ ?_).1 1).1 ?_), of_next (((h _ ?_).1 2).2.1 ?_ ?_),
    ((((h _ ?_).1 0).2.2 ?_) (failure .matrix) ?_).elim fun _ h => of_eq h.1,
    of_eq (((h _ ?_).2.1 (.v 1) 2 true 3 0 ?_ ?_ ?_ ?_).1 ?_), of_next (((h _ ?_).2.1 (.v 1) 0 false 3 1 ?_ ?_ ?_ ?_).2 ?_ ?_ ?_),
    of_next (((h _ ?_).2.2.2 (.v 7) 0 false 3 1 1 ?_ ?_ ?_ ?_ ?_ ?_ ?_).2 ?_),
    of_eq (((h _ ?_).2.2.2 (.v 1) 2 false 3 0 0 ?_ ?_ ?_ ?_ ?_ ?_ ?_).1 ?_), of_eq ((h _ ?_).2.2.1 (.v 7) 2 false 3 1 ?_ ?_ ?_ ?_ ?_ ?_ ?_)⟩ <;> decide +kernel

/-- What reading units of a record gave. -/
def got (s : State) (r : Except Halt (List Byte × State)) : List Byte × State := r.toOption.getD ([], s)

theorem got_ok {s : State} {r : Except Halt (List Byte × State)} (h : r.isOk = true) : r = .ok ((got s r).1, (got s r).2) := by
  cases r with
  | ok u => rfl
  | error e => exact absurd h nofun

/-- A waybill of one dimension of two elements of 4 bytes from page 1 to page 2, with flags and a follow-on word. -/
def waybill (flags : Nat) (mx : Word32) : List Byte :=
  let l := put (put (put (put (put (put (List.replicate 120 0) 0 8 0x10000) 8 8 0x20000) 0x10 1 4) 0x11 1 flags) 0x12 1 1) 0x60 4 2
  put (put (put l 0x40 4 mx.toNat) 0x48 8 (localBase + 0x200)) 0x68 1 4

/-- `matrix` with a waybill at the start of its scratchpad, the address in `x8`. -/
def billed (l : List Byte) : State :=
  { matrix.setX 8 (BitVec.ofNat 64 localBase) with mem := { matrix.mem with spad := matrix.mem.spad.writeBytes 0x700000 l } }

/-- `s` with its copy queue at its depth. -/
def crowded (s : State) : State :=
  s.mapCore fun c => { c with copy := List.replicate 8 ⟨1, 5, 0, 0, 0, 0, 0, [], true, linearWaybill 0 0 0 0, 0, false, 0, none, []⟩ }

/-- R218 to R226: `cp.lin` at its largest count, at the depth, past the count, misaligned; waybills that are misaligned, outside the scratchpad,
malformed, sound, and with a follow-on step, on a part without matrix engines too. -/
theorem hyp_copies (h : Obligations.CopyCommandsEnter) :
    let big := matrix.setX 4 0x10000000000
    Completes (exec (.cpLin 2 3 4 5) big) ∧ Completes (exec (.cpLin 2 3 4 5) (crowded big)) ∧ Completes (exec (.cpLin 2 3 4 5) (matrix.setX 4 0x10000000001)) ∧
    Completes (exec (.cpLin 2 3 4 5) (matrix.setX 5 4)) ∧ Completes (exec (.cpNd 8) (matrix.setX 8 16)) ∧ Completes (exec (.cpNd 8) (matrix.setX 8 0x10000)) ∧
    Completes (exec (.cpNd 8) (billed (put (waybill 0 0) 0x10 1 3))) ∧ Completes (exec (.cpNd 8) (billed (waybill 0 0))) ∧
    Completes (exec (.cpNd 8) { billed (waybill 4 0xA0880009) with part := .v }) ∧ Completes (exec (.cpNd 8) (billed (waybill 4 0xA0880009))) := by
  refine ⟨(((h.1 _).1 2 3 4 5).1 ?_ ?_ ?_ ?_).imp fun _ h => h.elim fun _ h => h.1, of_eq (((h.1 _).1 2 3 4 5).2.1 ?_ ?_ ?_),
    of_eq (((h.1 _).1 2 3 4 5).2.2.1 ?_), of_eq (((h.1 _).1 2 3 4 5).2.2.2 ?_ ?_), of_eq ((h.1 _).2.1 8 ?_), of_eq ((h.1 _).2.2.1 8 ?_ ?_),
    of_eq (((h.1 _).2.2.2 8 _ _ (got_ok (s := .reset) ?_)).2.1 ?_ ?_),
    (((h.1 _).2.2.2 8 _ _ (got_ok (s := .reset) ?_)).2.2.1 0 _ ?_ ?_ rfl ?_ ?_).imp fun _ h => h.elim fun _ h => h.1,
    of_eq (((h.1 _).2.2.2 8 _ _ (got_ok (s := .reset) ?_)).1 ?_ ?_),
    (((h.1 _).2.2.2 8 _ _ (got_ok (s := .reset) ?_)).2.2.2 0 _ 0xA0880009 2 2 .f16 false ?_ ?_ ?_ ?_ ?_ ?_
      ⟨?_, ?_, ?_, ?_, ?_, ?_, ?_, ⟨⟨7, 5, 0, 0, 0x400, 0, 0, 0, []⟩, ?_⟩, ?_, ?_⟩ rfl ?_ ?_ ?_).imp
        fun _ h => h.elim fun _ h => h.elim fun _ h => h.elim fun _ h => h.1⟩ <;> decide +kernel

theorem none_left {α : Type} {l : List α} {P : α → Prop} (h : l = []) : ¬ ∃ c ∈ l, P c := by subst h; exact fun h => nomatch h.choose_spec.1

/-- R224, R226: a fence whose commands are not done, one whose are, one that reports, one for matrix commands that stand in the image; the counts and
failures of `cp.stat`. -/
theorem hyp_queue_fences (h : Obligations.CopyCommandsEnter) :
    let held := { crowded matrix with eng := { matrix.eng with nextId := 7 } }
    Completes (exec (.qFence 1) matrix) ∧ Completes (exec (.qFenceW 2) away) ∧ Completes (exec (.qFenceW 1) held) ∧ Completes (exec (.qFenceW 15) matrix) ∧
    Completes (exec (.qFenceW 1) (failed .copy)) ∧ Completes (exec (.cpStat 4 true) matrix) ∧ Completes (exec (.cpStat 4 true) (failed .copy)) := by
  refine ⟨of_next ((h.2 _).1 1), of_eq (((h.2 _).2.1 2).1 ?_), of_eq (((h.2 _).2.1 1).2.1 nofun ?_), of_next (((h.2 _).2.1 15).2.2.1 (fun _ => ?_) ?_ ?_),
    (((h.2 _).2.1 1).2.2.2 nofun ?_ (failure .copy) ?_).elim fun _ h => of_eq h.1, of_next ((h.2 _).2.2.2.1 4 ?_),
    of_next ((h.2 _).2.2.2.2 4 (failure .copy) ?_)⟩
  · decide +kernel
  · refine ⟨_, List.mem_of_getElem? (i := 0) rfl, ?_, ?_, ?_⟩ <;> decide +kernel
  all_goals first | decide +kernel | exact none_left (by decide +kernel)

/-- A command card of routine 1 on 4 elements at 0x10000, with a context number. -/
def card (k : Nat) : List Byte := put (put (put (put (put (List.replicate 128 0) 0 1 1) 1 1 k) 8 8 4) 0x10 8 0x10000) 0x48 8 31

/-- `matrix` with a card at 0x20000, the address in `x8`. -/
def carded (l : List Byte) : State :=
  { matrix.setX 8 0x20000 with mem := { matrix.mem with hbm := matrix.mem.hbm.writeBytes 0x30000 l } }

/-- `s` with commands of the thread in the optimiser queue of its die. -/
def optBusy (s : State) (n : Nat) : State :=
  { s with eng := { s.eng with opt := List.replicate n ⟨1, 5, 0, 0, 0, 0, 0, 0, 0, [], .step 0, none, none, none⟩ } }

/-- R180 to R192: cards that are sound, malformed, at the depth and misaligned; contexts and routines at both sides of their bounds; waits. -/
theorem hyp_optimiser (h : Obligations.OptimiserCommands) :
    let at' (v : Nat) := matrix.setX 8 (BitVec.ofNat 64 v)
    Completes (exec (.optCard 8) (carded (card 17))) ∧ Completes (exec (.optCard 8) (carded (card 16))) ∧
    Completes (exec (.optCard 8) (optBusy (carded (card 16)) 8)) ∧ Completes (exec (.optCard 8) (at' 0x10040)) ∧ Completes (exec (.optStep 8) (at' 31)) ∧
    Completes (exec (.optStep 8) (at' 32)) ∧ Completes (exec (.optRout 8 9) (at' 63)) ∧ Completes (exec (.optRout 8 9) (at' 64)) ∧
    Completes (exec (.optWait 1) (optBusy matrix 2)) ∧ Completes (exec (.optWait 2) (optBusy matrix 2)) ∧ Completes (exec (.optWait 0) (failed .opt)) ∧
    Completes (exec (.optStat 4 8 1) (at' 31)) := by
  refine ⟨of_eq (((h _).1 8 _ _ ?_ (got_ok (s := .reset) ?_)).1 ?_),
    (((h _).1 8 _ _ ?_ (got_ok (s := .reset) ?_)).2.1 ?_ ?_ ?_ ?_).imp fun _ h => h.elim fun _ h => h.1,
    of_eq (((h _).1 8 _ _ ?_ (got_ok (s := .reset) ?_)).2.2 ?_ ?_), of_eq ((h _).2.1 8 ?_),
    ((h _).2.2.1 8 ?_ ?_ ?_ ?_).imp fun _ h => h.elim fun _ h => h.1, of_eq ((h _).2.2.2.1 8 ?_),
    ((h _).2.2.2.2.1 8 9 ?_ ?_ ?_ ?_).imp fun _ h => h.elim fun _ h => h.1, of_eq ((h _).2.2.2.2.2.1 8 9 ?_),
    of_eq (((h _).2.2.2.2.2.2.1 1).1 ?_), of_next (((h _).2.2.2.2.2.2.1 2).2.1 ?_ ?_),
    (((h _).2.2.2.2.2.2.1 0).2.2 ?_ (failure .opt) ?_).elim fun _ h => of_eq h.1, of_next ((h _).2.2.2.2.2.2.2.2.1 4 8 ?_)⟩ <;> decide +kernel

/-- An itinerary of the node: an eviction due at milestone 3 and a fetch due at 5. -/
def itinerary : Itin :=
  { handle := 5, base := 0x20000, reached := some 2, granted := 4, free := [(3, 2)],
    entries := [⟨3, .evict, 0, 0, false, 1, 0x10000, none, 0, [], none⟩, ⟨5, .fetch, 0, 0, false, 2, 0x20000, none, 0, [0], none⟩] }

/-- `pooled` with the itinerary, and with a value in `x8`. -/
def scheduled (x : Nat) : State :=
  { pooled.setX 8 (BitVec.ofNat 64 x) with porter := { pooled.porter with itins := [itinerary], hbmFree := [(100, 600)] } }

/-- `pooled` with records of `n` entries at 0x20000 in page 2, or bytes that are none. -/
def toBind (n : Nat) (kind : Nat) (frames : Nat) : State :=
  let s := (pooled.setX 8 0x20000).setX 9 (BitVec.ofNat 64 n)
  let entry := put (put (put (List.replicate 32 0) 4 1 kind) 8 2 1) 16 8 0x10000
  { s with mem := { s.mem with hbm := s.mem.hbm.writeBytes 0x30000 ((List.replicate n entry).flatten) },
           porter := { s.porter with hbmFree := [(100, frames)] } }

/-- `Missed`, as a check. -/
def missedNow (s : State) (i : Itin) (m n : Nat) : Bool :=
  match i.entries[n]? with
  | none => false
  | some e => e.kind == .fetch && !e.nocheck && decide (e.milestone ≤ m) && s.entryState i n != .done

theorem missed_iff {s : State} {i : Itin} {m n : Nat} : Missed s i m n ↔ missedNow s i m n = true := by
  unfold Missed missedNow
  cases h : i.entries[n]? <;> simp [and_assoc]

theorem no_missed {s : State} {i : Itin} {m : Nat} (h : ∀ n, n < i.entries.length → missedNow s i m n = false) (n : Nat) : ¬ Missed s i m n := by
  rw [missed_iff]
  by_cases hn : n < i.entries.length
  · simp [h n hn]
  · simp [missedNow, List.getElem?_eq_none (Nat.le_of_not_lt hn)]

theorem accessesDone_of {s : State} (h1 : s.mem.ops = []) (h2 : s.fab.reqs = []) : AccessesDone s := by
  simp [AccessesDone, h1, h2]

/-- R324, R334: values that go back and that are none, no itinerary, a post with nothing missed and one with a fetch missed. -/
theorem hyp_milestones (h : Obligations.ItineraryInstructions) :
    let back := (scheduled 1).mapSt fun q => { q with milestone := 2 }
    Completes (exec (.mile 8) back) ∧ Completes (exec (.mile 8) (scheduled 0xFFFFFFFF)) ∧ Completes (exec (.mile 8) (pooled.setX 8 7)) ∧
    Completes (exec (.mile 8) (scheduled 4)) ∧ Completes (exec (.mile 8) (scheduled 5)) := by
  refine ⟨((h.1 _ 8 (accessesDone_of rfl rfl)).1 ?_).elim fun _ h => of_eq h.2.2, ((h.1 _ 8 (accessesDone_of rfl rfl)).1 ?_).elim fun _ h => of_eq h.2.2,
    of_next ((h.1 _ 8 (accessesDone_of rfl rfl)).2.1 ?_ ?_), ?_, ?_⟩
  iterate 4 decide +kernel
  · obtain ⟨i, hi, h1, -⟩ := (h.1 (scheduled 4) 8 (accessesDone_of rfl rfl)).2.2 (by decide +kernel) itinerary (by decide +kernel)
    obtain rfl : _ = i := Option.some.inj hi
    exact of_next (h1 (no_missed (by decide +kernel)))
  · obtain ⟨i, hi, -, h1⟩ := (h.1 (scheduled 5) 8 (accessesDone_of rfl rfl)).2.2 (by decide +kernel) itinerary (by decide +kernel)
    obtain rfl : _ = i := Option.some.inj hi
    obtain ⟨v, e, -, h2, -⟩ := h1 1 (missed_iff.2 (by decide +kernel)) fun k hk hm => absurd (missed_iff.1 hm) (by
      obtain rfl : k = 0 := by omega
      decide +kernel)
    exact of_eq h2

/-- The entry of `toBind`. -/
def fetchEntry : ItEntry := ⟨0, .fetch, 0, 0, false, 1, 0x10000, none, 0, [], none⟩

/-- `toBind`, and 65,535 entries of another node. -/
def manyEntries : State :=
  let s := toBind 2 0 600
  { s with porter := { s.porter with itins := [{ itinerary with handle := 9, entries := List.replicate 65535 fetchEntry }] } }

/-- R333 to R337: each answer of `it.bind`, `it.wait` and `it.stat`, at both sides of their bounds. -/
theorem hyp_itineraries (h : Obligations.ItineraryInstructions) :
    let b (n : Nat) := toBind n 0 600
    let bound (n : Nat) := (scheduled 0x20000).setX 9 (BitVec.ofNat 64 n)
    Completes (exec (.itBind 8 9) (pooled.setX 8 16)) ∧ Completes (exec (.itBind 8 9) (b 0)) ∧ Completes (exec (.itBind 8 9) (bound 2)) ∧
    Completes (exec (.itBind 8 9) (bound 4096)) ∧ Completes (exec (.itBind 8 9) (toBind 2 9 600)) ∧ Completes (exec (.itBind 8 9) manyEntries) ∧
    Completes (exec (.itBind 8 9) (toBind 2 0 6)) ∧
    Completes (exec (.itBind 8 9) (toBind 2 0 600)) ∧ Completes (exec (.itWait 8) pooled) ∧ Completes (exec (.itWait 8) (scheduled 2)) ∧
    Completes (exec (.itWait 8) (scheduled 1)) ∧ Completes (exec (.itStat 4 8) (scheduled 1)) := by
  refine ⟨of_eq (((h.2 _).1 8 9).1 ?_), of_eq (((h.2 _).1 8 9).2.1 ?_ (.inl ?_)), of_next ((((h.2 _).1 8 9).2.2.1 ?_ ?_ ?_ itinerary ?_).1 ?_),
    of_eq ((((h.2 _).1 8 9).2.2.1 ?_ ?_ ?_ itinerary ?_).2 ?_), of_eq ((((h.2 _).1 8 9).2.2.2 ?_ ?_ ?_ ?_ _ _ (got_ok (s := .reset) ?_)).1 ?_),
    of_eq (((((h.2 manyEntries).1 8 9).2.2.2 ?_ ?_ ?_ ?_ _ _ (got_ok (s := .reset) ?_)).2 [fetchEntry, fetchEntry] ?_).1 ?all),
    of_eq (((((h.2 _).1 8 9).2.2.2 ?_ ?_ ?_ ?_ _ _ (got_ok (s := .reset) ?_)).2 _ rfl).2.1 ?_ ?_),
    of_next (((((h.2 _).1 8 9).2.2.2 ?_ ?_ ?_ ?_ _ _ (got_ok (s := .reset) ?_)).2 _ rfl).2.2 ?_ ?_), of_eq ((h.2 _).2.1 8 ?_).1,
    of_eq (((h.2 _).2.2 8 itinerary ?_).1 ?_), of_eq (((h.2 _).2.2 8 itinerary ?_).2.1 ?_ (.inl ?_)),
    ((((h.2 _).2.2 8 itinerary ?_).2.2.2.2.2.2) 4 _ ?_ ?_ rfl).elim fun _ h => h.elim fun _ h => of_eq h.1⟩
  case all =>
    rw [show (manyEntries.porter.itins.map fun i => i.entries.length) = [65535] by
      simp only [manyEntries, List.map_cons, List.map_nil, List.length_replicate]]
    decide +kernel
  all_goals decide +kernel

/-- A claim of this package's core 0. -/
def claim (t0 : Nat) (o : Option (BitVec 4)) (bad : Option Word) : Claim :=
  { handle := BitVec.ofNat 64 (t0 * 65536 + (coreEp 0).toNat), t0 := t0, w := 400, key := 7, payload := 5, who := coreEp 0, objected := false,
    outcome := o, effectFailed := bad, seen := [] }

/-- The member as which `pooled` acts in slot 2, with claims. -/
def member (l : List Claim) : ClaimMember :=
  { ep := coreEp 0, stream := 0, group := group, seq := 0, claims := l, held := [], holds := [(1, 5)] }

/-- `pooled` with that member, at 2,000 ns, with a handle in `x8`. -/
def claiming (l : List Claim) (x : Nat) : State :=
  { pooled.setX 8 (BitVec.ofNat 64 x) with ftime := 2000, claims := { pooled.claims with members := [member l] } }

/-- The handle of a claim as a number. -/
def handleOf (t0 : Nat) : Nat := t0 * 65536 + (coreEp 0).toNat

theorem acts {s : State} {m : ClaimMember} (h1 : s.slotGroup 2 = some group) (h2 : s.member group.tag (coreEp s.core.id) = some m)
    (h3 : m.group = group) (h4 : s.hasSlot 2 = true := by decide +kernel) : Acts s 2 m := by
  refine ⟨?_, group, m, h1, h2, h3 ▸ rfl⟩
  simp only [State.hasSlot, Option.any_eq_true] at h4
  exact h4.imp fun _ h => ⟨h.1, by simpa using h.2⟩

/-- R387, R396, R397: no group, a claim at and below the quota, and standing objections. -/
theorem hyp_claims (h : Obligations.ClaimInstructions) :
    let two := claiming [claim 1900 none none, claim 1901 none none] 1
    let held := { two.setX 8 9 with claims := { two.claims with members := [{ member [] with holds := List.replicate 64 (1, 5) }] } }
    Completes (exec (.clObj 8 2) user) ∧ Completes (exec (.clProp 4 5 6 2) two) ∧ Completes (exec (.clProp 4 5 6 2) (claiming [claim 1900 none none] 0)) ∧
    Completes (exec (.clObj 8 2) (claiming [] (2 ^ 64 - 1))) ∧ Completes (exec (.clStat 4 8 true 2) two) ∧ Completes (exec (.clHold 8 2) two) ∧
    Completes (exec (.clHold 8 2) (two.setX 8 9)) ∧ Completes (exec (.clHold 8 2) held) ∧ Completes (exec (.clFree 8 2) two) := by
  refine ⟨of_eq ((h _).1 (.clObj 8 2) _ rfl fun m ⟨_, g, _, hg, _⟩ => by rw [show user.slotGroup _ = none by decide +kernel] at hg; cases hg),
    of_next ((((h _).2 2 (member [claim 1900 none none, claim 1901 none none]) (acts ?_ ?_ rfl)).1 4 5 6 (accessesDone_of rfl rfl) ?_).1 (.inl ?_)),
    of_next ((((h _).2 2 (member [claim 1900 none none]) (acts ?_ ?_ rfl)).1 4 5 6 (accessesDone_of rfl rfl) ?_).2 ?_).1,
    of_eq (((h _).2 2 (member []) (acts ?_ ?_ rfl)).2.1 8 ?_).1,
    of_next (((h _).2 2 (member [claim 1900 none none, claim 1901 none none]) (acts ?_ ?_ rfl)).2.2.2.2.1 4 8),
    of_next (((((h _).2 2 (member [claim 1900 none none, claim 1901 none none]) (acts ?_ ?_ rfl)).2.2.2.2.2 8).2 ?_).1 ⟨(1, 5), ?_, ?_⟩),
    of_next (((((h _).2 2 (member [claim 1900 none none, claim 1901 none none]) (acts ?_ ?_ rfl)).2.2.2.2.2 8).2 ?_).2.1 ?_ ?_),
    of_eq (((((h _).2 2 { member [] with holds := List.replicate 64 (1, 5) } (acts ?_ ?_ rfl)).2.2.2.2.2 8).2 ?_).2.2.1 ?_ ?_),
    of_next ((((h _).2 2 (member [claim 1900 none none, claim 1901 none none]) (acts ?_ ?_ rfl)).2.2.2.2.2 8).2 ?_).2.2.2⟩ <;> decide +kernel

/-- R388, R389, R399: a handle that is unknown, past and not; a claim in time and late; open, taken, with and without a failed effect. -/
theorem hyp_claim_handles (h : Obligations.ClaimInstructions) :
    let open' := claiming [claim 1900 none none] (handleOf 1900)
    let late := claiming [claim 1500 none none] (handleOf 1500)
    Completes (exec (.clObj 8 2) (claiming [] (handleOf 1500))) ∧ Completes (exec (.clObj 8 2) (claiming [] (handleOf 1990))) ∧
    Completes (exec (.clStat 4 8 false 2) (claiming [] (handleOf 1990))) ∧ Completes (exec (.clObj 8 2) late) ∧ Completes (exec (.clObj 8 2) open') ∧
    Completes (exec (.clWait 4 8 2) open') ∧ Completes (exec (.clStat 4 8 false 2) (claiming [claim 1900 (some 1) none] (handleOf 1900))) ∧
    Completes (exec (.clWait 4 8 2) (claiming [claim 1900 (some 1) (some 0x10000)] (handleOf 1900))) ∧
    Completes (exec (.clWait 4 8 2) (claiming [claim 1900 (some 2) none] (handleOf 1900))) := by
  refine ⟨of_eq ((((h _).2 2 (member []) (acts ?_ ?_ rfl)).2.2.1 8 ?_ ?_).1 ?_).1, of_eq ((((h _).2 2 (member []) (acts ?_ ?_ rfl)).2.2.1 8 ?_ ?_).2.1 ?_).1,
    of_next (((((h _).2 2 (member []) (acts ?_ ?_ rfl)).2.2.1 8 ?_ ?_).2.2 4).imp fun _ h => h.elim fun _ h => ⟨h.1, trivial⟩),
    of_eq ((((h _).2 2 (member [claim 1500 none none]) (acts ?_ ?_ rfl)).2.2.2.1 8 _ ?_ rfl).1 ?_),
    of_next ((((h _).2 2 (member [claim 1900 none none]) (acts ?_ ?_ rfl)).2.2.2.1 8 _ ?_ rfl).2.1 ?_),
    of_eq ((((h _).2 2 (member [claim 1900 none none]) (acts ?_ ?_ rfl)).2.2.2.1 8 _ ?_ rfl).2.2.1 ?_ 4).1,
    of_next (((((h _).2 2 (member [claim 1900 (some 1) none]) (acts ?_ ?_ rfl)).2.2.2.1 8 _ ?_ rfl).2.2.2 1 ?_).1 4),
    (((((h _).2 2 (member [claim 1900 (some 1) (some 0x10000)]) (acts ?_ ?_ rfl)).2.2.2.1 8 _ ?_ rfl).2.2.2 1 ?_).2.1 4 0x10000 ?_).elim fun _ h => of_eq h.1,
    of_next (((((h _).2 2 (member [claim 1900 (some 2) none]) (acts ?_ ?_ rfl)).2.2.2.1 8 _ ?_ rfl).2.2.2 2 ?_).2.2 4 ?_)⟩ <;> decide +kernel

/-- R389: a proposal of 1,000 ns is still to be taken in at 2,000 ns. -/
theorem hyp_claims_overdue (h : Obligations.ClaimInstructions) :
    let s := claiming [] 9
    let late := { s with claims := { s.claims with flights := [⟨false, ⟨coreEp 3, group.tag, 0x1234, 7, 400, 5, 1000⟩, [coreEp 0], []⟩] } }
    Completes (exec (.clHold 8 2) late) ∧ Completes (exec (.clFree 8 2) late) := by
  refine ⟨of_eq ((((h _).2 2 (member []) (acts ?_ ?_ rfl)).2.2.2.2.2 8).1 ?_).1, of_eq ((((h _).2 2 (member []) (acts ?_ ?_ rfl)).2.2.2.2.2 8).1 ?_).2⟩ <;>
    decide +kernel

/-- `pooled` with a group of two members as group 3, its table at 0x30000; the line at 0x20000 of memory, acknowledgements in page 2. -/
def grouped : State :=
  let s := (((pooled.setX 8 3).setX 10 0x10000).setX 11 0x20000).setX 9 0x400
  let m := (((s.mem.hbm.write 0x30030 0x38000 8).write 0x30038 2 2).write 0x38000 0x11 2).write 0x38010 0x12 2
  { s with mem := { s.mem with hbm := m }, fab := { s.fab with sgtab := 0x30000 } }

/-- A load-and-reduce of the thread at its PC, with the replies of its members. -/
def reducing (l : List (Option (MStatus × List Byte))) : State :=
  { grouped with fab := { grouped.fab with ldrs := [⟨4, 5, 0, 0, 0x10100, 3, 4, .add, .f32, 2, true, l⟩] } }

/-- A packet that asks `n` bytes of package 0x11. -/
def packet (kind : BitVec 8) (n : Nat) : Packet :=
  { kind := kind, esize := 0, indexed := false, alternate := false, attempt := 0, requester := 0x11, target := 0, count := n, op := 0, opTy := 0,
    core := 0, seq := 7, token := 0, offset := 0, stride := 1, indexes := [], data := [], status := 0, members := [] }

/-- A store of the thread through token 4095. -/
def request : Req := ⟨0, 5, 0, packet 1 4, .store, 0, 0, some 4095, 0, [], []⟩

/-- R365 to R373: token tables in each mode, at their bounds and in use; failures; a multicast store, an unassigned group; load-and-reduce of
no element, into a register that is being filled, into a free one, and one that waits and one whose replies are in; a part
without a fabric. -/
theorem hyp_fabric (h : Obligations.FabricInstructions) :
    let v := ((grouped.setX 2 4095).setX 3 0x2FF).mapCore fun c => { c with sup := { c.sup with mode := .supervisor } }
    let b := grouped.setVreg (.v 3) { grouped.vreg (.v 3) with tag := { Tag.of .f32 0 with full := false } }
    Completes (exec (.tokSet 2 1 3) v) ∧ Completes (exec (.tokSet 2 1 3) (v.setX 3 0x300)) ∧ Completes (exec (.tokClr 2) (v.setX 2 4096)) ∧
    Completes (exec (.tokClr 2) { v with fab := { v.fab with reqs := [request] } }) ∧ Completes (exec (.tokClr 2) v) ∧ Completes (exec (.tokSet 2 1 3) user) ∧
    Completes (exec (.fabStat 4 1) user) ∧ Completes (exec (.fabStat 4 1) (failed .fabric)) ∧ Completes (exec (.mcSt 8 10 11 0) grouped) ∧
    Completes (exec (.mcSt 8 10 11 0) (grouped.setX 8 2)) ∧ Completes (exec (.mcLdr 3 4 8 .add .f32) (grouped.mapVec fun c => { c with vl := 0 })) ∧
    Completes (exec (.mcLdr 3 4 8 .add .f32) b) ∧ Completes (exec (.mcLdr 3 4 8 .max .bf16) grouped) ∧
    Completes (exec (.mcLdr 3 4 8 .add .f32) (reducing [none])) ∧ Completes (exec (.mcLdr 3 4 8 .add .f32) (reducing [some (.ok, [])])) ∧
    Completes (exec (.fabStat 4 0) { user with part := .l }) := by
  refine ⟨of_next (((h.2 _ ?_).1 2 1 3 ?_).1 ?_), of_eq (((h.2 _ ?_).1 2 1 3 ?_).2 ?_), of_eq (((h.2 _ ?_).2.1 2 ?_).1 ?_),
    of_eq (((h.2 _ ?_).2.1 2 ?_).2.1 ?_ ⟨_, List.mem_singleton.2 rfl, ?_⟩), of_next (((h.2 _ ?_).2.1 2 ?_).2.2 ?_ (none_left ?_)),
    ((h.2 _ ?_).2.2.1 2 1 3 ?_).1.elim fun _ h => of_eq h.2.2, of_next (((h.2 _ ?_).2.2.2.2.1 4 ?_).1 ?_),
    of_next (((h.2 _ ?_).2.2.2.2.1 4 ?_).2 (failure .fabric) ?_),
    ((h.2 _ ?_).2.2.2.2.2.2.2.1 8 10 11 0 _ _ [⟨0x11, 0⟩, ⟨0x12, 0⟩] (got_ok (s := .reset) ?_) ?_ ?_ ?_ ?_ ?_ ?_).imp fun _ h => h.elim fun _ h => h.1,
    of_eq ((h.2 _ ?_).2.2.2.2.2.2.2.2.1 8 10 11 0 _ (got_ok (s := .reset) ?_) ?_ ?_ ?_),
    of_next (((h.2 _ ?_).2.2.2.2.2.2.2.2.2.1 3 4 8 .add .f32 [⟨0x11, 0⟩, ⟨0x12, 0⟩] ?_ ?_).1 ?_),
    of_eq (((h.2 _ ?_).2.2.2.2.2.2.2.2.2.1 3 4 8 .add .f32 [⟨0x11, 0⟩, ⟨0x12, 0⟩] ?_ ?_).2.1 ?_ ?_),
    of_next (((h.2 _ ?_).2.2.2.2.2.2.2.2.2.1 3 4 8 .max .bf16 [⟨0x11, 0⟩, ⟨0x12, 0⟩] ?_ ?_).2.2 ?_ ?_),
    of_eq (((h.2 _ ?_).2.2.2.2.2.2.2.2.2.2 3 4 8 .add .f32 _ rfl).1 ⟨none, ?_, rfl⟩),
    (((h.2 _ ?_).2.2.2.2.2.2.2.2.2.2 3 4 8 .add .f32 _ rfl).2 ?_).elim fun _ h => of_eq h.2, of_eq (h.1 _ (.fabStat 4 0) ?_ ?_ ?_)⟩ <;> decide +kernel

/-- `s` with what an event names. -/
def choosing (s : State) (c : Choice) : State := { s with choice := c }

/-- `pooled` in some state of running. -/
def runningAs (r : Run) : State := pooled.mapCore fun c => { c with run := r }

/-- A thread of the node that is swapped out. -/
def swapped : Swapped := ⟨⟨5, 1, 0x200000, 0, 0, 0x40000⟩, true, 0, [], [], [], none, [], none⟩

/-- The node with all of its threads retired, and with a completion word or none. -/
def finished (done : Word) : Node := { node with retired := 4, record := { node.record with done := done } }

/-- `pooled` with the node `n`, whose page tables map pages 1 and 2. -/
def tabled (n : Node) : State :=
  let m := (((pooled.mem.hbm.write 0x40000 0x50001 8).write 0x50000 0x60001 8).write 0x60000 0x70001 8).write 0x70008 0x801E3 8 |>.write 0x70010 0x901E3 8
  { pooled with mem := { pooled.mem with hbm := m }, sched := { pooled.sched with nodes := [n] } }

theorem notFabric {r : Except Exc Loc} {l : Loc} (h : r = .ok l) (hl : l.isFabric = false) : ∀ w o, r ≠ .ok (.fabric w o) := by
  rintro w o rfl
  cases h
  cases hl

/-- `pooled`, which the innkeeper ends for a class and an image. -/
def ended (cause image : Word) : State :=
  pooled.mapCore fun c => { c with sup := { c.sup with mode := .supervisor, scause := cause, saddr := image } }

/-- A halted thread whose matrix commands stand in its image. -/
def imaged : State :=
  let s := (runningAs .halting).mapCore fun c => { c with sup := { c.sup with vown := 0 }, me := { c.me with image := 0x200000 } }
  let v : Vec := { s.core.vec with mx := { s.core.vec.mx with fault := some ⟨5, 1, 0, 0⟩ } }
  { s with
    mem := { s.mem with hbm := s.mem.hbm.write 0x200000 0x0000080000000001 8 }
    sched := { s.sched with vimages := [{ image := 0x200000, vec := v, core := 0 }] } }

/-- R32, R287: a node all of whose threads have retired, with and without a completion word. -/
theorem hyp_node_ends (h : Obligations.ThreadsWakeAndEnd) :
    Completes (exec .nodeComplete (choosing (tabled (finished 0)) (.handle 5))) ∧
    ∃ t, exec .nodeComplete (choosing (tabled (finished 0x10008)) (.handle 5)) = .next t ∧ Stored t (.hbm 0x80008) 8 0 := by
  refine ⟨of_next ((h _).2.2.2.2.2.2.2.2.2.2 5 (finished 0) ?_ ?_ ?_ ?_ ?_ (.inl ?_) ?_),
    ((h _).2.2.2.2.2.2.2.2.2.2 5 (finished 0x10008) ?_ ?_ ?_ ?_ ?_ (.inr (notFabric (l := .hbm 0x80008) ?_ rfl)) ?_).imp fun _ h =>
      ⟨h.1, (h.2.2.2.2.2.2.2.2 (.hbm 0x80008) ?_ ?_ rfl rfl ?_).1⟩⟩ <;> decide +kernel

/-- Eight bytes, and nothing after them. -/
def bare (l : List Byte) : List Byte := l ++ List.replicate 5112 0

theorem take_none (a n : Nat) : Memory.take a n [] = List.replicate n 0 := by
  induction n generalizing a with
  | zero => rfl
  | succ n ih => rw [Memory.take, ih]; rfl

theorem take_hit (a n : Nat) (b : Byte) (l : List Host.Cell) : Memory.take a (n + 1) ((a, b) :: l) = b :: Memory.take (a + 1) n l := by
  rw [Memory.take, if_pos rfl]

theorem take_miss {a : Nat} (n : Nat) {c : Host.Cell} (l : List Host.Cell) (h : c.1 ≠ a) :
    Memory.take a (n + 1) (c :: l) = 0 :: Memory.take (a + 1) n (c :: l) := by
  rw [Memory.take, if_neg h]
  rfl

theorem value_zeros (n : Nat) : valueOfBytes (List.replicate n 0) = 0 := by
  induction n with
  | zero => rfl
  | succ n ih => rw [List.replicate_succ, valueOfBytes, ih]; rfl

theorem field_bare {l : List Byte} (h : l.length = 8) (off n : Nat) (ho : 8 ≤ off) : field (bare l) off n = 0 := by
  rw [field, bare, List.drop_append, List.drop_eq_nil_of_le (by omega), List.nil_append, List.drop_replicate, List.take_replicate, value_zeros]

/-- An image of which only the fingerprint is not zero has no reserved field that is not zero (R312, R313). -/
theorem bare_unreserved {l : List Byte} (h : l.length = 8) (hv : bits (field8 (bare l) 0) 8 8 = 0) : imageReserved (bare l) = false := by
  have slots : ((List.range 256).any fun n => slotReserved n (word 0)) = false := by decide +kernel
  unfold imageReserved field8
  unfold field8 at hv
  simp only [hv]
  simp (disch := omega) only [field_bare h]
  rw [slots]
  decide +kernel

/-- The vector state comes from an image that fits the core, when no other core holds it (R311). -/
theorem takeVec_ok {s : State} (h1 : s.core.sup.vown ≠ s.core.me.image) (h2 : (s.parked.find? fun c => c.sup.vown == s.core.me.image) = none)
    (h3 : s.fillsOpen s.core = false) (h4 : s.imageFault s.core.me.image = none) : ∃ u, s.takeVec = .ok u := by
  unfold State.takeVec
  simp [h1, h2, h3, h4]

/-- R31: a halted thread whose matrix commands stand in its image. -/
theorem hyp_imaged_end (h : Obligations.ThreadsWakeAndEnd) : Completes (exec .threadRetire imaged) := by
  have hb : imaged.mem.hbm.bytes 0x200000 scalarSection = bare [1, 0, 0, 0, 0, 8, 0, 0] := by
    rw [Memory.bytes, show Memory.above 0x200000 imaged.mem.hbm.cells = [(0x200000, 1), (0x200005, 8)] by decide +kernel]
    rw [show scalarSection = 5114 + 1 + 1 + 1 + 1 + 1 + 1 from rfl, take_hit, take_miss _ _ (by decide), take_miss _ _ (by decide),
      take_miss _ _ (by decide), take_miss _ _ (by decide), take_hit, take_none]
    rfl
  have hf : imaged.imageFault imaged.core.me.image = none := by
    rw [show imaged.core.me.image = 0x200000 by decide +kernel]
    unfold State.imageFault
    rw [show (0x200000 : Word).toNat = 0x200000 from rfl, hb]
    unfold imageBad
    rw [bare_unreserved rfl (by decide +kernel)]
    decide +kernel
  refine (takeVec_ok (by decide +kernel) (by decide +kernel) (by decide +kernel) hf).elim fun u hu => ?_
  exact of_eq ((h imaged).2.2.2.2.2.2.2.1 u (.inl (by decide +kernel)) (by decide +kernel) hu)

/-- `imaged` with a vector section in an image of a version that there is none of. -/
def spoiled : State := { imaged with mem := { imaged.mem with hbm := imaged.mem.hbm.write 0x200000 0x0000080100000002 8 } }

/-- The vector state does not come from an image that does not fit the core (R311, R314). -/
theorem takeVec_error {s : State} {d : Byte} (h1 : s.core.sup.vown ≠ s.core.me.image)
    (h2 : (s.parked.find? fun c => c.sup.vown == s.core.me.image) = none) (h3 : s.fillsOpen s.core = false)
    (h4 : s.hasVector s.core.me.image = true) (h5 : s.imageFault s.core.me.image = some d) : ∃ e u, s.takeVec = .error (.partly e u) := by
  unfold State.takeVec
  simp [h1, h2, h3, h4, h5]

/-- R31, R314: that image, at the halt of its thread. -/
theorem hyp_spoiled_end (h : Obligations.ThreadsWakeAndEnd) : Completes (exec .threadRetire spoiled) :=
  (takeVec_error (s := spoiled) (d := 0x04) (by decide +kernel) (by decide +kernel) (by decide +kernel) (by decide +kernel)
    (by decide +kernel)).elim fun e ⟨u, hu⟩ =>
    of_next ((h spoiled).2.2.2.2.2.2.2.2.1 e u (.inl (by decide +kernel)) (by decide +kernel) hu)

/-- A thread ends whose image does not fit the core. -/
def misfit : State := { ended 0xC000000000001604 0x200000 with sched := { pooled.sched with swapped := [swapped] } }

/-- R34, R314: that thread. -/
theorem hyp_misfit_end (h : Obligations.ThreadsWakeAndEnd) : Completes (exec .threadRetire misfit) :=
  of_next ((h misfit).2.2.2.2.2.2.2.2.2.1 swapped (by decide +kernel) (by decide +kernel) (by decide +kernel) (by decide +kernel))

/-- R30, R31, R34 to R38: values and fills, waiting, sleeping, retiring and ended threads. -/
theorem hyp_threads (h : Obligations.ThreadsWakeAndEnd) :
    let e := pooled.setVreg (.v 3) { pooled.vreg (.v 3) with tag := { Tag.of .f32 0 with full := false } }
    Completes (exec .scalarValueReturn (choosing pooled (.reg 3))) ∧ Completes (exec .registerFillComplete (choosing e (.fill (.v 3)))) ∧
    Completes (exec .issueWaitRelease (runningAs .waiting)) ∧ Completes (exec .threadWake (runningAs .asleep)) ∧
    Completes (exec .threadWake (choosing { pooled with sched := { pooled.sched with swapped := [swapped] } } (.index 0))) ∧
    Completes (exec .threadRetire (runningAs .halting)) ∧ Completes (exec .threadRetire (ended 0xC000000000000106 0)) := by
  refine ⟨of_eq ((h _).1 3 ?_ ?_), of_next ((h _).2.1 (.v 3) ?_ ?_ ?_ ?_), of_eq ((h _).2.2.1 ?_), of_eq ((h _).2.2.2.1 ?_ nofun),
    of_next ((h _).2.2.2.2.1 0 swapped ?_ ?_), of_next ((h _).2.2.2.2.2.1 ?_ ?_), of_next ((h _).2.2.2.2.2.2.1 ?_ ?_ ?_ ?_)⟩ <;> decide +kernel

/-- A node of which no thread has started, with a vector stack of one page, and one of which the rest have. -/
def fresh : Node := { node with nextWid := 0, record := { node.record with vstack := 100 } }

/-- A free core 0 and a node in the pool, page tables at 0x40000 and free frames. -/
def idle (n : Node) : State :=
  { (tabled n).mapCore fun c => { c with run := .idle, sup := { c.sup with vown := 0 } } with porter := { pooled.porter with hbmFree := [(100, 64)] } }

/-- A swapped-out thread that is not asleep, with an image of the reset shape at 0x200000. -/
def resumable : State :=
  let s := idle { node with nextWid := 4 }
  { choosing s (.dispatch 0 0x50000 0x300000 0x40000) with
    mem := { s.mem with hbm := s.mem.hbm.write 0x200000 0x0000080000000001 8 }, sched := { s.sched with swapped := [{ swapped with asleep := false }] } }

/-- `resumable` with an image of a version that there is none of. -/
def unfit : State := { resumable with mem := { resumable.mem with hbm := resumable.mem.hbm.write 0x200000 2 1 } }

/-- Core 0 with a thread at the innkeeper that was pre-empted, and a node of which no thread has started. -/
def preempted : State :=
  (choosing (idle fresh) (.dispatch 0 0x50000 0x300000 0x40000)).mapCore fun c => { c with
    run := .running, me := { c.me with image := 0x200000 }, sup := { c.sup with mode := .supervisor, scause := 0xC000000000001801 } }

theorem some_of {α : Type} {o : Option α} (h : o.isSome = true) : o = some (o.get h) := (Option.some_get h).symm

/-- What the pages of the vector stack of `fresh` leave of a state. -/
def stacked (s : State) : Option (State × List Nat) :=
  (s.updateHolds.unreserve fresh).stackPages (s.updateHolds.rootFor fresh.record.stream 0x40000) 0x50000 ((fresh.record.vstack + 65535) / 65536)

/-- R28, R302 to R315: a thread that starts with a vector stack and one that resumes; quanta, requests and landings at their bounds. -/
theorem hyp_dispatch (h : Obligations.ThreadsAreDispatched) :
    let q := user.mapSt fun t => { t with qcount := user.core.sup.squant }
    let r (n : Nat) := user.mapCore fun c => { c with request := some n }
    Completes (exec .dispatchThread (choosing (idle fresh) (.dispatch 0 0x50000 0x300000 0x40000))) ∧ Completes (exec .dispatchThread resumable) ∧
    Completes (exec .dispatchThread unfit) ∧ Completes (exec .dispatchThread preempted) ∧
    Completes (exec .priorityAging (choosing (tabled { node with waited := 2 ^ 20 }) (.handle 5))) ∧
    Completes (exec .quantumExpiry q) ∧ Completes (exec .preemptionRequest user) ∧ Completes (exec .preemptionLanding (r 0)) ∧
    Completes (exec .iterationOverrun (r 0x10000)) ∧ Completes (exec .sleepingThreadSwitchOut (runningAs .asleep)) := by
  refine ⟨(Option.isSome_iff_exists.1 (show (stacked (choosing (idle fresh) (.dispatch 0 0x50000 0x300000 0x40000))).isSome = true by decide +kernel)).elim fun x hx =>
      of_next ((h (choosing (idle fresh) (.dispatch 0 0x50000 0x300000 0x40000))).1 0 0x50000 0x300000 0x40000 fresh x.1 x.2 rfl ?_ ?_ ?_ ?_ ?_ ?_ hx),
    of_next ((h _).2.1 0 0x50000 0x300000 0x40000 { node with nextWid := 4 } { swapped with asleep := false } rfl ?_ ?_ ?_ ?_),
    of_next ((h _).2.1 0 0x50000 0x300000 0x40000 { node with nextWid := 4 } { swapped with asleep := false } rfl ?_ ?_ ?_ ?_),
    of_eq ((h _).2.2.1 0 0x50000 0x300000 0x40000 rfl ?_), of_eq ((h _).2.2.2.1 5 rfl),
    of_eq ((h _).2.2.2.2.1 ?_ ?_ ?_), of_eq ((h _).2.2.2.2.2.1 ?_), of_eq ((h _).2.2.2.2.2.2.1 ?_ ?_ (.inl ?_)),
    of_eq ((h _).2.2.2.2.2.2.2.1 _ ?_ rfl ?_), ((h _).2.2.2.2.2.2.2.2 ?_ (.inl ?_) ?_ ?_).imp fun _ h => h.elim fun _ h => h.1⟩ <;> decide +kernel

/-- R289, R290, R367, R413: an event of each kind. -/
theorem hyp_errors (h : Obligations.ErrorsLinksAndTime) :
    let c := choosing user
    Completes (exec .timingError (c (.late true))) ∧ Completes (exec .timingError (c (.late false))) ∧
    Completes (exec .uncorrectableError (c (.error (.hbm 64) false))) ∧ Completes (exec .uncorrectableError (c (.error (.cxl 64) true))) ∧
    Completes (exec .uncorrectableError (c (.error (.spad 64) false))) ∧ Completes (exec .uncorrectableError (c (.error (.vreg (.v 1)) false))) ∧
    Completes (exec .uncorrectableError (c (.error (.tile 7) false))) ∧
    Completes (exec .uncorrectableError (c (.error .weightBuffer false))) ∧ Completes (exec .uncorrectableError (c (.error .copyBuffer false))) ∧
    Completes (exec .uncorrectableError (c (.error .eweham true))) ∧ Completes (exec .dieClockLower (c (.die 7))) ∧
    Completes (exec .ftimeReceived (c (.time 5 1))) ∧ Completes (exec .ftimeLoss { user with ftime := 1000000 }) ∧
    Completes (exec .fabricLinkDown (c (.port 3))) ∧ Completes (exec .fabricLinkDown (c (.link 5 6))) := by
  refine ⟨of_eq ((h _).1 rfl (.inl ?_)), of_eq ((h _).2.1 rfl), of_eq ((h _).2.2.1 64 rfl), of_next ((h _).2.2.2.2.2.1 (.inr ⟨64, .inr rfl⟩)),
    of_eq ((h _).2.2.2.2.1 64 rfl), of_next ((h _).2.2.2.2.2.2.1 (.v 1) false rfl), of_next ((h _).2.2.2.2.2.2.2.1 7 false rfl),
    of_eq ((h _).2.2.2.2.2.2.2.2.1 false rfl), of_eq ((h _).2.2.2.2.2.2.2.2.2.1 false rfl), of_next ((h _).2.2.2.2.2.1 (.inl rfl)),
    of_eq ((h _).2.2.2.2.2.2.2.2.2.2.1 7 rfl).1, of_eq ((h _).2.2.2.2.2.2.2.2.2.2.2.1 5 1 rfl ?_),
    of_eq ((h _).2.2.2.2.2.2.2.2.2.2.2.2.1 ?_ ?_), of_eq (((h _).2.2.2.2.2.2.2.2.2.2.2.2.2.1 3 rfl).2.2 ?_),
    of_next ((h _).2.2.2.2.2.2.2.2.2.2.2.2.2.2.1 5 6 rfl).2⟩ <;> decide +kernel

/-- A command of the thread's matrix queue. -/
def mxCmd (b : MxBody) : MxCmd := ⟨1, 5, 0, 0x10100, 0x10100, 0x40000, 0, [], none, false, b⟩

/-- A step on tile 0 with one rank-one update. -/
def mxStepOf (free : Bool) : MxStep := ⟨0, 1, BitVec.ofNat 64 (localBase + 0x200), 0, 1, .f16, free, 0, 9, 0, 0, 0⟩

/-- Page tables in memory, two tiles, a weight buffer of two rows and columns, one active row, and a command at the head. -/
def engine (b : MxBody) (c : Choice) : State :=
  let s := choosing (tabled node) c
  let s : State := { s with core := { s.core with vec := { matrix.core.vec with mx := { matrix.mx with
    queue := [mxCmd b], rows := 1, cols := 2, buf := ⟨.f16, 2, 2, 0x3C003C00, 0, none, false⟩ } } } }
  s.mapCore fun k => { k with sup := { k.sup with ptbase := 0x40000 } }

/-- `engine` with page 3 in the window of token 5. -/
def farEngine (b : MxBody) : State :=
  let s := engine b .none
  { s with mem := { s.mem with hbm := s.mem.hbm.write 0x70018 0x00500000000003E3 8 } }

/-- The memory that a read leaves. -/
def memOf {ε α : Type} (r : Except ε (α × Mem)) (m : Mem) : Mem := (r.toOption.map (·.2)).getD m

theorem all_left {α : Type} {l : List α} {P : α → Prop} (h : l = []) : ∀ c ∈ l, P c := by subst h; exact fun _ h => nomatch h

/-- An access of a command has failed; and it awaits its answer. -/
def hasFailed {α : Type} : Except CmdHalt α → Bool
  | .error (.failed _) => true
  | _ => false
def isAwaited {α : Type} : Except CmdHalt α → Bool
  | .error (.await _) => true
  | _ => false

theorem failed_of {α : Type} {r : Except CmdHalt α} (h : hasFailed r = true) : ∃ e, r = .error (.failed e) := by
  cases r with
  | ok _ => cases h
  | error e => cases e with
    | failed e => exact ⟨e, rfl⟩
    | await _ => cases h

theorem awaited_of {α : Type} {r : Except CmdHalt α} (h : isAwaited r = true) : ∃ u, r = .error (.await u) := by
  cases r with
  | ok _ => cases h
  | error e => cases e with
    | failed _ => cases h
    | await u => exact ⟨u, rfl⟩

/-- R201 to R213: each command at the head of the matrix queue, a load that faults and one through a window, a dropped step, a batch that
completes. -/
theorem hyp_matrix_engine (h : Obligations.TheMatrixEnginePerforms) :
    let at' (b : MxBody) := engine b .none
    let d := (at' (.step (mxStepOf false))).mapVec fun v => { v with mx := { v.mx with queue := [{ mxCmd (.step (mxStepOf false)) with dropped := true }] } }
    let b := (at' (.commit 8)).mapVec fun v => { v with mx := { v.mx with closed := [8], slots := [⟨8, 0, 1⟩] } }
    Completes (exec .mxCfgPerform (at' (.cfg 5 6 false))) ∧ Completes (exec .mxZeroPerform (at' (.zero 0 1))) ∧
    Completes (exec .mxLdwPerform (at' (.ldw 1 0x10000 0 .f16 1))) ∧ Completes (exec .mxLdwPerform (at' (.ldw 2 0x90000 0 .f16 2))) ∧
    Completes (exec .mxLdwPerform (farEngine (.ldw 2 0x30000 0 .f16 2))) ∧
    Completes (exec .mxSeedwPerform (at' (.seedw none))) ∧ Completes (exec .mxStepPerform d) ∧ Completes (exec .batchComplete b) := by
  refine ⟨of_eq (((h _).1 (mxCmd (.cfg 5 6 false)) [] ?_).1 _ _ _ rfl), of_next (((h _).1 (mxCmd (.zero 0 1)) [] ?_).2.1 _ _ rfl),
    (ok_of (r := State.mxLoadB _ (mxCmd _) 1 0x10000 0 .f16 1) ?_).elim fun _ hu => hu.elim fun _ hu =>
      of_next ((((h _).1 (mxCmd (.ldw 1 0x10000 0 .f16 1)) [] ?_).2.2.1 _ _ _ _ _ rfl).1 _ _ _ hu),
    (failed_of (r := State.mxLoadB _ (mxCmd _) 2 0x90000 0 .f16 2) ?_).elim fun _ hu =>
      of_eq ((((h _).1 (mxCmd (.ldw 2 0x90000 0 .f16 2)) [] ?_).2.2.1 _ _ _ _ _ rfl).2.1 _ hu),
    (awaited_of (r := State.mxLoadB _ (mxCmd _) 2 0x30000 0 .f16 2) ?_).elim fun _ hu =>
      of_eq ((((h _).1 (mxCmd (.ldw 2 0x30000 0 .f16 2)) [] ?_).2.2.1 _ _ _ _ _ rfl).2.2 _ hu),
    of_eq (((h _).1 (mxCmd (.seedw none)) [] ?_).2.2.2.1 _ rfl),
    of_eq ((((h _).1 { mxCmd (.step (mxStepOf false)) with dropped := true } [] ?_).2.2.2.2 (mxStepOf false) rfl).1 rfl),
    of_next ((h _).2 (mxCmd (.commit 8)) [] 8 ?_ rfl)⟩ <;> decide +kernel

/-- R206, R207: a weight buffer with an error and an `A` that faults; a row of a free step, and one of an ordered step, each the last. -/
theorem hyp_matrix_steps (h : Obligations.TheMatrixEnginePerforms) :
    let bad := (engine (.step (mxStepOf false)) (.stop none)).mapVec fun v => { v with mx := { v.mx with buf := { v.mx.buf with bad := true } } }
    Completes (exec .mxStepPerform bad) ∧ Completes (exec .mxStepPerform (engine (.step { mxStepOf false with ma := 0x90000 }) (.stop none))) ∧
    Completes (exec .mxStepPerform (engine (.step (mxStepOf true)) (.stop none))) ∧
    Completes (exec .mxStepPerform (engine (.step (mxStepOf false)) (.stop none))) := by
  refine ⟨?_, ?_, ?_, ?_⟩
  · let s := (engine (.step (mxStepOf false)) (.stop none)).mapVec fun v => { v with mx := { v.mx with buf := { v.mx.buf with bad := true } } }
    obtain ⟨e, he⟩ : ∃ e, s.mxParity (mxStepOf false) = some e := Option.isSome_iff_exists.1 (by decide +kernel)
    exact of_eq (((((h s).1 (mxCmd (.step (mxStepOf false))) [] (by decide +kernel)).2.2.2.2 (mxStepOf false) rfl).2.1 rfl (by decide)
      (by decide +kernel) rfl).1 e he)
  · let st := { mxStepOf false with ma := 0x90000 }
    let s := engine (.step st) (.stop none)
    obtain ⟨e, he⟩ := failed_of (r := s.mxA (mxCmd (.step st)) st 1 0 0 0 s.mem) (by decide +kernel)
    exact of_eq (((((h s).1 (mxCmd (.step st)) [] (by decide +kernel)).2.2.2.2 st rfl).2.1 rfl (by decide) (by decide +kernel) rfl).2 rfl
      (by decide +kernel) e he)
  · let s := engine (.step (mxStepOf true)) (.stop none)
    obtain ⟨l, m, hu⟩ := ok_of (r := s.mxReadRow (mxCmd (.step (mxStepOf true))) (mxStepOf true) 0 1 s.mem) (by decide +kernel)
    exact of_eq ((((h s).1 (mxCmd (.step (mxStepOf true))) [] (by decide +kernel)).2.2.2.2 (mxStepOf true) rfl).2.2.1
      rfl rfl rfl (by decide) (by decide +kernel) (by decide +kernel) nofun l m hu (.inl ⟨by decide +kernel, rfl⟩))
  · let s := engine (.step (mxStepOf false)) (.stop none)
    let a := s.mxA (mxCmd (.step (mxStepOf false))) (mxStepOf false) 1 0 0 0 s.mem
    obtain ⟨x, m1, h1⟩ := ok_of (r := a) (by decide +kernel)
    have hm : m1 = memOf a s.mem := by rw [h1]; rfl
    obtain ⟨y, m2, h2⟩ := ok_of (r := s.mxDa (mxCmd (.step (mxStepOf false))) (mxStepOf false) 1 0 0 1 m1) (by rw [hm]; decide +kernel)
    exact of_next ((((h s).1 (mxCmd (.step (mxStepOf false))) [] (by decide +kernel)).2.2.2.2 (mxStepOf false) rfl).2.2.2
      rfl rfl (by decide) (by decide +kernel) (by decide +kernel) nofun x m1 y m2 h1 h2 (.inl ⟨by decide +kernel, rfl⟩))

/-- A copy command of the thread, of four bytes from page 1 to page 2, `count` of which are done. -/
def copying (lin : Bool) (count : Nat) (done : Word) (failed : Option (BitVec 7 × BitVec 8)) : CpCmd :=
  ⟨1, 5, 0, 0x10100, 0x10100, 0x40000, 0, [], lin, linearWaybill 0x10000 0x20000 done 4, 0, true, count, failed, []⟩

/-- A waybill whose elements are misaligned, and one that a matrix step waits for and that has failed. -/
def misaligned : CpCmd := { copying false 0 0 none with wb := { linearWaybill 0x10001 0x20000 0 4 with esize := 2 } }
def awaited : CpCmd := { copying false 1 0 (some (10, 0)) with wb := { linearWaybill 0x10000 0x20000 0 4 with mx := some 0 } }

/-- A waybill at its end with an arrival at the barrier of `courier`, which was at the enqueue of generation `gen`. -/
def barred (gen : BitVec 16) : CpCmd :=
  { copying false 4 0 none with gen := gen, wb := { linearWaybill 0x10000 0x20000 0 4 with bar := some (BitVec.ofNat 64 (localBase + 0x200)) } }

/-- The command at the head of the copy queue, with page tables, and a transaction barrier with one arrival pending in the scratchpad. -/
def courier (c : CpCmd) (i : Nat) : State :=
  let s := (choosing (tabled node) (.index i)).mapCore fun k => { k with copy := [c] }
  { s with mem := { s.mem with spad := s.mem.spad.write 0x700200 0x300010000 8, marks := [(0x700200 / 8, .core)] } }

/-- R220 to R225: an element of each kind of command, one that is misaligned; failures with and without a step that waits; ends with and
without a completion word, an arrival at a barrier, at one of another generation and at one with an
error. -/
theorem hyp_copy_engine (h : Obligations.TheCopyEnginePerforms) :
    let at' := courier
    let ok (lin : Bool) (n : Nat) (done : Word) : CpCmd := copying lin n done none
    Completes (exec .waybillStart (at' (ok false 3 0) 1)) ∧ Completes (exec .cpLinPerform (at' (ok true 0 0) 1)) ∧
    Completes (exec .waybillStart (at' misaligned 1)) ∧ Completes (exec .waybillComplete (at' (copying false 1 0 (some (10, 0))) 0)) ∧
    Completes (exec .waybillComplete (at' awaited 0)) ∧ Completes (exec .waybillComplete (at' (ok false 4 0) 0)) ∧
    Completes (exec .waybillComplete (at' (ok false 4 0x10008) 0)) ∧ Completes (exec .waybillComplete (at' (barred 0) 0)) ∧
    Completes (exec .waybillComplete (at' (barred 7) 0)) ∧
    Completes (exec .waybillComplete { at' (barred 0) 0 with mem := { (at' (barred 0) 0).mem with badSpad := [0x700200 / 8] } }) ∧
    Completes (exec .cpLinPerform (at' (ok true 4 0) 0)) ∧
    Completes (exec .cpLinPerform (at' (ok true 4 0x10008) 0)) := by
  refine ⟨of_next (((h _ (copying false 3 0 none) [] ?_ ?_).1 (.hbm 0x80003) (.hbm 0x90003) ?_ ?_).1 ?_),
    of_next (((h _ (copying true 0 0 none) [] ?_ ?_).1 (.hbm 0x80000) (.hbm 0x90000) ?_ ?_).2 ?_ ?_),
    of_next ((h _ misaligned [] ?_ ?_).2.1 ?_ ?_ ?_ ?_ (.inl ?_)), of_eq ((h _ (copying false 1 0 (some (10, 0))) [] ?_ ?_).2.2.1 ?_ ?_ ?_ (10, 0) ?_ ?_),
    of_next ((h _ awaited [] ?_ ?_).2.2.2.2.2.1 ?_ ?_ (10, 0) ?_ ?_), of_eq (((h _ (copying false 4 0 none) [] ?_ ?_).2.2.2.2.2.2.1 ?_ ?_ ?_ ?_ ?_).1 ?_),
    of_next (((h _ (copying false 4 0x10008 none) [] ?_ ?_).2.2.2.2.2.2.1 ?_ ?_ ?_ ?_ ?_).2 (.hbm 0x80008) ?_ ?_ ⟨?_, ?_⟩),
    of_next (((h _ (barred 0) [] ?_ ?_).2.2.2.2.2.2.2.2.1 0x700200 .core (0x700200 / 8) ?_ ?_ ?_ ?_ ?_ (BitVec.ofNat 64 (localBase + 0x200)) ?_ ?_ ?_).1 ⟨?_, ?_⟩ ?_),
    of_eq (((h _ (barred 7) [] ?_ ?_).2.2.2.2.2.2.2.2.1 0x700200 .core (0x700200 / 8) ?_ ?_ ?_ ?_ ?_ (BitVec.ofNat 64 (localBase + 0x200)) ?_ ?_ ?_).2.1 ⟨?_, ?_⟩ ?_),
    of_eq (((h { courier (barred 0) 0 with mem := { (courier (barred 0) 0).mem with badSpad := [0x700200 / 8] } } (barred 0) [] ?_ ?_).2.2.2.2.2.2.2.2.1
      0x700200 .core (0x700200 / 8) ?_ ?_ ?_ ?_ ?_ (BitVec.ofNat 64 (localBase + 0x200)) ?_ ?_ ?_).2.2 ?_ ?_),
    of_eq (((h _ (copying true 4 0 none) [] ?_ ?_).2.2.2.2.2.2.2.2.2 ?_ ?_ ?_ ?_).1 ?_),
    of_next (((h _ (copying true 4 0x10008 none) [] ?_ ?_).2.2.2.2.2.2.2.2.2 ?_ ?_ ?_ ?_).2 (.hbm 0x80008) ?_ ?_ ⟨?_, ?_, ?_⟩)⟩ <;>
    decide +kernel

/-- R221: the failure word of a waybill, stored, at an unmapped address and through a window; and a completion word through a window. -/
theorem hyp_copy_words (h : Obligations.TheCopyEnginePerforms) :
    let far (c : CpCmd) : State := { courier c 0 with mem := { (courier c 0).mem with
      hbm := (courier c 0).mem.hbm.write 0x70018 0x00500000000003E3 8 } }
    Completes (exec .waybillComplete (courier (copying false 1 0x10008 (some (10, 0))) 0)) ∧
    Completes (exec .waybillComplete (courier (copying false 1 0x90008 (some (10, 0))) 0)) ∧
    Completes (exec .waybillComplete (far (copying false 1 0x30008 (some (10, 0))))) ∧
    Completes (exec .waybillComplete (far (copying false 4 0x30008 none))) := by
  refine ⟨?local', ?fault, ?away, ?last⟩
  case local' =>
    exact of_next (((h (courier (copying false 1 0x10008 (some (10, 0))) 0) (copying false 1 0x10008 (some (10, 0))) []
      (by decide +kernel) (by decide +kernel)).2.2.2.1 (by decide) (by decide) (by decide +kernel) (10, 0) (by decide) (by decide)).1
      (.hbm 0x80008) (by decide) ⟨by decide +kernel, by decide +kernel⟩)
  case fault =>
    let c := copying false 1 0x90008 (some (10, 0))
    let s := courier c 0
    obtain ⟨e, hu⟩ := failed_of (r := s.completionStore c.space (s.cpAgent c) 0x90008
      (failedWord ⟨c.id, .copy, c.handle, c.wid, 10, 0, 1, c.addr, c.pc⟩) c.wb.scope) (by decide +kernel)
    exact of_eq (((h s c [] (by decide +kernel) (by decide +kernel)).2.2.2.1 (by decide) (by decide) (by decide +kernel) (10, 0) (by decide)
      (by decide)).2.1 e hu)
  case away =>
    let c := copying false 1 0x30008 (some (10, 0))
    let s : State := { courier c 0 with mem := { (courier c 0).mem with hbm := (courier c 0).mem.hbm.write 0x70018 0x00500000000003E3 8 } }
    obtain ⟨u, hu⟩ := awaited_of (r := s.completionStore c.space (s.cpAgent c) 0x30008
      (failedWord ⟨c.id, .copy, c.handle, c.wid, 10, 0, 1, c.addr, c.pc⟩) c.wb.scope) (by decide +kernel)
    exact of_eq (((h s c [] (by decide +kernel) (by decide +kernel)).2.2.2.1 (by decide) (by decide) (by decide +kernel) (10, 0) (by decide)
      (by decide)).2.2 u hu)
  case last =>
    let c := copying false 4 0x30008 none
    let s : State := { courier c 0 with mem := { (courier c 0).mem with hbm := (courier c 0).mem.hbm.write 0x70018 0x00500000000003E3 8 } }
    obtain ⟨u, hu⟩ := awaited_of (r := (s.releaseFollow c true).completionStore c.space (s.cpAgent c) 0x30008 c.wb.doneval c.wb.scope)
      (by decide +kernel)
    exact of_eq ((h s c [] (by decide +kernel) (by decide +kernel)).2.2.2.2.1 (by decide) (by decide) (by decide) u hu (by decide)).1

/-- A command of the optimiser queue of die 0. -/
def optCmd (b : OptBody) (addr : Word) (r : Option CardRun) : OptCmd := ⟨1, 5, 0, 0, 0, 0x10100, addr, 0x40000, 0, [], b, r, none, none⟩

/-- A card of routine `rout` on one element at `w`, of one direction whose scalar lies at 0x10100, dropped or not, with context 31 or none. -/
def optCard (rout : Nat) (w : Word) (drop : BitVec 16) (ctx : Bool) : Card :=
  ⟨rout, 1, false, false, false, ctx, drop, 1, w, 0, 0, 9, 8, 0, 0x3F800000, 0x10100, 31, [0x3F000000], 0, 0⟩

/-- A card that is fixed with the routine that ends at once. -/
def fixed : CardRun := ⟨[0x60000000], 1, [0x3F800000], [true], 0, 0, 0⟩

/-- The command at the head, page tables, routine 1 installed, context 31 granted, and the words of a routine in page 1. -/
def optimising (b : OptBody) (addr : Word) (r : Option CardRun) : State :=
  let s := choosing (tabled { node with contexts := [31] }) (.die 0)
  { s with eng := { s.eng with opt := [optCmd b addr r], routs := [((0, 1), [0x60000000])] },
           mem := { s.mem with hbm := (s.mem.hbm.write 0x80200 0x60000000 4).write 0x80000 0x40000000 4 } }

/-- What the processing of a card's elements has met, named as `elements` names it. -/
theorem elements_of {r : Nat × Option CmdHalt × State} {x : Option CmdHalt} (h : r.2.1 = x) : r = (r.1, x, r.2.2) := by rw [← h]

/-- What stops a card, and what stops its elements: a failure, or an answer that is still to come. -/
def cardFails {α : Type} : Except CardHalt α → Bool
  | .error (.fails _) => true
  | _ => false
def cardWaits {α : Type} : Except CardHalt α → Bool
  | .error (.await _) => true
  | _ => false
def stopFails : Option CmdHalt → Bool
  | some (.failed _) => true
  | _ => false
def stopAwaits : Option CmdHalt → Bool
  | some (.await _) => true
  | _ => false

theorem failsCard_of {α : Type} {r : Except CardHalt α} (h : cardFails r = true) : ∃ f, r = .error (.fails f) := by
  cases r with
  | ok _ => cases h
  | error e => cases e with
    | fails f => exact ⟨f, rfl⟩
    | await _ => cases h

theorem waitsCard_of {α : Type} {r : Except CardHalt α} (h : cardWaits r = true) : ∃ u, r = .error (.await u) := by
  cases r with
  | ok _ => cases h
  | error e => cases e with
    | fails _ => cases h
    | await u => exact ⟨u, rfl⟩

theorem stopFailed_of {o : Option CmdHalt} (h : stopFails o = true) : ∃ x, o = some (.failed x) := by
  cases o with
  | none => cases h
  | some e => cases e with
    | failed x => exact ⟨x, rfl⟩
    | await _ => cases h

theorem stopAwaits_of {o : Option CmdHalt} (h : stopAwaits o = true) : ∃ x, o = some (.await x) := by
  cases o with
  | none => cases h
  | some e => cases e with
    | failed _ => cases h
    | await x => exact ⟨x, rfl⟩

/-- `optimising` with page 3 in the window of token 5. -/
def farOptimising (b : OptBody) (addr : Word) (r : Option CardRun) : State :=
  let s := optimising b addr r
  { s with mem := { s.mem with hbm := s.mem.hbm.write 0x70018 0x00500000000003E3 8 } }

/-- The command with a failure that awaits its completion store. -/
def failing (r : Option CardRun) : OptCmd := { optCmd (.card (optCard 1 0x10000 0 false)) 0 r with failed := some ((2, 0), 0) }

def withHead (s : State) (c : OptCmd) : State := { s with eng := { s.eng with opt := [c] } }

/-- R185 to R191: contexts that the node was granted and not; routines that end, that do not, that cannot be read, and that come from a window;
cards that fail once their completion word has gone. -/
theorem hyp_optimiser_routines (h : Obligations.TheOptimiserPerforms) :
    let w (b : OptBody) (addr : Word) := optimising b addr none
    Completes (exec .stepIncrement (w (.step 31) 0)) ∧ Completes (exec .stepIncrement (w (.step 30) 0)) ∧
    Completes (exec .routineInstall (w (.rout 63) 0x10200)) ∧ Completes (exec .routineInstall (w (.rout 0) 0x10100)) ∧
    Completes (exec .routineInstall (w (.rout 1) 0x90000)) ∧ Completes (exec .routineInstall (farOptimising (.rout 1) 0x30000 none)) ∧
    Completes (exec .cardStart (withHead (w (.step 31) 0) (failing none))) ∧
    Completes (exec .cardComplete (withHead (w (.step 31) 0) (failing (some fixed)))) := by
  refine ⟨of_eq (((h _ 0 (optCmd (.step 31) 0 none) ?_).1 31 rfl).1 ?_), of_eq (((h _ 0 (optCmd (.step 30) 0 none) ?_).1 30 rfl).2 ?_), ?rend, ?rnone, ?rfault,
    ?rfar, of_eq (((h _ 0 (failing none) ?_).2.2.2.1 _ _ rfl rfl rfl).1 rfl), of_eq (((h _ 0 (failing (some fixed)) ?_).2.2.2.1 _ _ rfl rfl rfl).2 nofun)⟩
  case rend =>
    let s := optimising (.rout 63) 0x10200 none
    let c := optCmd (.rout 63) 0x10200 none
    obtain ⟨l, m, hu⟩ := ok_of (r := s.routWords c 0x10200 16 s.mem) (by decide +kernel)
    have hl : l = ((s.routWords c 0x10200 16 s.mem).toOption.map (·.1)).getD [] := by rw [hu]; rfl
    exact of_next ((((h s 0 c (by decide +kernel)).2.1 63 rfl l m hu).2 [0x60000000]) (by rw [hl]; decide +kernel))
  case rnone =>
    let s := optimising (.rout 0) 0x10100 none
    let c := optCmd (.rout 0) 0x10100 none
    obtain ⟨l, m, hu⟩ := ok_of (r := s.routWords c 0x10100 16 s.mem) (by decide +kernel)
    have hl : l = ((s.routWords c 0x10100 16 s.mem).toOption.map (·.1)).getD [] := by rw [hu]; rfl
    exact of_eq ((((h s 0 c (by decide +kernel)).2.1 0 rfl l m hu).1) (by rw [hl]; decide +kernel))
  case rfault =>
    let s := optimising (.rout 1) 0x90000 none
    let c := optCmd (.rout 1) 0x90000 none
    obtain ⟨e, hu⟩ := failed_of (r := s.routWords c 0x90000 16 s.mem) (by decide +kernel)
    exact (((h s 0 c (by decide +kernel)).2.2.1 1 rfl).1 e hu).elim fun _ h => h.elim fun _ h => of_eq h.1
  case rfar =>
    let s := farOptimising (.rout 1) 0x30000 none
    let c := optCmd (.rout 1) 0x30000 none
    obtain ⟨u, hu⟩ := awaited_of (r := s.routWords c 0x30000 16 s.mem) (by decide +kernel)
    exact of_eq (((h s 0 c (by decide +kernel)).2.2.1 1 rfl).2 u hu)
  all_goals decide +kernel

/-- R183 to R189: cards that are fixed, that name no routine, whose directions are all dropped, whose scalar lies in a window; elements
updated, one that faults and one in a window. -/
theorem hyp_optimiser_cards (h : Obligations.TheOptimiserPerforms) :
    let w (b : OptBody) (addr : Word) := optimising b addr none
    let e (a : Word) := optimising (.card (optCard 1 a 0 false)) 0 (some fixed)
    let z : Card := { optCard 1 0x10000 0 true with scal := 0x30000 }
    Completes (exec .cardStart (w (.card (optCard 1 0x10000 0 true)) 0)) ∧ Completes (exec .cardStart (farOptimising (.card z) 0 none)) ∧
    Completes (exec .cardStart (w (.card (optCard 1 0x10000 1 true)) 0)) ∧
    Completes (exec .cardStart (w (.card { optCard 1 0x10000 1 true with done := 0x10008 }) 0)) ∧
    (w (.card (optCard 2 0x10000 0 true)) 0).cardFix (optCmd (.card (optCard 2 0x10000 0 true)) 0 none) (optCard 2 0x10000 0 true) = .error (.fails (2, 0)) ∧
    Completes (exec .cardComplete (e 0x10000)) ∧ Completes (exec .cardComplete (e 0x90000)) ∧
    Completes (exec .cardComplete (farOptimising (.card (optCard 1 0x30000 0 false)) 0 (some fixed))) ∧
    ∃ t, exec .cardComplete (e 0x10000) = .next t ∧ SameMemoryBut (e 0x10000) t (.hbm 0x80000) 4 := by
  refine ⟨?cok, ?cfar, ?cbad, ?cword,
    ((h _ 0 (optCmd (.card (optCard 2 0x10000 0 true)) 0 none) ?_).2.2.2.2.1 _ rfl rfl rfl).2.2.2.2.1 ?_, ?eok, ?efault, ?efar,
    ((h _ 0 (optCmd (.card (optCard 1 0x10000 0 false)) 0 (some fixed)) ?_).2.2.2.2.2.2 _ fixed rfl rfl rfl rfl rfl rfl rfl rfl rfl ?_ ?_ (.hbm 0x80000) ?_ ?_ ?_
      ?_ ?_ rfl).imp fun _ h => ⟨h.1, h.2.2.1⟩⟩
  case cok =>
    let k := optCard 1 0x10000 0 true
    let s := optimising (.card k) 0 none
    obtain ⟨r, m, hu⟩ := ok_of (r := s.cardFix (optCmd (.card k) 0 none) k) (by decide +kernel)
    exact of_next (((h s 0 (optCmd (.card k) 0 none) (by decide +kernel)).2.2.2.2.1 k rfl rfl rfl).1 r m hu)
  case cfar =>
    let k : Card := { optCard 1 0x10000 0 true with scal := 0x30000 }
    let s := farOptimising (.card k) 0 none
    obtain ⟨u, hu⟩ := waitsCard_of (r := s.cardFix (optCmd (.card k) 0 none) k) (by decide +kernel)
    exact of_eq (((h s 0 (optCmd (.card k) 0 none) (by decide +kernel)).2.2.2.2.1 k rfl rfl rfl).2.1 u hu)
  case cbad =>
    let k := optCard 1 0x10000 1 true
    let s := optimising (.card k) 0 none
    obtain ⟨f, hu⟩ := failsCard_of (r := s.cardFix (optCmd (.card k) 0 none) k) (by decide +kernel)
    exact of_eq (((h s 0 (optCmd (.card k) 0 none) (by decide +kernel)).2.2.2.2.1 k rfl rfl rfl).2.2.2.1 f hu rfl)
  case cword =>
    let k : Card := { optCard 1 0x10000 1 true with done := 0x10008 }
    let s := optimising (.card k) 0 none
    obtain ⟨f, hu⟩ := failsCard_of (r := s.cardFix (optCmd (.card k) 0 none) k) (by decide +kernel)
    exact of_next (((h s 0 (optCmd (.card k) 0 none) (by decide +kernel)).2.2.2.2.1 k rfl rfl rfl).2.2.1 f (.hbm 0x80008) hu (by decide)
      (by decide +kernel) ⟨by decide +kernel, by decide +kernel⟩ (by decide +kernel))
  case eok =>
    let k := optCard 1 0x10000 0 false
    let s := optimising (.card k) 0 (some fixed)
    have hr := elements_of (r := s.cardElements (optCmd (.card k) 0 (some fixed)) k fixed 0 1) (x := none) (by decide +kernel)
    exact of_eq (((h s 0 (optCmd (.card k) 0 (some fixed)) (by decide +kernel)).2.2.2.2.2.1 k fixed rfl rfl rfl).1 _ _ hr rfl)
  case efault =>
    let k := optCard 1 0x90000 0 false
    let s := optimising (.card k) 0 (some fixed)
    let r := s.cardElements (optCmd (.card k) 0 (some fixed)) k fixed 0 1
    obtain ⟨x, hx⟩ := stopFailed_of (o := r.2.1) (by decide +kernel)
    exact ((((h s 0 (optCmd (.card k) 0 (some fixed)) (by decide +kernel)).2.2.2.2.2.1 k fixed rfl rfl rfl).2.1 _ x _ (elements_of hx) rfl)).elim
      fun _ h => h.elim fun _ h => of_eq h.1
  case efar =>
    let k := optCard 1 0x30000 0 false
    let s := farOptimising (.card k) 0 (some fixed)
    let r := s.cardElements (optCmd (.card k) 0 (some fixed)) k fixed 0 1
    obtain ⟨x, hx⟩ := stopAwaits_of (o := r.2.1) (by decide +kernel)
    exact of_next (((h s 0 (optCmd (.card k) 0 (some fixed)) (by decide +kernel)).2.2.2.2.2.1 k fixed rfl rfl rfl).2.2 _ x _ (elements_of hx))
  all_goals decide +kernel

/-- An itinerary of the node with one entry, started and with its page still to take. -/
def oneEntry (k : PKind) (va : Word) : Itin :=
  { handle := 5, base := 0x20000, reached := none, granted := 4, free := [(3, 2)], entries := [⟨3, k, 0, 0, false, 1, va, some 0, 0, [], none⟩] }

/-- A move of page 1 of that entry, between HBM frame 8 and origin 6. -/
def move (k : PKind) : Move := ⟨5, 0, 0, k, 0x10000, 0x70008, 0x801F3, 8, 6⟩

/-- Page tables, that itinerary and moves in progress, which an event names. -/
def moving (k : PKind) (va : Word) (l : List Move) (c : Choice) : State :=
  let s := choosing (tabled node) c
  { s with porter := { s.porter with itins := [oneEntry k va], moves := l, cxlFree := [(6, 1)] } }

/-- R323 to R328: a page that moves, one that counts and one that stops its entry; each kind of move completes; a link that fails a move, and one
that no move uses. -/
theorem hyp_porter (h : Obligations.ThePorterMovesPages) :
    let done (k : PKind) := moving k 0x10000 [move k] (.index 0)
    let turn (k : PKind) (va : Word) := moving k va [] .none
    Completes (exec .porterMoveStart (turn .evict 0x10000)) ∧ Completes (exec .porterMoveStart (turn .fetch 0x10000)) ∧
    Completes (exec .porterMoveStart (turn .pin 0x90000)) ∧ Completes (exec .fetchComplete (done .fetch)) ∧
    Completes (exec .evictComplete (done .evict)) ∧ Completes (exec .dropComplete (done .drop)) ∧ Completes (exec .pinComplete (done .pin)) ∧
    Completes (exec .pinComplete { done .pin with porter := { (done .pin).porter with itins := [] } }) ∧
    Completes (exec .cxlLinkDown (moving .pin 0x10000 [] (.port 7))) ∧
    ∃ t, exec .cxlLinkDown (moving .fetch 0x10000 [move .fetch] (.port ((Config.cxlPort 6).setWidth 5))) = .next t ∧ t.porter.moves = [] := by
  let done (k : PKind) := moving k 0x10000 [move k] (.index 0)
  refine ⟨?evict, ?fetch, ?pin, of_next ((h _).2.1 (move .fetch) ?_ ⟨0, ?_, ?_, ?_⟩ ?_), of_next ((h _).2.2.1 (move .evict) ?_ ⟨0, ?_, ?_, ?_⟩ ?_ ?_),
    of_next ((h _).2.2.2.1 (move .drop) ?_ ⟨0, ?_, ?_, ?_⟩ ?_), of_next ((h _).2.2.2.2.2.1 (move .pin) ⟨0, ?_, ?_, ?_⟩ ?_),
    of_eq ((h { done .pin with porter := { (done .pin).porter with itins := [] } }).2.2.2.2.1 (move .pin) ⟨0, ?_, ?_, ?_⟩ ?_),
    of_next ((h _).2.2.2.2.2.2 7 ?_ rfl),
    ((h _).2.2.2.2.2.2 ((Config.cxlPort 6).setWidth 5) ?port rfl).imp fun _ h =>
      ⟨h.1, (h.2.2.2.2 (move .fetch) ⟨?_, ?_, ?_⟩ rfl (.inl rfl) ?same).1⟩⟩
  case port =>
    rw [BitVec.toNat_setWidth, Nat.mod_eq_of_lt (by have := (Config.cxlPort 6).isLt; omega)]
    exact (Config.cxlPort 6).isLt
  case same => rw [BitVec.setWidth_setWidth_of_le _ (by decide), BitVec.setWidth_eq]; rfl
  case evict =>
    let s := moving .evict 0x10000 [] .none
    obtain ⟨x, hx⟩ := Option.isSome_iff_exists.1 (show (s.firstTurn ((s.porter.itins.flatMap fun i => candidatesOf i 0 i.entries).foldr insertCandidate [])).isSome = true by decide +kernel)
    exact of_next ((h s).1 x.1 x.2 (by decide) hx)
  case fetch =>
    let s := moving .fetch 0x10000 [] .none
    obtain ⟨x, hx⟩ := Option.isSome_iff_exists.1 (show (s.firstTurn ((s.porter.itins.flatMap fun i => candidatesOf i 0 i.entries).foldr insertCandidate [])).isSome = true by decide +kernel)
    exact of_next ((h s).1 x.1 x.2 (by decide) hx)
  case pin =>
    let s := moving .pin 0x90000 [] .none
    obtain ⟨x, hx⟩ := Option.isSome_iff_exists.1 (show (s.firstTurn ((s.porter.itins.flatMap fun i => candidatesOf i 0 i.entries).foldr insertCandidate [])).isSome = true by decide +kernel)
    exact of_next ((h s).1 x.1 x.2 (by decide) hx)
  all_goals decide +kernel

theorem value_lt (l : List Byte) : valueOfBytes l < 256 ^ l.length := by
  induction l with
  | nil => decide
  | cons b l ih => simp only [valueOfBytes, List.length_cons, Nat.pow_succ]; have := b.isLt; omega

/-- The MAC of a token for window 0 with all rights, of epoch 0 and key 0, for package 0x11. -/
def mac : Nat := tokenMac 0xF00000000 0x11

theorem giveOut_length (n i : Nat) (a : List Word) : (giveOut n i a).length = n := by
  induction n generalizing i a with
  | zero => rfl
  | succ n ih => unfold giveOut; split <;> simp [ih]

theorem mac_lt : mac < 2 ^ 24 :=
  Nat.lt_of_lt_of_le (value_lt _) (Nat.pow_le_pow_right (by decide) (Nat.le_of_eq (giveOut_length 3 0 _)))

/-- A packet of package 0x11 to this one with that token, for one byte. -/
def asks (kind : BitVec 8) (data : List Byte) : Packet :=
  { packet kind 1 with target := packageEp, token := 0xF00#40 ++ BitVec.ofNat 24 mac, data := data }

theorem asks_token (k : BitVec 8) (d : List Byte) : (asks k d).token.toNat = 0xF00000000 + mac := by
  have h := mac_lt
  show (0xF00#40 ++ BitVec.ofNat 24 mac).toNat = _
  rw [BitVec.toNat_append, BitVec.toNat_ofNat mac 24, Nat.mod_eq_of_lt h, ← Nat.shiftLeft_add_eq_or_of_lt h, Nat.shiftLeft_eq]
  norm_num

/-- `grouped` with a window of 64 bytes with all rights in use, the window table at 0x20000 and requests. -/
def windowed (l : List Req) (c : Choice) : State :=
  let s := choosing grouped c
  { s with mem := { s.mem with hbm := s.mem.hbm.write 0xA0000 (2 ^ 116 + 15 * 2 ^ 112 + 64 * 2 ^ 64 + 0x80000) 16 },
           fab := { s.fab with swtab := 0xA0000, swcnt := 1, reqs := l }, ftime := 2000 }

/-- The request of which a packet has left. -/
def askedBy (p : Packet) : Req := ⟨0, 5, 0, p, .store, 0, 0, none, 0, [], []⟩

theorem sent_of {s : State} {p : Packet} (h : s.fab.reqs = [askedBy p]) : s.hasSent p = true := by
  have held : heldBehind [askedBy p] (askedBy p) = false := if_pos rfl
  unfold State.hasSent
  rw [h, List.any_cons, held, show (askedBy p).packet = p from rfl]
  simp

/-- `windowed` with the packet, which a request has sent. -/
def arriving (p : Packet) : State := windowed [askedBy p] (.packet p)

theorem asks_admitted (k : BitVec 8) (d : List Byte) : (arriving (asks k d)).admitted (asks k d) = .ok ⟨1, 15, 64, 0x80000⟩ := by
  have ht := asks_token k d
  have hm := mac_lt
  have h0 (lo n : Nat) : (bits (asks k d).token lo n).toNat = (0xF00000000 + mac) / 2 ^ lo % 2 ^ n := by
    rw [BitVec.extractLsb'_toNat, ht, Nat.shiftRight_eq_div_pow]
  have hw : (arriving (asks k d)).window 0 = some ⟨1, 15, 64, 0x80000⟩ := by
    show (windowed [] .none).window 0 = _
    decide +kernel
  have h1 : bits (asks k d).token 32 4 = 15 := BitVec.eq_of_toNat_eq (by rw [h0]; show _ = 15; omega)
  have h2 : tokenMac (asks k d).token 0x11 = mac := by
    unfold tokenMac mac tokenMac
    rw [h0, ht, show (0xF00000000 + mac) / 2 ^ 24 = 0xF00 by omega]
    rfl
  have h3 : (arriving (asks k d)).expired (asks k d).token = false := by
    unfold State.expired State.epoch
    rw [h0, show (0xF00000000 + mac) / 2 ^ 36 % 2 ^ 12 = 0 by omega,
      show (arriving (asks k d)).ftime = 2000 from rfl]
    decide
  have h4 : bits (asks k d).token 32 4 &&& 15 &&& Packet.needs (asks k d) = Packet.needs (asks k d) := by
    rw [h1]; exact BitVec.allOnes_and ..
  have h5 : Packet.within (asks k d) 64 = true := rfl
  have h6 : (arriving (asks k d)).fab.retired = [] := rfl
  unfold State.admitted
  rw [h0, show (0xF00000000 + mac) / 2 ^ 48 % 2 ^ 16 = 0 by omega, hw]
  dsimp only
  rw [h0, show (0xF00000000 + mac) / 2 ^ 24 % 2 ^ 8 = 0 by omega, show (asks k d).requester.toNat = 0x11 from rfl, h2, h0,
    show (0xF00000000 + mac) / 2 ^ 0 % 2 ^ 24 = mac by omega, h3, h4, h5, h6]
  simp

/-- A multicast store of the thread to group 3, started or not, with the acknowledgements of its two members. -/
def mcJob (started : Bool) (codes : List (Option MStatus)) : McJob :=
  ⟨4, 5, 0, 0, 0x10100, 0x40000, 0, [], 3, 0, 0x10000, List.replicate 256 7, started, 0, if started then [⟨0x11, 0⟩, ⟨0x12, 0⟩] else [],
    if started then [1, 2] else [], codes⟩

/-- `grouped` with that job and a bank entry. -/
def fanning (j : McJob) (banks : List Bank) (c : Choice) : State :=
  choosing { grouped with fab := { grouped.fab with jobs := [j], banks := banks } } c

/-- A request of the thread that waits for lane 1 of `v1`, or for `x3`, in its attempt `n`. -/
def asked (u : Use) (n : BitVec 2) : Req := { request with packet := { packet 0 1 with attempt := n }, use := u }

/-- R354, R357: packets that are revoked, of each kind, and a retry; records. -/
theorem hyp_packets (h : Obligations.FabricEvents) :
    let p (k : BitVec 8) (d : List Byte) := arriving (asks k d)
    let bad : Packet := { asks 0 [] with token := 0x0001000000000000 }
    let again := { p 1 [9] with fab := { (p 1 [9]).fab with records := [replyTo (asks 1 [9]) .ok [] 7] } }
    Completes (exec .fabricPacketArrival (arriving bad)) ∧ Completes (exec .fabricPacketArrival (p 0 [])) ∧
    Completes (exec .fabricPacketArrival (p 1 [9])) ∧ Completes (exec .fabricPacketArrival (p 2 [9])) ∧ Completes (exec .fabricPacketArrival again) ∧
    Completes (exec .sequenceExpiry (windowed [] (.record 0x11 0 7))) := by
  have new (k : BitVec 8) (d : List Byte) (hk : k.toNat ≤ 4 ∧ k ≠ 3) : Arrives (arriving (asks k d)) (asks k d) :=
    ⟨⟨asks k d, rfl, (if_neg hk.2).symm⟩, rfl, hk.1, rfl, sent_of rfl⟩
  refine ⟨of_eq (((h _).1 { asks 0 [] with token := 0x0001000000000000 } ⟨⟨_, rfl, rfl⟩, rfl, ?_, rfl, sent_of rfl⟩ (.inl (.inl rfl))).1 .revoked ?_),
    of_next (((h _).1 _ (new 0 [] ?_) (.inl (.inl rfl))).2.1 _ (asks_admitted 0 []) (.inl rfl) fun o _ => ?_),
    of_next (((h _).1 _ (new 1 [9] ?_) (.inr rfl)).2.2.1 _ 0 (asks_admitted 1 [9]) (.inl rfl) rfl rfl ?_),
    of_next (((h _).1 _ (new 2 [9] ?_) (.inr rfl)).2.2.2 _ 0 (asks_admitted 2 [9]) rfl rfl ?_ ?_),
    of_eq ((h _).2.1 (asks 1 [9]) _ ⟨⟨asks 1 [9], rfl, rfl⟩, rfl, ?_, rfl, sent_of rfl⟩ (.inl rfl) rfl), of_eq ((h _).2.2.1 0x11 0 7 rfl)⟩
  all_goals first | decide +kernel | exact show List.any [] _ = false from rfl

theorem answered_of {s : State} {e c : BitVec 16} {q : BitVec 32} {st : MStatus} {d : List Byte}
    (h : s.fab.sentReplies = [⟨5, 1, 0, packageEp, c, q, st, d, 0⟩]) : s.answered e c q st d = true := by
  simp [State.answered, h]

/-- `s` with a reply that its own target has sent. -/
def answering (s : State) (c : BitVec 16) (q : BitVec 32) (st : MStatus) (d : List Byte) : State :=
  { s with fab := { s.fab with sentReplies := [⟨5, 1, 0, packageEp, c, q, st, d, 0⟩] } }

/-- R358 to R361: replies of each use and failure; timers before and at the last attempt. -/
theorem hyp_replies (h : Obligations.FabricEvents) :
    let r (u : Use) (st : MStatus) (d : List Byte) := answering (windowed [asked u 0] (.reply 0 7 st d)) 0 7 st d
    Completes (exec .fabricReplyArrival (r (.scalar 3 1 true) .ok [0x80])) ∧ Completes (exec .fabricReplyArrival (r .store .bounds [])) ∧
    Completes (exec .fabricReplyArrival (r (.lanes (.v 1) 8 0 [1]) .ok [3])) ∧ Completes (exec .fabricReplyArrival (r (.far none false) .absent [])) ∧
    Completes (exec .fabricAttemptTimeout (windowed [asked .store 2] (.index 0))) ∧
    Completes (exec .fabricAttemptTimeout (windowed [asked .store 3] (.index 0))) := by
  refine ⟨((h _).2.2.2.1 0 7 .ok [0x80] (asked (.scalar 3 1 true) 0) rfl ?_ ?_ (answered_of rfl) ?_).elim fun _ h => of_eq h.1,
    ((h _).2.2.2.1 0 7 .bounds [] (asked .store 0) rfl ?_ ?_ (answered_of rfl) ?_).elim fun _ h => of_eq h.1,
    ((h _).2.2.2.1 0 7 .ok [3] (asked (.lanes (.v 1) 8 0 [1]) 0) rfl ?_ ?_ (answered_of rfl) ?_).elim fun _ h => of_eq h.1,
    ((h _).2.2.2.1 0 7 .absent [] (asked (.far none false) 0) rfl ?_ ?_ (answered_of rfl) ?_).elim fun _ h => of_eq h.1,
    (((h _).2.2.2.2.1 0 (asked .store 2) rfl ?_ ?_ ?_).1 ?_).imp fun _ h => h.elim fun _ h => h.1,
    (((h _).2.2.2.2.1 0 (asked .store 3) rfl ?_ ?_ ?_).2 ?_).elim fun _ h => of_eq h.1⟩ <;> decide +kernel

/-- R362 to R365: a multicast store that starts, a bank that accepts and forwards, an acknowledgement, the end of a job. -/
theorem hyp_multicasts (h : Obligations.FabricEvents) :
    Completes (exec .mcStStart (fanning (mcJob false []) [] .none)) ∧
    Completes (exec .multicastBankAccept (fanning (mcJob true [none, none]) [⟨4, 2, false, [0, 1], packet 3 1⟩] (.index 0))) ∧
    Completes (exec .multicastBranchForward (fanning (mcJob true [none, none]) [⟨4, 2, true, [0, 1], packet 3 1⟩] (.branch 0 1))) ∧
    Completes (exec .acknowledgementArrival (answering (fanning (mcJob true [none, none]) [] (.statuses [(1, .absent)])) 0 2 .absent [])) ∧
    (fanning (mcJob true [some .ok, some .ok]) [] .none).endJobs = (fanning (mcJob true [some .ok, some .ok]) [] .none).writeAck (mcJob true [some .ok, some .ok]) ∧
    (fanning (mcJob true [none, none]) [] .none).endLdrs.endJobs = fanning (mcJob true [none, none]) [] .none := by
  refine ⟨of_next ((h _).2.2.2.2.2.1 (mcJob false []) ?_ ?_), of_eq ((h _).2.2.2.2.2.2.1 0 rfl),
    of_eq ((h _).2.2.2.2.2.2.2.1 0 1 ⟨4, 2, true, [0, 1], packet 3 1⟩ rfl ?_ ?_),
    ((h _).2.2.2.2.2.2.2.2.1 (mcJob true [none, none]) 1 .absent ⟨0x12, 0⟩ rfl ?_ ?_ ?_ (all_left ?_) (answered_of rfl)).elim fun _ h => of_eq h.2,
    ((h _).2.2.2.2.2.2.2.2.2.1 (mcJob true [some .ok, some .ok]) ?_ rfl ?_ ?_).1, (h _).2.2.2.2.2.2.2.2.2.2 ?_ ?_⟩ <;> decide +kernel

/-- The checks of a packet do not look at the members that it names, nor at the requests of the package. -/
theorem admitted_members (l l' : List Req) (c c' : Choice) (p : Packet) (m : List (BitVec 16 × Word)) :
    (windowed l c).admitted { p with members := m } = (windowed l' c').admitted p := rfl

/-- R364: the copy of a multicast packet for this package. -/
theorem hyp_copy_arrives (h : Obligations.FabricEvents) :
    Completes (exec .fabricPacketArrival (arriving { asks 3 [9] with members := [(packageEp, (asks 3 [9]).token)] })) := by
  have hc : copyHere { asks 3 [9] with members := [(packageEp, (asks 3 [9]).token)] } = _ := if_pos rfl
  have hm : Packet.toMember { asks 3 [9] with members := [(packageEp, (asks 3 [9]).token)] } packageEp =
      { asks 3 [9] with members := [(packageEp, (asks 3 [9]).token)] } := by simp [Packet.toMember, asks]
  exact of_next (((h _).1 _ ⟨⟨_, rfl, (hc.trans hm).symm⟩, rfl, show (3 : BitVec 8).toNat ≤ 4 by decide, rfl, sent_of rfl⟩ (.inr rfl)).2.2.1 _ 0
    ((admitted_members ..).trans (asks_admitted 3 [9])) (.inr rfl) rfl rfl (by decide +kernel))

/-- A message of the domain of the group's second member about a claim of time `t`, in flight to the member of `claiming`. -/
def message (t : Nat) : Courier := ⟨0x8001, 77, BitVec.ofNat 64 (t * 65536 + 0x8001), 7, 400, 5, t⟩

/-- A breach notice of another endpoint. -/
def notice : Courier := ⟨packageEp + 1, 0, 0, 0, 0, 0, 1990⟩

/-- `claiming` with messages in flight, and an event that names one or a claim. -/
def delivering (l : List Claim) (objection : Bool) (t : Nat) (c : Choice) : State :=
  let s := choosing (claiming l 0) c
  { s with claims := { s.claims with flights := [⟨objection, message t, [coreEp 0, 0x8002], []⟩] } }

/-- `claiming` with a claim of 1500 that is due, and with a breach and another claim or none. -/
def closing (breaches : List Nat) (objected : Bool) (others : List Claim) : State :=
  let x : Claim := { claim 1500 none none with objected := objected }
  let s := choosing (claiming (x :: others) 0) (.claim 77 (coreEp 0) x.handle)
  { s with claims := { s.claims with breaches := breaches } }

/-- A thread that waits at a claim instruction with a handle that is past. -/
def calling (i : Instr) : State :=
  { (claiming [] (handleOf 1500)).mapCore fun c => { c with run := .waiting } with mem := (coded (encode i)).mem }

/-- R379, R384 to R399: messages that reach a member, breaches, objections forgotten, each outcome of a close at its bounds, NOCLAIM. -/
theorem hyp_claim_events (h : Obligations.ClaimEvents) :
    let at' (c : Choice) := choosing (claiming [claim 1900 none none] 0) c
    let two : List Claim := [claim 1400 (some 1) none]
    Completes (exec .proposalReceived (delivering [] false 1950 (.courier (message 1950) (coreEp 0)))) ∧
    Completes (exec .objectionReceived (delivering [claim 1900 none none] true 1950 (.courier (message 1950) (coreEp 0)))) ∧
    Completes (exec .breachNoticeReceived (at' (.breach notice))) ∧ Completes (exec .breachNoticeReceived (at' (.breach { notice with tag := 1 }))) ∧
    Completes (exec .breachNoticeOriginate (at' (.cause .spaceLost))) ∧ Completes (exec .breachNoticeOriginate (at' (.cause .timeFlag))) ∧
    Completes (exec .heldObjectionDiscard { at' (.claim 77 (coreEp 0) (BitVec.ofNat 64 (handleOf 1))) with ftime := 1048578 }) ∧
    Completes (exec .claimForget (at' (.claim 77 (coreEp 0) 5))) ∧
    (∃ t, exec .claimClose (closing [1804] false []) = .next t ∧ ClosedAs t (member ({ claim 1500 none none with objected := false } :: [])) (claim 1500 none none).handle 4) ∧
    Completes (exec .claimClose (closing [1805] true [])) ∧ Completes (exec .claimClose (closing [] false two)) ∧
    Completes (exec .claimClose (closing [] false [])) ∧ Completes (exec .noclaim (calling (.clWait 4 8 2))) ∧
    Completes (exec .noclaim (calling (.clObj 8 2))) := by
  let m (o : Bool) (l : List Claim) : ClaimMember := member ({ claim 1500 none none with objected := o } :: l)
  have c (b : List Nat) (o : Bool) (l : List Claim) := (h (closing b o l)).2.2.2.2.2.2.1 (m o l) { claim 1500 none none with objected := o } (List.mem_singleton.2 rfl)
  refine ⟨?prop, ?obj, of_eq (((h _).2.2.1 notice rfl).1 ⟨rfl, rfl, rfl, rfl, by simp [notice], ?_, ?_⟩),
    of_eq (((h _).2.2.1 { notice with tag := 1 } rfl).2 fun v => absurd v.1 (by decide)), of_eq ((h _).2.2.2.1 (.inr rfl)),
    of_eq ((h _).2.2.2.2.1 rfl), of_eq (((h _).2.2.2.2.2.1 77 (coreEp 0) (BitVec.ofNat 64 (handleOf 1)) rfl).1 ?_ ?_),
    of_next ((h _).2.2.2.2.2.1 77 (coreEp 0) 5 rfl).2, (c [1804] false [] ?_).imp fun _ h => ⟨h.1, (h.2.2.2.2 ?_).1 ?_⟩,
    (c [1805] true [] ?_).imp fun _ h => h.1, (c [] false [claim 1400 (some 1) none] ?_).imp fun _ h => h.1, (c [] false [] ?_).imp fun _ h => h.1,
    of_eq ((h _).2.2.2.2.2.2.2.1 4 8 2 (member []) (.inl rfl) ?_ (acts ?_ ?_ rfl) ?_ ?_ ?_),
    of_eq ((h _).2.2.2.2.2.2.2.2 8 2 (member []) (.inl rfl) ?_ (acts ?_ ?_ rfl) ?_ ?_ ?_)⟩
  case prop =>
    let s := delivering [] false 1950 (.courier (message 1950) (coreEp 0))
    obtain ⟨r, hr⟩ := Option.isSome_iff_exists.1 (show (s.receive false (message 1950) (coreEp 0)).isSome = true by decide +kernel)
    have hx : ((s.receive false (message 1950) (coreEp 0)).bind fun r => r.1.find (message 1950).handle) = none := by decide +kernel
    have hf : ((s.receive false (message 1950) (coreEp 0)).map fun r => r.2.2.claimsFull r.1.group.tag (message 1950).handle) = some false := by decide +kernel
    rw [hr] at hx hf
    replace hf := Option.some.inj hf
    exact of_next ((h s).1 (message 1950) (coreEp 0) r.1 r.2.1 r.2.2 rfl hr hx hf)
  case obj =>
    let s := delivering [claim 1900 none none] true 1950 (.courier (message 1950) (coreEp 0))
    obtain ⟨r, hr⟩ := Option.isSome_iff_exists.1 (show (s.receive true (message 1950) (coreEp 0)).isSome = true by decide +kernel)
    exact of_eq ((h s).2.1 (message 1950) (coreEp 0) r.1 r.2.1 r.2.2 rfl hr)
  all_goals decide +kernel

/-- A place that is no fabric window. -/
def isNear : Except Exc Loc → Bool
  | .ok (.fabric _ _) => false
  | _ => true

theorem near_of {r : Except Exc Loc} (h : isNear r = true) : ∀ w o, r ≠ .ok (.fabric w o) := by
  rintro w o rfl
  cases h

/-- The other outcomes of a close: the three causes exclude each other here, and each is met at its bound. -/
theorem hyp_claim_outcomes (h : Obligations.ClaimEvents) :
    let y := claim 1400 (some 1) none
    (∃ t, exec .claimClose (closing [1805] true []) = .next t ∧ ClosedAs t (member [{ claim 1500 none none with objected := true }]) (claim 1500 none none).handle 2) ∧
    (∃ t, exec .claimClose (closing [] false [y]) = .next t ∧ ClosedAs t (member [claim 1500 none none, y]) (claim 1500 none none).handle 3) ∧
    ∃ t, exec .claimClose (closing [] false []) = .next t ∧ ClosedAs t (member [claim 1500 none none]) (claim 1500 none none).handle 1 := by
  have c (b : List Nat) (o : Bool) (l : List Claim) := (h (closing b o l)).2.2.2.2.2.2.1 (member ({ claim 1500 none none with objected := o } :: l)) { claim 1500 none none with objected := o } (List.mem_singleton.2 rfl)
  refine ⟨(c [1805] true [] ?_).imp fun _ h => ⟨h.1, (h.2.2.2.2 ?_).2.1 ?_ rfl⟩,
    (c [] false [claim 1400 (some 1) none] ?_).imp fun _ h => ⟨h.1, (h.2.2.2.2 ?_).2.2.1 ?_ rfl ⟨claim 1400 (some 1) none, ?_, ?_⟩⟩,
    (c [] false [] ?_).imp fun _ h => ⟨h.1, ((h.2.2.2.2 ?_).2.2.2 ?_ rfl ?_ (near_of ?_)).1⟩⟩
  all_goals first | decide +kernel | (unfold Beats; decide +kernel)

/-- A due claim whose effect store has left for the window of token 5, with its answer. -/
def farClosing : State :=
  let s := closing [1804] false []
  let m := (((s.mem.hbm.write 0x40000 0x50001 8).write 0x50000 0x60001 8).write 0x60000 0x70001 8).write 0x70008 0x00500000000003E3 8
  { s with
    mem := { s.mem with hbm := m }
    fab := { s.fab with far := [⟨(effectBy (member [])).handle, (coreEp 0).toNat, none, true, 0x10038, 8, .data [], []⟩] } }

/-- R391: its outcome stands, whatever has arrived since. -/
theorem hyp_claim_far (h : Obligations.ClaimEvents) :
    ∃ t, exec .claimClose farClosing = .next t ∧ ClosedAs t (member [claim 1500 none none]) (claim 1500 none none).handle 1 :=
  ((h farClosing).2.2.2.2.2.2.1 (member [claim 1500 none none]) (claim 1500 none none) (by decide +kernel) (by decide +kernel)).imp
    fun _ h => ⟨h.1, h.2.2.2.1 (.data []) 5 0x10038 (by decide +kernel) nofun (by decide +kernel)⟩

/-- R358, R315: a reply for a register of a thread that is swapped out. -/
def awayReply : State :=
  let r : Req := { asked (.scalar 3 1 true) 0 with wid := 1 }
  let s := answering (windowed [r] (.reply 0 7 .ok [0x80])) 0 7 .ok [0x80]
  { s with sched := { s.sched with swapped := [swapped] } }

theorem hyp_reply_away (h : Obligations.FabricEvents) :
    ∃ u : State, exec .fabricReplyArrival awayReply = .next u.endLdrs.endJobs ∧ u.mem.hbm.read 0x2000F8 8 = 2 ^ 64 - 128 :=
  ((h awayReply).2.2.2.1 0 7 .ok [0x80] { asked (.scalar 3 1 true) 0 with wid := 1 } rfl (by decide +kernel) (by decide +kernel) (answered_of rfl)
    (by decide +kernel)).imp fun _ h => ⟨h.1, (h.2.2.2.1 3 1 true rfl).2.2 swapped (by decide +kernel) rfl (by decide)⟩

/-- `tabled`, after a boot, with a result ring at 0xA0000, a record at 0xB0000 of HBM, requests and an event. -/
def hosting (record : List Byte) (q : List HostReq) (c : Choice) : State :=
  let s := choosing (tabled node) c
  { s with mem := { s.mem with hbm := s.mem.hbm.writeBytes 0xB0000 record }, host := { s.host with srbase := 0xA0000, bootst := 1, queue := q } }

/-- A submission of that record, with `n` re-reads made. -/
def submission (n : Nat) : HostReq := ⟨0xB0000, false, n, 0, none⟩

/-- R400 to R404, R409, R410: a write of bytes; registers of the host of each kind, malformed accesses; submissions that are refused, accepted and
read again, to the last time; a boot of a flash that cannot be read, of an image, and a second one; a function-level reset. -/
theorem hyp_host (h : Obligations.HostAccessesAndBoot) :
    let r (off : BitVec 16) (n : Nat) := hosting [] [] (.hostReg off n 5)
    let good := nodeRecord 4 2 0 0
    let cold (f : FlashRead) : State := { hosting [] [] (.flash f) with host := State.reset.host }
    Completes (exec .hostWrite (hosting [] [] (.hostWrite 0x100 [1, 2] true))) ∧ Completes (exec .hostRegisterWrite (r 8 8)) ∧
    Completes (exec .hostRegisterWrite (r 0x13F8 8)) ∧ Completes (exec .hostRegisterWrite (r 0x18 8)) ∧ Completes (exec .hostRegisterWrite (r 8 4)) ∧
    Completes (exec .hostRegisterRead (r 0x1000 8)) ∧ Completes (exec .hostRegisterRead (r 9 8)) ∧
    Completes (exec .submit (hosting [] [] (.value 0x1000000000B0000))) ∧ Completes (exec .submit (hosting good [] (.value 0xB0000))) ∧
    Completes (exec .submit (hosting (put good 8 4 9) [] (.value 0xB0000))) ∧ Completes (exec .submitReread (hosting good [submission 1] .none)) ∧
    Completes (exec .submitReread (hosting (put good 8 4 9) [submission 15] .none)) ∧
    Completes (exec .submitReread (hosting (put good 8 4 9) [submission 16] .none)) ∧
    Completes (exec .boot (cold .unreadable)) ∧ Completes (exec .boot (cold (.image [1] [2]))) ∧ Completes (exec .boot (hosting [] [] (.flash .malformed))) ∧
    Completes (exec .functionLevelReset (hosting [] [] (.flash .unreadable))) := by
  have good : (hosting (nodeRecord 4 2 0 0) [] .none).mem.hbm.bytes 0xB0000 256 = nodeRecord 4 2 0 0 := by decide +kernel
  have bad : (hosting (put (nodeRecord 4 2 0 0) 8 4 9) [] .none).mem.hbm.bytes 0xB0000 256 = put (nodeRecord 4 2 0 0) 8 4 9 := by decide +kernel
  have sum : (recordCrc (nodeRecord 4 2 0 0) 0x7C).toNat = field (nodeRecord 4 2 0 0) 0x7C 4 := by rw [checksum_eq]; decide +kernel
  have off : ¬ (recordCrc (put (nodeRecord 4 2 0 0) 8 4 9) 0x7C).toNat = field (put (nodeRecord 4 2 0 0) 8 4 9) 0x7C 4 := by rw [checksum_eq]; decide +kernel
  have good : (recordCrc ((hosting (nodeRecord 4 2 0 0) [] .none).mem.hbm.bytes 0xB0000 256) 0x7C).toNat =
      field ((hosting (nodeRecord 4 2 0 0) [] .none).mem.hbm.bytes 0xB0000 256) 0x7C 4 := by rw [good]; exact sum
  have bad : ¬ (recordCrc ((hosting (put (nodeRecord 4 2 0 0) 8 4 9) [] .none).mem.hbm.bytes 0xB0000 256) 0x7C).toNat =
      field ((hosting (put (nodeRecord 4 2 0 0) 8 4 9) [] .none).mem.hbm.bytes 0xB0000 256) 0x7C 4 := by rw [bad]; exact off
  refine ⟨of_next ((h _).1 0x100 [1, 2] true rfl ?_), of_eq (((h _).2.1 8 8 5 rfl).1 ?_ rfl), of_eq (((h _).2.1 0x13F8 8 5 rfl).2.1 ?_ ?_),
    of_eq (((h _).2.1 0x18 8 5 rfl).2.2.1 ?_ ?_ ?_ ?_ ?_), of_eq (((h _).2.1 8 4 5 rfl).2.2.2.1 ?_).1, of_eq (((h _).2.1 0x1000 8 5 rfl).2.2.2.2 ?_ ?_ ?_),
    of_eq (((h _).2.1 9 8 5 rfl).2.2.2.1 ?_).2, of_next (((h _).2.2.1 0x1000000000B0000 rfl rfl ?_ ?_).1 (.inl ?_)),
    of_next (((h _).2.2.1 0xB0000 rfl rfl ?_ ?_).2.1 ?_ ?_ ⟨?good1, ?_⟩), of_eq (((h _).2.2.1 0xB0000 rfl rfl ?_ ?_).2.2 ?_ ?_ ?bad1),
    of_next (((h _).2.2.2.1 (submission 1) rfl rfl rfl ?_ ?_ ?_ ?_ ?_).1 ⟨?good2, ?_⟩),
    of_eq (((h _).2.2.2.1 (submission 15) rfl rfl rfl ?_ ?_ ?_ ?_ ?_).2.1 ?bad2 ?_),
    of_next (((h _).2.2.2.1 (submission 16) rfl rfl rfl ?_ ?_ ?_ ?_ ?_).2.2 ?bad3 ?_),
    of_next ((h _).2.2.2.2.1 .unreadable rfl ?_), of_next ((h _).2.2.2.2.1 (.image [1] [2]) rfl ?_), of_eq ((h _).2.2.2.2.2.1 .malformed rfl ?_),
    of_next ((h _).2.2.2.2.2.2 .unreadable rfl)⟩
  case good1 => exact good
  case good2 => exact good
  case bad1 => exact fun x => bad x.1
  case bad2 => exact fun x => bad x.1
  case bad3 => exact fun x => bad x.1
  all_goals decide +kernel

/-- A service record of stream 9. -/
def service (code flags : Nat) (a0 a1 a2 a3 a4 out : Nat) : List Byte :=
  bytesOf code 2 ++ bytesOf flags 2 ++ bytesOf 9 4 ++ bytesOf a0 8 ++ bytesOf a1 8 ++ bytesOf a2 8 ++ bytesOf a3 8 ++ bytesOf a4 8 ++ bytesOf out 8 ++ bytesOf 0 8

/-- The request of the host that it has been read for, and the stream. -/
def wish (l : List Byte) : HostReq := ⟨0xB0000, true, 0, 0, some l⟩
def keep : Stream := ⟨9, 0x40000, [(2, group)], none, 0⟩

/-- That request at the head of the queue, tables of groups and windows, free frames, a group descriptor of one member in page 1, and page 5 in the
window of token 7. -/
def asking (l : List Byte) : State :=
  let s := choosing pooled (.service .host 0)
  { s with mem := { s.mem with hbm := ⟨[(0x40000, 1), (0x40002, 5), (0x50000, 1), (0x50002, 6), (0x60000, 1), (0x60002, 7), (0x70008, 0xE3), (0x70009, 1),
             (0x7000A, 8), (0x70010, 0xE3), (0x70011, 1), (0x70012, 9), (0x70028, 0x63), (0x70029, 3), (0x7002E, 0x70), (0x80000, 78), (0x80008, 0x40),
             (0x8000A, 1), (0x80010, 1), (0x80013, 64), (0x80014, 192), (0x8001A, 2), (0x80020, 0xFF), (0x80021, 0xFF), (0x80041, 0x80), (0x80048, 0x20)]⟩ },
           streams := [keep], sched := { s.sched with nodes := [node] }, host := { s.host with srbase := 0xA0000, bootst := 1, queue := [wish l] },
           fab := { s.fab with sgtab := 0xC0000, swtab := 0xD0000, swcnt := 2 }, porter := { s.porter with cxlFree := [(60, 2)], hbmFree := [(100, 4)] } }

theorem asking_memory (l : List Byte) : MemoryOk (asking l) := (show MemoryOk (asking []) by decide +kernel)

theorem wanted (l : List Byte) (s : State) (code : Nat) (h : s.choice = .service .host 0 ∧ s.host.queue = [wish l] ∧ s.host.begun = [] ∧ s.host.srbase ≠ 0 ∧
    s.stream 9 = some keep ∧ (parseService l).code = code ∧ (parseService l).stream = 9) : HostWants s code (wish l) (parseService l) keep := by
  obtain ⟨h1, h2, hb, h3, h4, h5, h6⟩ := h
  exact ⟨⟨0, h1⟩, h2, hb, h3, by rw [h6]; exact h4, rfl, h5, by rw [← h5]; rfl⟩

theorem ok_one {ε α : Type} {r : Except ε α} (h : r.isOk = true) : ∃ a, r = .ok a := by
  cases r with
  | ok a => exact ⟨a, rfl⟩
  | error e => exact absurd h nofun

theorem used_zero {l : List Word} : (∀ a ∈ l, a = 0) ↔ l.all (· == 0) = true := by simp

/-- One page of a fill word, and the pages of a source. -/
theorem place_fill {s : State} {x : Stream} {r : SvcRec} {v : Nat} (h1 : r.flags = 1) (h2 : r.arg1.toNat = 1) (h3 : r.arg2.toNat = v) :
    PlaceBytes s x r [(List.range 65536).map fun i => (bytesOf v 4).getD (i % 4) 0] := by
  subst h3
  refine ⟨by rw [h2]; rfl, fun k hk => ?_⟩
  rw [if_pos h1, show k = 0 by omega]
  rfl

theorem place_source {s : State} {x : Stream} {r : SvcRec} {l0 l1 : List Byte} (h1 : r.flags = 0) (h2 : r.arg1.toNat = 2)
    (h3 : s.streamBytes x.root (r.arg2 + BitVec.ofNat 64 (65536 * 0)) 65536 = .ok l0)
    (h4 : s.streamBytes x.root (r.arg2 + BitVec.ofNat 64 (65536 * 1)) 65536 = .ok l1) : PlaceBytes s x r [l0, l1] := by
  refine ⟨by rw [h2]; rfl, fun k hk => ?_⟩
  rw [if_neg (by rw [h1]; decide)]
  obtain rfl | rfl : k = 0 ∨ k = 1 := by omega
  · exact ⟨l0, h3, rfl⟩
  · exact ⟨l1, h4, rfl⟩

/-- The bytes that a read gives. -/
def given (r : Except SvcHalt (List Byte)) : List Byte := r.toOption.getD []

theorem given_of {r : Except SvcHalt (List Byte)} (h : r.isOk = true) : r = .ok (given r) := by
  cases r with
  | ok a => rfl
  | error e => exact absurd h nofun

/-- A read of a stream's range is refused. -/
def refusedArg : Except SvcHalt (List Byte) → Bool
  | .error (.refused .badArg) => true
  | _ => false

theorem refusedArg_of {r : Except SvcHalt (List Byte)} (h : refusedArg r = true) : r = .error (.refused .badArg) := by
  cases r with
  | ok a => cases h
  | error e => cases e with
    | refused x => cases x <;> first | rfl | cases h
    | _ => cases h

/-- R407: PLACE refused, from a source that is not mapped at its first or at a later page, without a frame, with one page of a fill word, and with
two pages of a source. -/
theorem hyp_place (h : Obligations.InnkeeperServices) :
    let none' : State := { asking (service 1 1 0x30000 1 7 15 0 0) with porter := { (asking []).porter with cxlFree := [] } }
    Completes (exec .place (asking (service 1 1 0x30001 1 7 0 0 0))) ∧ Completes (exec .place (asking (service 1 0 0x30000 1 0x90000 0 0 0))) ∧
    Completes (exec .place (asking (service 1 0 0x30000 2 0x20000 0 0 0))) ∧ Completes (exec .place none') ∧
    Completes (exec .place (asking (service 1 1 0x30000 1 7 15 0 0))) ∧ Completes (exec .place (asking (service 1 0 0x30000 2 0x10000 15 0 0))) := by
  unfold Obligations.InnkeeperServices at h
  simp only [OnlyUses, used_zero] at h
  have k (l : List Byte) := h (asking l) (asking_memory l)
  refine ⟨of_next (((k _).1 _ _ _ (wanted (service 1 1 0x30001 1 7 0 0 0) _ _ ?_)).1 (.inr (.inl ?_))),
    of_next (((k _).1 _ _ _ (wanted (service 1 0 0x30000 1 0x90000 0 0 0) _ _ ?_)).2.1 0 ?_ ?_ ?_ (refusedArg_of ?_) nofun),
    of_next (((k _).1 _ _ _ (wanted (service 1 0 0x30000 2 0x20000 0 0 0) _ _ ?_)).2.1 1 ?_ ?_ ?_ (refusedArg_of ?_) ?one),
    of_next (((h _ ?_).1 _ _ _ (wanted (service 1 1 0x30000 1 7 15 0 0) _ _ ?_)).2.2.1 _ ?_ (place_fill (v := 7) ?_ ?_ ?_) ?_),
    of_next (((k _).1 _ _ _ (wanted (service 1 1 0x30000 1 7 15 0 0) _ _ ?_)).2.2.2 _ _ ?_ (place_fill (v := 7) ?_ ?_ ?_) (some_of ?_)),
    of_next (((k _).1 _ _ _ (wanted (service 1 0 0x30000 2 0x10000 15 0 0) _ _ ?_)).2.2.2 _ _ ?_
      (place_source ?_ ?_ (given_of ?_) (given_of ?_)) (some_of ?_))⟩
  case one =>
    intro j hj
    obtain rfl : j = 0 := by omega
    exact ⟨_, given_of (by decide +kernel)⟩
  all_goals decide +kernel

/-- GROUP in each form. -/
theorem hyp_group (h : Obligations.InnkeeperServices) :
    let a := asking
    Completes (exec .group (a (service 2 0 0x10000 16 0 0 0 0))) ∧ Completes (exec .group (a (service 2 1 0 2 0 0 0 0))) ∧
    Completes (exec .group (a (service 2 0 0x10008 15 0 0 0 0))) ∧ Completes (exec .group (a (service 2 0 0x10000 15 0 0 0 0))) := by
  unfold Obligations.InnkeeperServices at h
  simp only [OnlyUses, used_zero] at h
  have k (l : List Byte) := (h (asking l) (asking_memory l)).2.1 (wish l) (parseService l) keep
  refine ⟨of_next ((k _ (wanted (service 2 0 0x10000 16 0 0 0 0) _ _ ?_)).1 ?_), of_next ((k _ (wanted (service 2 1 0 2 0 0 0 0) _ _ ?_)).2.1 ?_ ?_ ?_),
    of_next ((k _ (wanted (service 2 0 0x10008 15 0 0 0 0) _ _ ?_)).2.2.1 ?_ ?_ ?_),
    (ok_one (r := (asking (service 2 0 0x10000 15 0 0 0 0)).readGroup 0x40000 0x10000) ?_).elim fun g hg =>
      of_next ((k _ (wanted (service 2 0 0x10000 15 0 0 0 0) _ _ ?_)).2.2.2 g ?_ ?_ hg)⟩
  all_goals decide +kernel

/-- CONTEXT in each form, POOL at its bounds. -/
theorem hyp_context (h : Obligations.InnkeeperServices) :
    let a := asking
    let other (l : List Byte) : State := { a l with grants := [(31, 8)] }
    let held (l : List Byte) : State := { a l with sched := { (a l).sched with nodes := [{ node with contexts := [31] }] } }
    let runs (l : List Byte) : State := { a l with eng := { (a l).eng with opt := [optCmd (.card (optCard 1 0x10000 0 true)) 0 (some fixed)] } }
    Completes (exec .context (a (service 3 0 32 0 0 0 0 0))) ∧ Completes (exec .context (other (service 3 1 31 4 0 0 0 0))) ∧
    Completes (exec .context (a (service 3 2 31 0 0 0 0 0))) ∧ Completes (exec .context (held (service 3 0 31 0 0 0 0 0))) ∧
    Completes (exec .context (runs (service 3 1 31 4 0 0 0 0))) ∧ Completes (exec .context (a (service 3 1 31 4 0 0 0 0))) ∧
    Completes (exec .pool (a (service 4 0 0x1000001 0 0 0 0 0))) ∧
    Completes (exec .pool (a (service 4 0 0x1000000 0 0 0 0 0))) := by
  unfold Obligations.InnkeeperServices at h
  simp only [OnlyUses, used_zero] at h
  have k (l : List Byte) := (h (asking l) (asking_memory l)).2.2.1 (wish l) (parseService l) keep
  refine ⟨of_next ((k _ (wanted (service 3 0 32 0 0 0 0 0) _ _ ?_)).1 ?_),
    of_next (((h _ ?_).2.2.1 _ _ _ (wanted (service 3 1 31 4 0 0 0 0) _ _ ?_)).2.1 ?_ ?_),
    of_next ((k _ (wanted (service 3 2 31 0 0 0 0 0) _ _ ?_)).2.2.1 ?_ ⟨all_left ?_, ?_⟩ ?_),
    of_next (((h _ ?_).2.2.1 _ _ _ (wanted (service 3 0 31 0 0 0 0 0) _ _ ?_)).2.1 ?_ ?_),
    of_eq (((h _ ?_).2.2.1 _ _ _ (wanted (service 3 1 31 4 0 0 0 0) _ _ ?_)).2.2.2.1 ?_ ⟨all_left ?_, ?_⟩ ?_ ?_),
    of_next ((k _ (wanted (service 3 1 31 4 0 0 0 0) _ _ ?_)).2.2.2.2 ?_ ⟨all_left ?_, ?_⟩ ?_ ?_),
    of_next (((h _ (asking_memory _)).2.2.2.1 _ _ _ (wanted (service 4 0 0x1000001 0 0 0 0 0) _ _ ?_)).1 ?_),
    of_next (((h _ (asking_memory _)).2.2.2.1 _ _ _ (wanted (service 4 0 0x1000000 0 0 0 0 0) _ _ ?_)).2 ?_)⟩
  all_goals decide +kernel

/-- GTABLE: bounds, no table, an entry taken away, malformed members, no frame, and one written; WINDOW: bounds, no entry, revoked, not consecutive
frames, opened. -/
theorem hyp_tables (h : Obligations.InnkeeperServices) :
    let a := asking
    let bare (l : List Byte) : State := { a l with fab := { (a l).fab with sgtab := 0, swcnt := 0 } }
    let full (l : List Byte) : State := { a l with porter := { (a l).porter with hbmFree := [] } }
    let apart (l : List Byte) : State := { a l with mem := { (a l).mem with hbm := (a l).mem.hbm.write 0x70012 0xB 1 } }
    Completes (exec .gtable (a (service 5 0 1024 0 0 0 0 0))) ∧ Completes (exec .gtable (bare (service 5 0 1023 0 0 0 0 0))) ∧
    Completes (exec .gtable (a (service 5 0 1023 0 0 0 0 0))) ∧ Completes (exec .gtable (a (service 5 0 1 0x10010 1 0 0 0))) ∧
    Completes (exec .gtable (full (service 5 0 1 0x10100 1 0 0 0))) ∧ Completes (exec .gtable (a (service 5 0 1 0x10100 1 0 0 0))) ∧
    Completes (exec .window (a (service 6 0 0x10000 0 0 0 0 0))) ∧ Completes (exec .window (bare (service 6 0 1 0 0 0 0 0))) ∧
    Completes (exec .window (a (service 6 1 1 0 0 0 0 0))) ∧ Completes (exec .window (apart (service 6 0 1 0x10000 0x20000 15 0 0))) ∧
    Completes (exec .window (a (service 6 0 1 0x10000 0x20000 15 0 0))) := by
  unfold Obligations.InnkeeperServices at h
  simp only [OnlyUses, used_zero] at h
  have g (l : List Byte) := (h (asking l) (asking_memory l)).2.2.2.2.1 (wish l) (parseService l) keep
  have w (l : List Byte) := (h (asking l) (asking_memory l)).2.2.2.2.2.1 (wish l) (parseService l) keep
  refine ⟨of_next ((g _ (wanted (service 5 0 1024 0 0 0 0 0) _ _ ?_)).1 ?_),
    of_next (((h _ ?_).2.2.2.2.1 _ _ _ (wanted (service 5 0 1023 0 0 0 0 0) _ _ ?_)).2.1 ?_ ?_),
    of_next ((g _ (wanted (service 5 0 1023 0 0 0 0 0) _ _ ?_)).2.2.1 ?_ ?_ ?_ ?_),
    of_next (((g _ (wanted (service 5 0 1 0x10010 1 0 0 0) _ _ ?_)).2.2.2 _ 0 [] ?_ ?_ ?_ ?_ (given_of ?_)).1 ?_),
    of_next ((((h _ ?_).2.2.2.2.1 _ _ _ (wanted (service 5 0 1 0x10100 1 0 0 0) _ _ ?_)).2.2.2 _ 0 [] ?_ ?_ ?_ ?_ (given_of ?_)).2.1 ?_ ?_),
    of_next (((g _ (wanted (service 5 0 1 0x10100 1 0 0 0) _ _ ?_)).2.2.2 _ 100 [(101, 3)] ?_ ?_ ?_ ?_ (given_of ?_)).2.2 ?_ ?_ ?_),
    of_next ((w _ (wanted (service 6 0 0x10000 0 0 0 0 0) _ _ ?_)).1 ?_),
    of_next (((h _ ?_).2.2.2.2.2.1 _ _ _ (wanted (service 6 0 1 0 0 0 0 0) _ _ ?_)).2.1 ?_ ?_ ?_),
    of_next ((w _ (wanted (service 6 1 1 0 0 0 0 0) _ _ ?_)).2.2.1 _ ?_ ?_ ?_ (some_of ?_) ?_),
    of_next ((((h _ ?_).2.2.2.2.2.1 _ _ _ (wanted (service 6 0 1 0x10000 0x20000 15 0 0) _ _ ?_)).2.2.2 _ _ 0x80000 ?_ ?_ (some_of ?_) ?_ ?_ ?_ ?_ ?_ (some_of ?_) ?_).1 ?_),
    of_next (((w _ (wanted (service 6 0 1 0x10000 0x20000 15 0 0) _ _ ?_)).2.2.2 _ _ 0x80000 ?_ ?_ (some_of ?_) ?_ ?_ ?_ ?_ ?_ (some_of ?_) ?_).2 ?_)⟩
  all_goals decide +kernel

/-- GRANT at its bounds, with and without an output and to a page that is none; RETIRE; TOKMAP mapped, unmapped, in use; ATTEST and MEASURE. -/
theorem hyp_grants (h : Obligations.InnkeeperServices) :
    let a := asking
    let busy (l : List Byte) : State := { a l with fab := { (a l).fab with reqs := [{ request with win := some 7 }] } }
    Completes (exec .grant (a (service 7 0 0x10000 0 0 0 0 0))) ∧ Completes (exec .grant (a (service 7 0 0xFFFF 511 15 4095 0 0))) ∧
    Completes (exec .grant (a (service 7 0 0xFFFF 511 15 4095 0 0x1FFF8))) ∧ Completes (exec .grant (a (service 7 0 0xFFFF 511 15 4095 0 0x90000))) ∧
    Completes (exec .retire (a (service 8 0 256 0 0 0 0 0))) ∧ Completes (exec .retire (a (service 8 0 255 0 0 0 0 0))) ∧
    Completes (exec .tokmap (a (service 9 0 4096 0 0 0 0 0))) ∧ Completes (exec .tokmap (a (service 9 0 4095 5 767 0x30000 2 0))) ∧
    Completes (exec .tokmap (a (service 9 1 7 0 0 0x50000 1 0))) ∧ Completes (exec .tokmap (busy (service 9 1 7 0 0 0x50000 1 0))) ∧
    Completes (exec .attest (a (service 10 2 0 0 0 0 0 0))) ∧ Completes (exec .attest (a (service 10 1 0x90000 0 0 0 0 0))) ∧
    Completes (exec .attest (a (service 10 1 0x10000 0 0 0 0 0))) ∧ Completes (exec .attest (a (service 10 0 0x10000 0 0 0 0 0x90000))) ∧
    Completes (exec .measure (a (service 11 0 1 0 0 0 0 0))) ∧ Completes (exec .measure (a (service 11 0 0 0 0 0 0 0))) ∧
    Completes (exec .measure (a (service 11 0 0 0 0 0 0 0x20000))) ∧ Completes (exec .measure (a (service 11 0 0 0 0 0 0 0x90000))) := by
  unfold Obligations.InnkeeperServices at h
  simp only [OnlyUses, used_zero] at h
  have g (l : List Byte) := (h (asking l) (asking_memory l)).2.2.2.2.2.2.1 (wish l) (parseService l) keep
  have r (l : List Byte) := (h (asking l) (asking_memory l)).2.2.2.2.2.2.2.1 (wish l) (parseService l) keep
  have t (l : List Byte) := (h (asking l) (asking_memory l)).2.2.2.2.2.2.2.2.1 (wish l) (parseService l) keep
  have a (l : List Byte) := (h (asking l) (asking_memory l)).2.2.2.2.2.2.2.2.2.1 (wish l) (parseService l) keep
  have m (l : List Byte) := (h (asking l) (asking_memory l)).2.2.2.2.2.2.2.2.2.2.1 (wish l) (parseService l) keep
  refine ⟨of_next ((g _ (wanted (service 7 0 0x10000 0 0 0 0 0) _ _ ?_)).1 ?_),
    of_next (((g _ (wanted (service 7 0 0xFFFF 511 15 4095 0 0) _ _ ?_)).2 0 ?_ ?_ ?_ ?_).1 ?_),
    of_next (((g _ (wanted (service 7 0 0xFFFF 511 15 4095 0 0x1FFF8) _ _ ?_)).2 0 ?_ ?_ ?_ ?_).2.1 0x8FFF8 ?_),
    of_next (((g _ (wanted (service 7 0 0xFFFF 511 15 4095 0 0x90000) _ _ ?_)).2 0 ?_ ?_ ?_ ?_).2.2 ?_ ?_ ?_),
    of_next ((r _ (wanted (service 8 0 256 0 0 0 0 0) _ _ ?_)).1 ?_), of_next ((r _ (wanted (service 8 0 255 0 0 0 0 0) _ _ ?_)).2 ?_),
    of_next ((t _ (wanted (service 9 0 4096 0 0 0 0 0) _ _ ?_)).1 ?_),
    of_next ((t _ (wanted (service 9 0 4095 5 767 0x30000 2 0) _ _ ?_)).2.1 _ ?_ ?_ ?_ ?_ ?_ ?_ ?_ (some_of ?_)),
    of_next (((t _ (wanted (service 9 1 7 0 0 0x50000 1 0) _ _ ?_)).2.2 _ ?_ ?_ ?_ ?_ ?_ ?_ (some_of ?_)).1 (all_left ?_)),
    of_eq ((((h _ ?_).2.2.2.2.2.2.2.2.1 _ _ _ (wanted (service 9 1 7 0 0 0x50000 1 0) _ _ ?_)).2.2 _ ?_ ?_ ?_ ?_ ?_ ?_ (some_of ?_)).2 ⟨_, List.mem_singleton.2 rfl, ?_⟩),
    of_next ((a _ (wanted (service 10 2 0 0 0 0 0 0) _ _ ?_)).1 ?_), of_next ((a _ (wanted (service 10 1 0x90000 0 0 0 0 0) _ _ ?_)).2.1 ?_ (refusedArg_of ?_)),
    of_next (((a _ (wanted (service 10 1 0x10000 0 0 0 0 0) _ _ ?_)).2.2 _ ?_ (given_of ?_)).1 ?_),
    of_next (((a _ (wanted (service 10 0 0x10000 0 0 0 0 0x90000) _ _ ?_)).2.2 _ ?_ (given_of ?_)).2.2 ?_ ?_ ?_),
    of_next ((m _ (wanted (service 11 0 1 0 0 0 0 0) _ _ ?_)).1 ?_), of_next (((m _ (wanted (service 11 0 0 0 0 0 0 0) _ _ ?_)).2 ?_).1 ?_),
    of_next (((m _ (wanted (service 11 0 0 0 0 0 0 0x20000) _ _ ?_)).2 ?_).2.1 0x90000 ?_),
    of_next (((m _ (wanted (service 11 0 0 0 0 0 0 0x90000) _ _ ?_)).2 ?_).2.2 ?_ ?_ ?_)⟩
  all_goals decide +kernel

/-- A program whose record is misaligned. -/
theorem hyp_program_service (h : Obligations.InnkeeperServices) :
    let s : State := { asking [] with choice := .service .program 0 }
    let s := (s.setX 5 32).mapCore fun c => { c with sup := { c.sup with mode := .supervisor, scause := 0xC000000000001340 } }
    Completes (exec .measure s) := by
  refine of_eq ((h _ ?_).2.2.2.2.2.2.2.2.2.2.2 0 ?_ ?_ ?_ .measure ?_) <;> decide +kernel

end Sys2Proof.Tests
end

section
/-! PROOF. The predicates as one byte: `ppack` and `punpk` (R54). -/

namespace Sys2Proof.Proofs.Predicates

open Sys2Proof.Machine

/-! ### The predicates as bits of a word -/

/-- Bits [7:0] of the predicates widened to a word. -/
theorem getLsbD_setWidth_preds (s : State) (n : BitVec 3) : (s.core.sc.p.setWidth 64).getLsbD n.toNat = s.p n := by
  have hn : n.toNat < 64 := by omega
  rw [BitVec.getLsbD_setWidth, decide_eq_true hn, Bool.true_and]
  rfl

/-- Bits [63:8] of the predicates widened to a word. -/
theorem getLsbD_setWidth_preds_of_le (s : State) {n : Nat} (hn : 8 ≤ n) : (s.core.sc.p.setWidth 64).getLsbD n = false := by
  rw [BitVec.getLsbD_setWidth, BitVec.getLsbD_of_ge _ _ hn, Bool.and_false]

/-- Reading a predicate after all eight were taken from the low byte of a word. -/
theorem mapSc_p_setWidth (s : State) (w : Word) (n : BitVec 3) :
    (s.mapSc fun c => { c with p := w.setWidth 8 }).p n = w.getLsbD n.toNat := by
  have hn : n.toNat < 8 := n.isLt
  show (w.setWidth 8).getLsbD n.toNat = w.getLsbD n.toNat
  rw [BitVec.getLsbD_setWidth, decide_eq_true hn, Bool.true_and]

/-! ### The two instructions -/

theorem exec_ppack (s : State) (d : Reg) : exec (.ppack d) s = .next ((s.setX d (s.core.sc.p.setWidth 64)).complete 4) := rfl

theorem exec_punpk (s : State) (a : Reg) :
    exec (.punpk a) s = .next ((s.mapSc fun c => { c with p := (s.x a).setWidth 8 }).complete 4) := rfl

/-- An instruction that replaces the eight predicates and completes changes nothing else. -/
theorem finishes_mapSc_p (s : State) (b : BitVec 8) (len : Nat) :
    let t := (s.mapSc fun c => { c with p := b }).complete len
    Finishes s { s with core := { s.core with sc := { s.core.sc with p := t.core.sc.p } } } t len := by
  intro t
  have hp : t.core.sc.p = b := complete_scp ..
  rw [hp]
  exact complete_finishes s _ len rfl rfl

/-- Settles O3: the packed word is the predicates zero-extended, and unpacking keeps the low byte of the register. -/
theorem predicatesPackAndUnpack : Obligations.PredicatesPackAndUnpack := by
  refine ⟨fun s d => ?_, fun s a => ?_⟩
  · exact ⟨_, _, exec_ppack s d, writesX_alu s d _ 4, getLsbD_setWidth_preds s, fun _ => getLsbD_setWidth_preds_of_le s⟩
  · refine ⟨_, exec_punpk s a, fun n => ?_, finishes_mapSc_p s _ 4⟩
    rw [complete_p, mapSc_p_setWidth]

end Sys2Proof.Proofs.Predicates
end

section
/-! PROOF. The loop stack at a completion in sequence, and at the transfers that skip the test (R154). -/

namespace Sys2Proof.Proofs.Loops

open Sys2Proof.Machine

/-! ### What the innermost entry does -/

section
variable {L : Word} {e : LoopEntry} (rest : List LoopEntry)

/-- A loop that ends here with more than one repetition left goes back to its start. -/
theorem loopBack_repeat (hk : e.kind = .loop) (hl : e.last = L) (hr : 1 < e.remaining.toNat) :
    State.loopBack L (e :: rest) = ({ e with remaining := e.remaining - 1, index := e.index + 1 } :: rest, some e.start) := by
  rw [State.loopBack, if_pos ⟨hk, hl⟩, if_pos hr]

/-- A loop that ends here on its last repetition is popped, and the next entry is tested at the same end. -/
theorem loopBack_pop (hk : e.kind = .loop) (hl : e.last = L) (hr : e.remaining.toNat ≤ 1) :
    State.loopBack L (e :: rest) = State.loopBack L rest := by
  rw [State.loopBack, if_pos ⟨hk, hl⟩, if_neg (Nat.not_lt.mpr hr)]

/-- A frame, or a loop that ends elsewhere, stops the search. -/
theorem loopBack_stop (h : e.kind ≠ .loop ∨ e.last ≠ L) : State.loopBack L (e :: rest) = (e :: rest, none) := by
  rw [State.loopBack, if_neg (not_and_or.mpr h)]

end

/-! ### The loop stack and the PC after each transfer of control -/

/-- Completion in sequence takes the stack and the PC that the test of the loop stack gives. -/
theorem complete_loops_pc (s : State) (len : Nat) :
    let r := State.loopBack (s.pc + BitVec.ofNat 64 len - 4) s.loops
    (s.complete len).loops = r.1 ∧ (s.complete len).pc = r.2.getD (s.pc + BitVec.ofNat 64 len) := by
  have h : InSequence s (s.complete len) len := complete_inSequence s s len rfl rfl
  unfold InSequence at h
  generalize State.loopBack (s.pc + BitVec.ofNat 64 len - 4) s.loops = r at h ⊢
  rcases r with ⟨l, _ | start⟩
  all_goals
    obtain ⟨hpc, hloops, -⟩ := h
    exact ⟨hloops, hpc⟩

theorem jump_loops (s : State) (target : Word) : (s.jump target).loops = s.loops := rfl

theorem toInnkeeper_loops (s : State) (x : Exc) (epc : Word) : (s.toInnkeeper x epc).loops = s.loops := by
  unfold State.toInnkeeper
  split
  · rfl
  · rfl

/-- An exception leaves the loop stack, whoever receives it. -/
theorem deliver_loops (s : State) (x : Exc) (epc : Word) : (s.deliver x epc).loops = s.loops := by
  unfold State.deliver
  split
  · rfl
  · exact toInnkeeper_loops s x epc

theorem except_loops (s : State) (x : Exc) : (s.except x).loops = s.loops := deliver_loops s x s.pc

/-- Settles O4: one lemma for each thing the innermost entry does, then one for each way that control moves on. -/
theorem loopsRepeatAtTheirEnd : Obligations.LoopsRepeatAtTheirEnd := by
  intro L e rest
  exact ⟨rfl, loopBack_repeat rest, loopBack_pop rest, loopBack_stop rest, complete_loops_pc,
    fun s target x => ⟨jump_loops s target, except_loops s x⟩⟩

end Sys2Proof.Proofs.Loops
end
